-- ==== Sys2Proof/Word.lean ====
section
/-! DEFINITION. The word types of the XQ9-256A and the shape of its sparse tables. The functions over them
stand in Machine/Bits.lean and Machine/Tables.lean. -/

namespace Sys2Proof

/-- One byte (R3). -/
abbrev Byte := BitVec 8
/-- One word of a bundle (R58). -/
abbrev Word := BitVec 32
/-- A scalar slot, a system register, a dword of a record (R51, R111). -/
abbrev Dword := BitVec 64
/-- The 256 bytes of a vector slot; a scalar slot uses bits 63:0 (R51). -/
abbrev SlotBits := BitVec 2048
/-- A format tag of R50. -/
abbrev Tag := BitVec 6

/-- A sparse table: keys strictly rising, at most one entry a key. -/
abbrev Table (α : Type) := List (Nat × α)

/-- A memory: (address, byte) pairs, addresses strictly rising, no byte equal to what an unlisted address reads as. -/
abbrev Mem := List Host.Cell

end Sys2Proof
end

