-- ==== Sys2Proof/Machine/Bits.lean ====
section
/-! DEFINITION. Bit fields, signed readings and little-endian byte strings (R3), the plainest arithmetic every other file uses. -/

namespace Sys2Proof.Machine

/-- NAME[lo+len-1:lo] of the word x (R3). -/
def fld (x lo len : Nat) : Nat := x / 2 ^ lo % 2 ^ len

/-- Bit i of x. -/
def bit (x i : Nat) : Bool := x / 2 ^ i % 2 == 1

/-- Bits n-1:0 of v read as two's complement. -/
def sval (n v : Nat) : Int :=
  if v % 2 ^ n < 2 ^ (n - 1) then ((v % 2 ^ n : Nat) : Int) else ((v % 2 ^ n : Nat) : Int) - ((2 ^ n : Nat) : Int)

/-- The n-bit two's-complement pattern congruent to x modulo 2^n (wrap of R6, R42). -/
def wrap (n : Nat) (x : Int) : Nat := (x % ((2 ^ n : Nat) : Int)).toNat

/-- `sat(x, lo, hi)` of R6. -/
def satInt (x lo hi : Int) : Int := if x < lo then lo else if hi < x then hi else x

/-- Bits n-1:0 of v sign-extended to 64 bits (`sx` of R90). -/
def sx (n v : Nat) : Nat := wrap 64 (sval n v)

/-- Bits n-1:0 of v zero-extended (`zx` of R90). -/
def zx (n v : Nat) : Nat := v % 2 ^ n

/-- A 64-bit word from a number. -/
def dw (n : Nat) : Dword := BitVec.ofNat 64 n

/-- ⌈a / b⌉. -/
def ceilDiv (a b : Nat) : Nat := (a + b - 1) / b

/-- The n bytes of v, lowest first (R3). -/
def bytesLE : Nat → Nat → List Byte
  | 0, _ => []
  | n + 1, v => BitVec.ofNat 8 v :: bytesLE n (v / 256)

/-- The number whose little-endian bytes are given (R3). -/
def ofBytes : List Byte → Nat
  | [] => 0
  | b :: bs => b.toNat + 256 * ofBytes bs

/-- The first n numbers, ascending. -/
def upto (n : Nat) : List Nat := List.range n

/-- The number of set bits among bits n-1:0 of v. -/
def popcount : Nat → Nat → Nat
  | 0, _ => 0
  | n + 1, v => v % 2 + popcount n (v / 2)

/-- The set bits among bits n-1:0 of v, ascending. -/
def setBits (n v : Nat) : List Nat := (upto n).filter (fun i => bit v i)

/-- The word with exactly the bits of the list set. -/
def ofBits (is : List Nat) : Nat := is.foldl (fun acc i => if bit acc i then acc else acc + 2 ^ i) 0

/-- x with its field [lo+len-1:lo] replaced by v. -/
def setFld (x lo len v : Nat) : Nat := x - fld x lo len * 2 ^ lo + v % 2 ^ len * 2 ^ lo

end Sys2Proof.Machine
end

