-- ==== Sys2Proof/Syntax.lean ====
section
/-! DEFINITION. The syntax: the fields of a syllable, of a pump word and of a flit, and Instr, one constructor per row of
spec/opcode_table.json: the syllables of R69-R76, the pump commands of R211, the flits of R296, and the events. -/

namespace Sys2Proof

/-- A source specifier (R61): qsel[4:0], offset[9:5], pop[12:10]. -/
structure Src where
  qsel : BitVec 5
  off  : BitVec 5
  pop  : BitVec 3
deriving DecidableEq, Repr

/-- The fields of a syllable beside its opcode (R60), as they stand in its 64 bits: the issue unit faults on their values
in the order of R67, so decoding keeps them raw. -/
structure Fields where
  dst : BitVec 5
  a   : Src
  b   : Src
  c   : Src
  mod : BitVec 10
deriving DecidableEq, Repr

/-- The S-slot compare codes of R70. -/
inductive Cc
  | eq | ne | lt | ge | ltu | geu | gt | le | gtu | leu
deriving DecidableEq, Repr

/-- The V-slot floating-point formats of opcode[1:0] (R72). -/
inductive FFmt
  | f32 | f64 | f16 | bf16
deriving DecidableEq, Repr

/-- The V-slot integer element types of opcode[2:0] (R72). -/
inductive ITy
  | i8 | i16 | i32 | i64 | ui8 | ui16 | ui32 | ui64
deriving DecidableEq, Repr

/-- The matrix operand formats of opcode[2:0] (R74). -/
inductive MFmt
  | bf16 | f16 | f32 | f64 | n8 | n4
deriving DecidableEq, Repr

/-- The matrix unit whose slot holds the syllable (R74). -/
inductive MUnit
  | m0 | m1
deriving DecidableEq, Repr

/-- The slots of a bundle in slot order (R58). -/
inductive Slot
  | s | p | w | v | m0 | m1 | e | x
deriving DecidableEq, Repr

/-- The fields of a pump command word beside CMD (R210), raw: bits 59:0. -/
structure PumpFields where
  delta : BitVec 16
  rt    : BitVec 2
  dofs  : BitVec 20
  col   : BitVec 6
  slot  : BitVec 12
  bank  : BitVec 4
deriving DecidableEq, Repr

/-- A flit as it lies on a link (R296): its header, payload, tag, link word (bits 31:25 of which are zero) and CRC-32C. -/
structure Flit where
  header  : Dword
  payload : BitVec 768
  auth    : BitVec 128
  seq     : BitVec 12
  ack     : BitVec 12
  nak     : Bool
  crc     : Word
deriving DecidableEq, Repr

/-- The three ways a fault is raised (R339). -/
inductive Kind
  | inPlace | postIssue | deferred
deriving DecidableEq, Repr

/-- A raised cause with what it leaves in ADDR and AUX (R341); `engine` holds the knot and engine number of an engine
fault (R342), `itl` the issuing level (R340). A post-issue trap that stays due keeps the return word of its bundle in `ret` and
the mark of a handler's first bundle in `hent` (R342, R365). -/
structure Trap where
  cause  : Nat
  kind   : Kind
  addr   : Dword
  aux    : Dword
  engine : Option (Nat × Nat)
  itl    : Nat
  ret    : Option Dword := none
  hent   : Bool := false
deriving DecidableEq, Repr

/-- Why a task is killed (R346) and what the kill record takes from the trap or failure (R348); `held` gives, for a strand that is being
restored, its CORELOC and TL and the eight dwords of its banks. -/
structure KillInfo where
  reason : Nat
  cause  : Nat
  pos    : Nat
  words  : Option (Dword × Dword × Dword × Dword)
  held   : Option (Nat × Nat × List Dword) := none
deriving DecidableEq, Repr

/-- What a PRI response or a translation completion says (R272, R414). -/
inductive PriCode
  | success | invalidRequest | responseFailure
deriving DecidableEq, Repr

/-- A translation completion from the host (R414): the permissions it grants, or an error completion. -/
inductive AtsAnswer
  | granted (readOk writeOk : Bool) | error
deriving DecidableEq, Repr

/-- How an update in recovery mode ends (R415). -/
inductive RecoveryEnd
  | readFailed | signatureFailed | tooLong | flashWriteFailed | written
deriving DecidableEq, Repr

/-- What a scrub reads of a unit (R391, R397). -/
inductive ScrubFinding
  | clean | corrected | uncorrectable
deriving DecidableEq, Repr

/-- The store a scrub walks (R397). -/
inductive ScrubStore
  | scratchpad | vault | lpddr
deriving DecidableEq, Repr

/-- The target registers of a host write that has no behaviour of its own (R320): a function's BAR0, or the PF's BAR4. -/
inductive Window
  | bar0 (fn : Nat) | bar4
deriving DecidableEq, Repr

/-- One constructor per row of spec/opcode_table.json. The rows that only the agenda brings stand last. -/
inductive Instr
  -- the issue unit
  | emptyBundle (yield : Bool)
  | runLimit (core : Nat)
  | waitLimitExpiry (core strand : Nat)
  | waitExpiry (core strand : Nat)
  | budgetFault (core strand : Nat)
  | takeTrap (core strand : Nat) (t : Trap)
  | deferredFaultTaken (core strand : Nat)
  | kill (fn task : Nat) (k : KillInfo)
  -- S slot
  | nop (f : Fields)
  | add (w64 : Bool) (f : Fields)
  | sub (w64 : Bool) (f : Fields)
  | mul (w64 : Bool) (f : Fields)
  | mulhs (w64 : Bool) (f : Fields)
  | mulhu (w64 : Bool) (f : Fields)
  | div (w64 : Bool) (f : Fields)
  | divu (w64 : Bool) (f : Fields)
  | rem (w64 : Bool) (f : Fields)
  | remu (w64 : Bool) (f : Fields)
  | shl (w64 : Bool) (f : Fields)
  | shr (w64 : Bool) (f : Fields)
  | sar (w64 : Bool) (f : Fields)
  | and (f : Fields)
  | or (f : Fields)
  | xor (f : Fields)
  | andn (f : Fields)
  | min (f : Fields)
  | max (f : Fields)
  | minu (f : Fields)
  | maxu (f : Fields)
  | clz (f : Fields)
  | popc (f : Fields)
  | sext (f : Fields)
  | zext (f : Fields)
  | li (f : Fields)
  | movq (f : Fields)
  | dup (f : Fields)
  | drop (f : Fields)
  | qlen (f : Fields)
  | cmp (cc : Cc) (f : Fields)
  | sel (f : Fields)
  | ptg (f : Fields)
  | br (f : Fields)
  | brc (f : Fields)
  | call (f : Fields)
  | ret (f : Fields)
  | loop (f : Fields)
  | loopSp (f : Fields)
  | loopSw (f : Fields)
  | loopTask (f : Fields)
  | shapeFetchReturn (core strand : Nat)
  | lend (f : Fields)
  | vany (f : Fields)
  | vall (f : Fields)
  | ktest (f : Fields)
  | kwait (f : Fields)
  | qwait (f : Fields)
  | trap (f : Fields)
  | eret (f : Fields)
  | srd (f : Fields)
  | swr (f : Fields)
  | phase (f : Fields)
  | trig (f : Fields)
  | endStrand (f : Fields)
  -- P and W slots
  | ldp (f : Fields)
  | ldw (f : Fields)
  | stp (f : Fields)
  | stw (f : Fields)
  | ldpv (f : Fields)
  | ldwv (f : Fields)
  | stpv (f : Fields)
  | stwv (f : Fields)
  | ldps (f : Fields)
  | ldwg (f : Fields)
  | stwx (f : Fields)
  | slotWrite (core id : Nat)
  | storePerformed (core id : Nat)
  | vaultTouch (core id : Nat)
  | regionFill (core strand region block : Nat)
  -- V slot
  | fadd (t : FFmt) (f : Fields)
  | fsub (t : FFmt) (f : Fields)
  | fmul (t : FFmt) (f : Fields)
  | ffma (t : FFmt) (f : Fields)
  | ffms (t : FFmt) (f : Fields)
  | fnma (t : FFmt) (f : Fields)
  | fmin (t : FFmt) (f : Fields)
  | fmax (t : FFmt) (f : Fields)
  | fabs (t : FFmt) (f : Fields)
  | fneg (t : FFmt) (f : Fields)
  | fdiv (t : FFmt) (f : Fields)
  | fsqrt (t : FFmt) (f : Fields)
  | frcp (t : FFmt) (f : Fields)
  | frsq (t : FFmt) (f : Fields)
  | fexp2 (t : FFmt) (f : Fields)
  | flog2 (t : FFmt) (f : Fields)
  | fcmp (t : FFmt) (f : Fields)
  | fclass (t : FFmt) (f : Fields)
  | iadd (t : ITy) (f : Fields)
  | isub (t : ITy) (f : Fields)
  | imul (t : ITy) (f : Fields)
  | imulh (t : ITy) (f : Fields)
  | imad (t : ITy) (f : Fields)
  | iand (t : ITy) (f : Fields)
  | ior (t : ITy) (f : Fields)
  | ixor (t : ITy) (f : Fields)
  | ishl (t : ITy) (f : Fields)
  | ishr (t : ITy) (f : Fields)
  | isar (t : ITy) (f : Fields)
  | imin (t : ITy) (f : Fields)
  | imax (t : ITy) (f : Fields)
  | icmp (t : ITy) (f : Fields)
  | cvt (f : Fields)
  | cvtn (f : Fields)
  | pack (f : Fields)
  | unpack (f : Fields)
  | vsel (f : Fields)
  | vbcast (f : Fields)
  | vperm (f : Fields)
  | vshuf (f : Fields)
  | vrot (f : Fields)
  | vext (f : Fields)
  | vins (f : Fields)
  | vrsum (f : Fields)
  | vrmax (f : Fields)
  | vrmin (f : Fields)
  | vscan (f : Fields)
  | mand (f : Fields)
  | mor (f : Fields)
  | mnot (f : Fields)
  | mpopc (f : Fields)
  -- M slots
  | mma (u : MUnit) (t : MFmt) (f : Fields)
  | mmaz (u : MUnit) (t : MFmt) (f : Fields)
  | mzero (u : MUnit) (f : Fields)
  | mdrain (u : MUnit) (f : Fields)
  | maccl (u : MUnit) (f : Fields)
  | maccs (u : MUnit) (f : Fields)
  | mfmt (u : MUnit) (f : Fields)
  | tileWrite (core id : Nat) (residueBad : Bool)
  | macclComplete (core id : Nat)
  -- E slot and the engines
  | copy (f : Fields)
  | copyf (f : Fields)
  | cpq (f : Fields)
  | scata (f : Fields)
  | skupd (f : Fields)
  | skqry (f : Fields)
  | skadd (f : Fields)
  | skscale (f : Fields)
  | skclr (f : Fields)
  | pump (f : Fields)
  | psplit (f : Fields)
  | mapr (f : Fields)
  | mapreq (f : Fields)
  | kjoin (f : Fields)
  | mldr (f : Fields)
  | coll (f : Fields)
  | engineStart (op : Nat)
  | copyChunk (op : Nat)
  | cpqUnit (op : Nat)
  | scataUpdate (op : Nat)
  | sketchUpdate (op : Nat)
  | engineComplete (op : Nat)
  | engineFail (op : Nat) (t : Trap)
  | regionWriteBack (core strand region : Nat)
  | psplitCommit (op : Nat)
  -- stitch row
  | stcfg (f : Fields)
  | strun (f : Fields)
  | ststop (f : Fields)
  | stitchLoadEnd (core : Nat)
  | rowCycle (core : Nat)
  -- X slot
  | qdesc (f : Fields)
  | qgraft (f : Fields)
  | qgraftDone (core strand : Nat)
  | qungraft (f : Fields)
  | qungraftDone (core strand : Nat)
  | fdset (f : Fields)
  | tspawn (f : Fields)
  | tspawnEntry (core strand : Nat)
  | tfork (f : Fields)
  | tforkStep (core strand : Nat)
  | tcancel (f : Fields)
  | bindOffStop (walk : Nat)
  | bindOffWalk (walk : Nat)
  | tprio (f : Fields)
  | agset (f : Fields)
  | agsetDone (core strand : Nat)
  | traceOn (f : Fields)
  | traceOff (f : Fields)
  | traceMark (f : Fields)
  | traceArm (f : Fields)
  | graftArrival (core id : Nat)
  | graftCreditReturn (core id : Nat)
  -- pumps
  | programStart (pump : Nat)
  | act (pump : Nat) (w : PumpFields)
  | rd (pump : Nat) (w : PumpFields)
  | wr (pump : Nat) (w : PumpFields)
  | pre (pump : Nat) (w : PumpFields)
  | prea (pump : Nat) (w : PumpFields)
  | refab (pump : Nat) (w : PumpFields)
  | refpb (pump : Nat) (w : PumpFields)
  | slots (pump : Nat) (w : PumpFields)
  | ksig (pump : Nat) (w : PumpFields)
  | pend (pump : Nat) (w : PumpFields)
  | rdDataDelivery (pump id : Nat)
  | wrPerformed (pump id : Nat)
  | refreshTimer (pump : Nat)
  | owedRefresh (pump : Nat)
  | dynamicTraffic (pump : Nat)
  | patrolScrub (store : ScrubStore) (key : Nat) (found : ScrubFinding)
  -- dispatcher and tasks
  | dispatcherSelection
  | taskBecomesBlocking (fn task : Nat)
  | contextSave (fn task : Nat)
  | strandEnd (core strand : Nat)
  | taskComplete (fn task : Nat)
  | trigger (fn task : Nat)
  | taskReady (fn task : Nat)
  | phaseComplete (fn task : Nat)
  | epochSweep (die : Nat)
  -- links
  | idle (port : Nat) (fl : Flit)
  | readRequest (port : Nat) (fl : Flit)
  | readData (port : Nat) (fl : Flit)
  | writeData (port : Nat) (fl : Flit)
  | writeAcknowledgement (port : Nat) (fl : Flit)
  | ringChunk (port : Nat) (fl : Flit)
  | mldrRequest (port : Nat) (fl : Flit)
  | mldrData (port : Nat) (fl : Flit)
  | collectiveControl (port : Nat) (fl : Flit)
  | keyControl (port : Nat) (fl : Flit)
  | nak (port : Nat) (seq : BitVec 12)
  | portRetrain (port : Nat)
  | portTrained (port : Nat)
  | sealCountExhausted (port : Nat)
  | mldrMemberTimeout (op member : Nat)
  | collectiveTimeout (op : Nat) (lrank : Nat)
  -- the rest of the issue unit and of the hazards
  | switchOnBlockedBundle (core : Nat)
  | readHoldRelease (core id : Nat)
  | readFlagClear (core id : Nat)
  | flitDiscarded (port : Nat) (fl : Flit)
  -- host windows
  | taskPortWrite (fn port : Nat) (size : Nat) (aligned : Bool) (rec : BitVec 1024)
  | apertureRead (fn : Nat) (off len : Nat)
  | apertureWrite (fn : Nat) (off : Nat) (data : List Byte)
  | tlbinv (fn : Nat)
  | tlbinvComplete (fn : Nat)
  | resq (fn : Nat)
  | ekcmdInstall (fn peer : Nat)
  | ekcmdRemove (fn peer : Nat)
  | ekcmdEffect (fn : Nat)
  | ldcmdLoad (fn : Nat)
  | loadEnd (fn : Nat)
  | ldcmdUnload (fn : Nat)
  | unloadComplete (index : Nat)
  | trcctlUnfreeze (fn : Nat)
  | trcctlOwnerWrite (core owner : Nat)
  | hctlInstall (port epoch : Nat)
  | pctlEpochWrite (port epoch : Nat)
  | domtabWrite (index : Nat) (v : Dword)
  | registerWrite (w : Window) (off : Nat) (v : Dword)
  -- PCIe
  | priResponse (fn page : Nat) (code : PriCode)
  | priTimeout (fn page : Nat)
  | atsCompletion (fn page : Nat) (ans : AtsAnswer)
  | atsInvalidation (fn page : Nat)
  | hostReadCompletion (fn : Nat) (addr : Nat) (ok poisoned : Bool) (data : List Byte)
  | hostReadTimeout (fn : Nat) (addr : Nat)
  | functionLevelReset (vf : Nat)
  | moduleReset (imageVerifies : Bool)
  | dieEntersService (die : Nat)
  | matrixSelfTestEnd (die : Nat) (pass : Bool)
  | clockChange (core mhz : Nat)
  | rcvctlGo
  | recoveryUpdateEnd (r : RecoveryEnd)
  | wellheadWatchdog
  | textPageRepair (die page : Nat)
  | priReset (fn : Nat)
  | atsOrBusMasterEnable (fn : Nat) (ats bme : Bool)
deriving DecidableEq, Repr

end Sys2Proof
end

