-- ==== Sys2Proof/Decode.lean ====
section
/-! DEFINITION. Decoding (R58-R76, R210-R211, R296) and, after it, the encoder written from the same tables. -/

namespace Sys2Proof

/-! ### Fields -/

/-- The 13 bits of a source specifier (R61). -/
def Src.ofNat (n : Nat) : Src := { qsel := BitVec.ofNat 5 n, off := BitVec.ofNat 5 (n / 32), pop := BitVec.ofNat 3 (n / 1024) }

def Src.toNat (s : Src) : Nat := s.qsel.toNat + 32 * s.off.toNat + 1024 * s.pop.toNat

/-- The unused value 0x001F of a source specifier (R60). -/
def Src.unused : Src := { qsel := 31, off := 0, pop := 0 }

/-- The fields of a syllable's 64 bits (R60). -/
def Fields.ofNat (v : Nat) : Fields :=
  { dst := BitVec.ofNat 5 (v / 2 ^ 10), a := Src.ofNat (v / 2 ^ 15), b := Src.ofNat (v / 2 ^ 28), c := Src.ofNat (v / 2 ^ 41),
    mod := BitVec.ofNat 10 (v / 2 ^ 54) }

/-- The 64 bits of a syllable with an opcode. -/
def Fields.toNat (op : Nat) (f : Fields) : Nat :=
  op + 2 ^ 10 * f.dst.toNat + 2 ^ 15 * f.a.toNat + 2 ^ 28 * f.b.toNat + 2 ^ 41 * f.c.toNat + 2 ^ 54 * f.mod.toNat

/-- mod[lo+len-1:lo]. -/
def Fields.m (f : Fields) (lo len : Nat) : Nat := Machine.fld f.mod.toNat lo len

/-! ### Opcode maps -/

def Cc.ofNat? : Nat → Option Cc
  | 0 => some .eq | 1 => some .ne | 2 => some .lt | 3 => some .ge | 4 => some .ltu
  | 5 => some .geu | 6 => some .gt | 7 => some .le | 8 => some .gtu | 9 => some .leu
  | _ => none

def Cc.code : Cc → Nat
  | .eq => 0 | .ne => 1 | .lt => 2 | .ge => 3 | .ltu => 4 | .geu => 5 | .gt => 6 | .le => 7 | .gtu => 8 | .leu => 9

def FFmt.ofCode : Nat → FFmt
  | 0 => .f32 | 1 => .f64 | 2 => .f16 | _ => .bf16

def FFmt.code : FFmt → Nat
  | .f32 => 0 | .f64 => 1 | .f16 => 2 | .bf16 => 3

def ITy.ofCode : Nat → ITy
  | 0 => .i8 | 1 => .i16 | 2 => .i32 | 3 => .i64 | 4 => .ui8 | 5 => .ui16 | 6 => .ui32 | _ => .ui64

def ITy.code : ITy → Nat
  | .i8 => 0 | .i16 => 1 | .i32 => 2 | .i64 => 3 | .ui8 => 4 | .ui16 => 5 | .ui32 => 6 | .ui64 => 7

def MFmt.ofNat? : Nat → Option MFmt
  | 0 => some .bf16 | 1 => some .f16 | 2 => some .f32 | 3 => some .f64 | 4 => some .n8 | 5 => some .n4 | _ => none

def MFmt.code : MFmt → Nat
  | .bf16 => 0 | .f16 => 1 | .f32 => 2 | .f64 => 3 | .n8 => 4 | .n4 => 5

/-- The S-slot rows with an .I32 and an .I64 form (R69). -/
def sylArith (op : Nat) (w : Bool) (f : Fields) : Option Instr :=
  match op with
  | 0x10 => some (.add w f) | 0x12 => some (.sub w f) | 0x14 => some (.mul w f) | 0x16 => some (.mulhs w f)
  | 0x18 => some (.mulhu w f) | 0x1A => some (.div w f) | 0x1C => some (.divu w f) | 0x1E => some (.rem w f)
  | 0x20 => some (.remu w f) | 0x22 => some (.shl w f) | 0x24 => some (.shr w f) | 0x26 => some (.sar w f)
  | _ => none

/-- The four forms of LOOP, by KIND = mod[4:3] (R88, R100). -/
def sylLoop (f : Fields) : Instr :=
  match f.m 3 2 with
  | 0 => .loop f | 1 => .loopSp f | 2 => .loopSw f | _ => .loopTask f

/-- The S-slot map (R69). -/
def sylS (op : Nat) (f : Fields) : Option Instr :=
  if op < 0x30 then (if op == 0 then some (.nop f) else sylArith (op / 2 * 2) (op % 2 == 1) f)
  else if 0x80 ≤ op ∧ op < 0x90 then (Cc.ofNat? (op - 0x80)).map (fun c => .cmp c f)
  else match op with
  | 0x30 => some (.and f) | 0x31 => some (.or f) | 0x32 => some (.xor f) | 0x33 => some (.andn f)
  | 0x34 => some (.min f) | 0x35 => some (.max f) | 0x36 => some (.minu f) | 0x37 => some (.maxu f)
  | 0x38 => some (.clz f) | 0x39 => some (.popc f) | 0x3A => some (.sext f) | 0x3B => some (.zext f)
  | 0x40 => some (.li f) | 0x41 => some (.movq f) | 0x42 => some (.dup f) | 0x43 => some (.drop f) | 0x44 => some (.qlen f)
  | 0x90 => some (.sel f)
  | 0xC0 => some (.ptg f) | 0xC1 => some (.br f) | 0xC2 => some (.brc f) | 0xC3 => some (.call f) | 0xC4 => some (.ret f)
  | 0xC5 => some (sylLoop f) | 0xC6 => some (.lend f) | 0xC8 => some (.vany f) | 0xC9 => some (.vall f)
  | 0xD0 => some (.ktest f) | 0xD1 => some (.kwait f) | 0xD2 => some (.qwait f)
  | 0x100 => some (.trap f) | 0x101 => some (.eret f) | 0x102 => some (.srd f) | 0x103 => some (.swr f)
  | 0x104 => some (.phase f) | 0x105 => some (.trig f) | 0x106 => some (.endStrand f)
  | _ => none

/-- The P-slot map (R71). -/
def sylP (op : Nat) (f : Fields) : Option Instr :=
  match op with
  | 1 => some (.ldp f) | 2 => some (.stp f) | 3 => some (.ldpv f) | 4 => some (.stpv f) | 5 => some (.ldps f) | _ => none

/-- The W-slot map (R71). -/
def sylW (op : Nat) (f : Fields) : Option Instr :=
  match op with
  | 1 => some (.ldw f) | 2 => some (.stw f) | 3 => some (.ldwv f) | 4 => some (.stwv f) | 5 => some (.ldwg f)
  | 6 => some (.stwx f) | _ => none

/-- The floating-point rows of the V-slot map, by opcode / 4 (R72). -/
def sylVf (row : Nat) (t : FFmt) (f : Fields) : Option Instr :=
  match row with
  | 4 => some (.fadd t f) | 5 => some (.fsub t f) | 6 => some (.fmul t f) | 7 => some (.ffma t f) | 8 => some (.ffms t f)
  | 9 => some (.fnma t f) | 10 => some (.fmin t f) | 11 => some (.fmax t f) | 12 => some (.fabs t f) | 13 => some (.fneg t f)
  | 14 => some (.fdiv t f) | 15 => some (.fsqrt t f) | 16 => some (.frcp t f) | 17 => some (.frsq t f)
  | 18 => some (.fexp2 t f) | 19 => some (.flog2 t f) | 20 => some (.fcmp t f) | 21 => some (.fclass t f) | _ => none

/-- The integer rows of the V-slot map, by opcode / 8 (R72). -/
def sylVi (row : Nat) (t : ITy) (f : Fields) : Option Instr :=
  match row with
  | 16 => some (.iadd t f) | 17 => some (.isub t f) | 18 => some (.imul t f) | 19 => some (.imulh t f) | 20 => some (.imad t f)
  | 21 => some (.iand t f) | 22 => some (.ior t f) | 23 => some (.ixor t f) | 24 => some (.ishl t f) | 25 => some (.ishr t f)
  | 26 => some (.isar t f) | 27 => some (.imin t f) | 28 => some (.imax t f) | 29 => some (.icmp t f) | _ => none

/-- The V-slot map (R72). -/
def sylV (op : Nat) (f : Fields) : Option Instr :=
  if op < 0x80 then sylVf (op / 4) (FFmt.ofCode (op % 4)) f
  else if op < 0x100 then sylVi (op / 8) (ITy.ofCode (op % 8)) f
  else match op with
  | 0x100 => some (.cvt f) | 0x101 => some (.cvtn f) | 0x102 => some (.pack f) | 0x103 => some (.unpack f)
  | 0x110 => some (.vsel f) | 0x111 => some (.vbcast f) | 0x112 => some (.vperm f) | 0x113 => some (.vshuf f)
  | 0x114 => some (.vrot f) | 0x115 => some (.vext f) | 0x116 => some (.vins f)
  | 0x120 => some (.vrsum f) | 0x121 => some (.vrmax f) | 0x122 => some (.vrmin f) | 0x123 => some (.vscan f)
  | 0x130 => some (.mand f) | 0x131 => some (.mor f) | 0x132 => some (.mnot f) | 0x133 => some (.mpopc f)
  | _ => none

/-- The M-slot map (R74). -/
def sylM (u : MUnit) (op : Nat) (f : Fields) : Option Instr :=
  if op / 8 = 2 then (MFmt.ofNat? (op % 8)).map (fun t => .mma u t f)
  else if op / 8 = 3 then (MFmt.ofNat? (op % 8)).map (fun t => .mmaz u t f)
  else match op with
  | 0x20 => some (.mzero u f) | 0x21 => some (.mdrain u f) | 0x22 => some (.maccl u f) | 0x23 => some (.maccs u f)
  | 0x24 => some (.mfmt u f) | _ => none

/-- The E-slot map (R75). -/
def sylE (op : Nat) (f : Fields) : Option Instr :=
  match op with
  | 0x01 => some (.copy f) | 0x02 => some (.copyf f) | 0x03 => some (.cpq f) | 0x04 => some (.scata f)
  | 0x10 => some (.skupd f) | 0x11 => some (.skqry f) | 0x12 => some (.skadd f) | 0x13 => some (.skscale f)
  | 0x14 => some (.skclr f) | 0x20 => some (.pump f) | 0x21 => some (.psplit f) | 0x30 => some (.mapr f)
  | 0x31 => some (.mapreq f) | 0x40 => some (.kjoin f) | 0x50 => some (.mldr f) | 0x51 => some (.coll f)
  | _ => none

/-- The four forms of TRACE, by mod[1:0] (R197). -/
def sylTrace (f : Fields) : Instr :=
  match f.m 0 2 with
  | 0 => .traceOn f | 1 => .traceOff f | 2 => .traceMark f | _ => .traceArm f

/-- The X-slot map (R76). -/
def sylX (op : Nat) (f : Fields) : Option Instr :=
  match op with
  | 0x01 => some (.stcfg f) | 0x02 => some (.strun f) | 0x03 => some (.ststop f) | 0x10 => some (.qdesc f)
  | 0x11 => some (.qgraft f) | 0x12 => some (.qungraft f) | 0x18 => some (.fdset f) | 0x20 => some (.tspawn f)
  | 0x21 => some (.tfork f) | 0x22 => some (.tcancel f) | 0x23 => some (.tprio f) | 0x30 => some (.agset f)
  | 0x38 => some (sylTrace f) | _ => none

/-- The instruction of a slot's opcode, in that slot's map (R68). -/
def sylOf (sl : Slot) (op : Nat) (f : Fields) : Option Instr :=
  match sl with
  | .s => sylS op f | .p => sylP op f | .w => sylW op f | .v => sylV op f
  | .m0 => sylM .m0 op f | .m1 => sylM .m1 op f | .e => sylE op f | .x => sylX op f

/-- The instruction in a syllable's 64 bits; none is an undefined opcode (R68). -/
def decodeSyllable (sl : Slot) (v : Nat) : Option Instr := sylOf sl (v % 2 ^ 10) (Fields.ofNat v)

/-! ### Bundles -/

/-- The slots in slot order, S at header bit 0 (R58). -/
def slotOrder : List Slot := [.s, .p, .w, .v, .m0, .m1, .e, .x]

def Slot.num : Slot → Nat
  | .s => 0 | .p => 1 | .w => 2 | .v => 3 | .m0 => 4 | .m1 => 5 | .e => 6 | .x => 7

/-- Header validity (R59). -/
def headerOk (h : Nat) : Bool := Nat.blt h 512 && h % 256 != 255

/-- The slots a header marks present, in slot order (R58). -/
def slotsOf (h : Nat) : List Slot := slotOrder.filter (fun sl => Machine.bit h sl.num)

/-- A syllable of a bundle: its slot, its 64 bits, its instruction where the opcode is defined. -/
structure Syl where
  slot  : Slot
  raw   : Nat
  instr : Option Instr
deriving DecidableEq, Repr

/-- A bundle whose header is valid. -/
structure Bundle where
  yield : Bool
  syls  : List Syl
deriving DecidableEq, Repr

/-- Why a run of words is no bundle. -/
inductive Reject
  | short
  | badHeader (h : Nat)
deriving DecidableEq, Repr

/-- The syllables of the slots in order, from word 1 on (R58). -/
def decodeSyls : List Slot → List Word → List Syl
  | sl :: sls, lo :: hi :: ws =>
    let v := lo.toNat + 2 ^ 32 * hi.toNat
    { slot := sl, raw := v, instr := decodeSyllable sl v } :: decodeSyls sls ws
  | _, _ => []

/-- Decode sixteen words (R58, R59). -/
def decodeBundle : List Word → Except Reject Bundle
  | [] => .error .short
  | h :: ws =>
    if ws.length != 15 then .error .short
    else if headerOk h.toNat then
      .ok { yield := Machine.bit h.toNat 8, syls := decodeSyls (slotsOf h.toNat) ws }
    else .error (.badHeader h.toNat)

/-- The one instruction of a bundle that holds none or one. -/
def Bundle.single (b : Bundle) : Option Instr :=
  match b.syls with
  | [] => some (.emptyBundle b.yield)
  | [y] => if b.yield then none else y.instr
  | _ => none

/-- Sixteen words from the 512 bits of a bundle. -/
def wordsOfNat (w : Nat) : List Word := (Machine.upto 16).map (fun i => BitVec.ofNat 32 (w / 2 ^ (32 * i)))

/-- The host's entry: the instruction in a bundle whose bits are w, the bits above nbits zero (log entry 2). -/
def decodeTableWord (nbits w : Nat) : Option Instr :=
  match decodeBundle (wordsOfNat (w % 2 ^ nbits)) with
  | .ok b => b.single
  | .error _ => none

/-! ### Pump words and flits -/

/-- The fields of a pump command word (R210). -/
def PumpFields.ofNat (v : Nat) : PumpFields :=
  { delta := BitVec.ofNat 16 (v / 2 ^ 44), rt := BitVec.ofNat 2 (v / 2 ^ 42), dofs := BitVec.ofNat 20 (v / 2 ^ 22),
    col := BitVec.ofNat 6 (v / 2 ^ 16), slot := BitVec.ofNat 12 (v / 2 ^ 4), bank := BitVec.ofNat 4 v }

def PumpFields.toNat (f : PumpFields) : Nat :=
  f.bank.toNat + 2 ^ 4 * f.slot.toNat + 2 ^ 16 * f.col.toNat + 2 ^ 22 * f.dofs.toNat + 2 ^ 42 * f.rt.toNat
    + 2 ^ 44 * f.delta.toNat

/-- The command of a pump word (R211); none is a reserved CMD. -/
def decodePump (pump v : Nat) : Option Instr :=
  let f := PumpFields.ofNat v
  match v / 2 ^ 60 % 16 with
  | 1 => some (.act pump f) | 2 => some (.rd pump f) | 3 => some (.wr pump f) | 4 => some (.pre pump f)
  | 5 => some (.prea pump f) | 6 => some (.refab pump f) | 7 => some (.refpb pump f) | 8 => some (.slots pump f)
  | 9 => some (.ksig pump f) | 15 => some (.pend pump f) | _ => none

/-- The row of a flit by the TYPE of its header (R296); none is a reserved TYPE. -/
def decodeFlit (port : Nat) (fl : Flit) : Option Instr :=
  match fl.header.toNat / 2 ^ 60 with
  | 0 => some (.idle port fl) | 1 => some (.readRequest port fl) | 2 => some (.readData port fl)
  | 3 => some (.writeData port fl) | 4 => some (.writeAcknowledgement port fl) | 5 => some (.ringChunk port fl)
  | 6 => some (.mldrRequest port fl) | 7 => some (.mldrData port fl) | 8 => some (.collectiveControl port fl)
  | 9 => some (.keyControl port fl) | _ => none

/-! ### Encoding -/

/-- The fields of a syllable. -/
def Instr.fields : Instr → Option Fields
  | .nop f | .add _ f | .sub _ f | .mul _ f | .mulhs _ f | .mulhu _ f | .div _ f | .divu _ f | .rem _ f | .remu _ f
  | .shl _ f | .shr _ f | .sar _ f | .and f | .or f | .xor f | .andn f | .min f | .max f | .minu f | .maxu f | .clz f
  | .popc f | .sext f | .zext f | .li f | .movq f | .dup f | .drop f | .qlen f | .cmp _ f | .sel f | .ptg f | .br f | .brc f
  | .call f | .ret f | .loop f | .loopSp f | .loopSw f | .loopTask f | .lend f | .vany f | .vall f | .ktest f | .kwait f
  | .qwait f | .trap f | .eret f | .srd f | .swr f | .phase f | .trig f | .endStrand f
  | .ldp f | .ldw f | .stp f | .stw f | .ldpv f | .ldwv f | .stpv f | .stwv f | .ldps f | .ldwg f | .stwx f
  | .fadd _ f | .fsub _ f | .fmul _ f | .ffma _ f | .ffms _ f | .fnma _ f | .fmin _ f | .fmax _ f | .fabs _ f | .fneg _ f
  | .fdiv _ f | .fsqrt _ f | .frcp _ f | .frsq _ f | .fexp2 _ f | .flog2 _ f | .fcmp _ f | .fclass _ f
  | .iadd _ f | .isub _ f | .imul _ f | .imulh _ f | .imad _ f | .iand _ f | .ior _ f | .ixor _ f | .ishl _ f | .ishr _ f
  | .isar _ f | .imin _ f | .imax _ f | .icmp _ f | .cvt f | .cvtn f | .pack f | .unpack f | .vsel f | .vbcast f | .vperm f
  | .vshuf f | .vrot f | .vext f | .vins f | .vrsum f | .vrmax f | .vrmin f | .vscan f | .mand f | .mor f | .mnot f | .mpopc f
  | .mma _ _ f | .mmaz _ _ f | .mzero _ f | .mdrain _ f | .maccl _ f | .maccs _ f | .mfmt _ f
  | .copy f | .copyf f | .cpq f | .scata f | .skupd f | .skqry f | .skadd f | .skscale f | .skclr f | .pump f | .psplit f
  | .mapr f | .mapreq f | .kjoin f | .mldr f | .coll f | .stcfg f | .strun f | .ststop f | .qdesc f | .qgraft f | .qungraft f
  | .fdset f | .tspawn f | .tfork f | .tcancel f | .tprio f | .agset f | .traceOn f | .traceOff f | .traceMark f | .traceArm f
    => some f
  | _ => none

def bnat (b : Bool) : Nat := if b then 1 else 0

def MUnit.slot : MUnit → Slot
  | .m0 => .m0 | .m1 => .m1

/-- The slot and opcode of a syllable (R69-R76). -/
def Instr.opcode : Instr → Option (Slot × Nat)
  | .nop _ => some (.s, 0)
  | .add w _ => some (.s, 0x10 + bnat w) | .sub w _ => some (.s, 0x12 + bnat w) | .mul w _ => some (.s, 0x14 + bnat w)
  | .mulhs w _ => some (.s, 0x16 + bnat w) | .mulhu w _ => some (.s, 0x18 + bnat w) | .div w _ => some (.s, 0x1A + bnat w)
  | .divu w _ => some (.s, 0x1C + bnat w) | .rem w _ => some (.s, 0x1E + bnat w) | .remu w _ => some (.s, 0x20 + bnat w)
  | .shl w _ => some (.s, 0x22 + bnat w) | .shr w _ => some (.s, 0x24 + bnat w) | .sar w _ => some (.s, 0x26 + bnat w)
  | .and _ => some (.s, 0x30) | .or _ => some (.s, 0x31) | .xor _ => some (.s, 0x32) | .andn _ => some (.s, 0x33)
  | .min _ => some (.s, 0x34) | .max _ => some (.s, 0x35) | .minu _ => some (.s, 0x36) | .maxu _ => some (.s, 0x37)
  | .clz _ => some (.s, 0x38) | .popc _ => some (.s, 0x39) | .sext _ => some (.s, 0x3A) | .zext _ => some (.s, 0x3B)
  | .li _ => some (.s, 0x40) | .movq _ => some (.s, 0x41) | .dup _ => some (.s, 0x42) | .drop _ => some (.s, 0x43)
  | .qlen _ => some (.s, 0x44) | .cmp c _ => some (.s, 0x80 + c.code) | .sel _ => some (.s, 0x90)
  | .ptg _ => some (.s, 0xC0) | .br _ => some (.s, 0xC1) | .brc _ => some (.s, 0xC2) | .call _ => some (.s, 0xC3)
  | .ret _ => some (.s, 0xC4) | .loop _ => some (.s, 0xC5) | .loopSp _ => some (.s, 0xC5) | .loopSw _ => some (.s, 0xC5)
  | .loopTask _ => some (.s, 0xC5) | .lend _ => some (.s, 0xC6) | .vany _ => some (.s, 0xC8) | .vall _ => some (.s, 0xC9)
  | .ktest _ => some (.s, 0xD0) | .kwait _ => some (.s, 0xD1) | .qwait _ => some (.s, 0xD2)
  | .trap _ => some (.s, 0x100) | .eret _ => some (.s, 0x101) | .srd _ => some (.s, 0x102) | .swr _ => some (.s, 0x103)
  | .phase _ => some (.s, 0x104) | .trig _ => some (.s, 0x105) | .endStrand _ => some (.s, 0x106)
  | .ldp _ => some (.p, 1) | .stp _ => some (.p, 2) | .ldpv _ => some (.p, 3) | .stpv _ => some (.p, 4) | .ldps _ => some (.p, 5)
  | .ldw _ => some (.w, 1) | .stw _ => some (.w, 2) | .ldwv _ => some (.w, 3) | .stwv _ => some (.w, 4) | .ldwg _ => some (.w, 5)
  | .stwx _ => some (.w, 6)
  | .fadd t _ => some (.v, 0x10 + t.code) | .fsub t _ => some (.v, 0x14 + t.code) | .fmul t _ => some (.v, 0x18 + t.code)
  | .ffma t _ => some (.v, 0x1C + t.code) | .ffms t _ => some (.v, 0x20 + t.code) | .fnma t _ => some (.v, 0x24 + t.code)
  | .fmin t _ => some (.v, 0x28 + t.code) | .fmax t _ => some (.v, 0x2C + t.code) | .fabs t _ => some (.v, 0x30 + t.code)
  | .fneg t _ => some (.v, 0x34 + t.code) | .fdiv t _ => some (.v, 0x38 + t.code) | .fsqrt t _ => some (.v, 0x3C + t.code)
  | .frcp t _ => some (.v, 0x40 + t.code) | .frsq t _ => some (.v, 0x44 + t.code) | .fexp2 t _ => some (.v, 0x48 + t.code)
  | .flog2 t _ => some (.v, 0x4C + t.code) | .fcmp t _ => some (.v, 0x50 + t.code) | .fclass t _ => some (.v, 0x54 + t.code)
  | .iadd t _ => some (.v, 0x80 + t.code) | .isub t _ => some (.v, 0x88 + t.code) | .imul t _ => some (.v, 0x90 + t.code)
  | .imulh t _ => some (.v, 0x98 + t.code) | .imad t _ => some (.v, 0xA0 + t.code) | .iand t _ => some (.v, 0xA8 + t.code)
  | .ior t _ => some (.v, 0xB0 + t.code) | .ixor t _ => some (.v, 0xB8 + t.code) | .ishl t _ => some (.v, 0xC0 + t.code)
  | .ishr t _ => some (.v, 0xC8 + t.code) | .isar t _ => some (.v, 0xD0 + t.code) | .imin t _ => some (.v, 0xD8 + t.code)
  | .imax t _ => some (.v, 0xE0 + t.code) | .icmp t _ => some (.v, 0xE8 + t.code)
  | .cvt _ => some (.v, 0x100) | .cvtn _ => some (.v, 0x101) | .pack _ => some (.v, 0x102) | .unpack _ => some (.v, 0x103)
  | .vsel _ => some (.v, 0x110) | .vbcast _ => some (.v, 0x111) | .vperm _ => some (.v, 0x112) | .vshuf _ => some (.v, 0x113)
  | .vrot _ => some (.v, 0x114) | .vext _ => some (.v, 0x115) | .vins _ => some (.v, 0x116) | .vrsum _ => some (.v, 0x120)
  | .vrmax _ => some (.v, 0x121) | .vrmin _ => some (.v, 0x122) | .vscan _ => some (.v, 0x123) | .mand _ => some (.v, 0x130)
  | .mor _ => some (.v, 0x131) | .mnot _ => some (.v, 0x132) | .mpopc _ => some (.v, 0x133)
  | .mma u t _ => some (u.slot, 0x10 + t.code) | .mmaz u t _ => some (u.slot, 0x18 + t.code) | .mzero u _ => some (u.slot, 0x20)
  | .mdrain u _ => some (u.slot, 0x21) | .maccl u _ => some (u.slot, 0x22) | .maccs u _ => some (u.slot, 0x23)
  | .mfmt u _ => some (u.slot, 0x24)
  | .copy _ => some (.e, 1) | .copyf _ => some (.e, 2) | .cpq _ => some (.e, 3) | .scata _ => some (.e, 4)
  | .skupd _ => some (.e, 0x10) | .skqry _ => some (.e, 0x11) | .skadd _ => some (.e, 0x12) | .skscale _ => some (.e, 0x13)
  | .skclr _ => some (.e, 0x14) | .pump _ => some (.e, 0x20) | .psplit _ => some (.e, 0x21) | .mapr _ => some (.e, 0x30)
  | .mapreq _ => some (.e, 0x31) | .kjoin _ => some (.e, 0x40) | .mldr _ => some (.e, 0x50) | .coll _ => some (.e, 0x51)
  | .stcfg _ => some (.x, 1) | .strun _ => some (.x, 2) | .ststop _ => some (.x, 3) | .qdesc _ => some (.x, 0x10)
  | .qgraft _ => some (.x, 0x11) | .qungraft _ => some (.x, 0x12) | .fdset _ => some (.x, 0x18) | .tspawn _ => some (.x, 0x20)
  | .tfork _ => some (.x, 0x21) | .tcancel _ => some (.x, 0x22) | .tprio _ => some (.x, 0x23) | .agset _ => some (.x, 0x30)
  | .traceOn _ => some (.x, 0x38) | .traceOff _ => some (.x, 0x38) | .traceMark _ => some (.x, 0x38) | .traceArm _ => some (.x, 0x38)
  | _ => none

/-- The 64 bits of a pump command (R210, R211). -/
def Instr.pumpWord : Instr → Option Nat
  | .act _ w => some (w.toNat + 1 * 2 ^ 60) | .rd _ w => some (w.toNat + 2 * 2 ^ 60) | .wr _ w => some (w.toNat + 3 * 2 ^ 60)
  | .pre _ w => some (w.toNat + 4 * 2 ^ 60) | .prea _ w => some (w.toNat + 5 * 2 ^ 60) | .refab _ w => some (w.toNat + 6 * 2 ^ 60)
  | .refpb _ w => some (w.toNat + 7 * 2 ^ 60) | .slots _ w => some (w.toNat + 8 * 2 ^ 60) | .ksig _ w => some (w.toNat + 9 * 2 ^ 60)
  | .pend _ w => some (w.toNat + 15 * 2 ^ 60)
  | _ => none

/-- The header of a bundle with one syllable in the slot (R58). -/
def headerFor (sl : Slot) : Nat := 2 ^ sl.num

/-- The words of an instruction: the bundle that holds it alone with an empty pool, or the two words of a pump command. A row
that has no encoding has no words. -/
def encode (i : Instr) : List Word :=
  match i.opcode, i.fields with
  | some (sl, op), some f =>
    let v := f.toNat op
    [BitVec.ofNat 32 (headerFor sl), BitVec.ofNat 32 v, BitVec.ofNat 32 (v / 2 ^ 32)] ++ List.replicate 13 0
  | _, _ =>
    match i with
    | .emptyBundle y => BitVec.ofNat 32 (if y then 256 else 0) :: List.replicate 15 0
    | j => match j.pumpWord with
      | some v => [BitVec.ofNat 32 v, BitVec.ofNat 32 (v / 2 ^ 32)]
      | none => []

/-- The instruction that a run of sixteen words holds alone. -/
def decode (ws : List Word) : Option Instr :=
  match decodeBundle ws with
  | .ok b => b.single
  | .error _ => none

end Sys2Proof
end

