-- ==== Sys2Proof/Config.lean ====
section
/-! DEFINITION. What the manual leaves to standards, firmware and implementation: opaque constants with no body, of which no
proof can see a value (log entries 7, 8, 9, 10, 13). -/

namespace Sys2Proof

/-- The text that the Dzirad translator emits (R290-R294): from the bytes of a portable object, its text words and the native offset and
launch block of each entry word by its place in the segment. A text has at least one word (log entry 10). -/
opaque Config.dzirad : List Byte → Word × List Word × (Nat → Nat × List Byte)

/-- The length that vset{i}vl{i} gives a portable program for an AVL between VLMAX and twice VLMAX (R290; log entry 10). -/
opaque Config.spcVl : Nat → Nat → Nat

/-- The four key slots of the n-th firmware image (R289, R322): a public key of 68 bytes or nothing (log entry 9). -/
opaque Config.imageKey : Nat → Nat → Option (List Byte)

/-- The values of PTIMA and PTIMB that the n-th firmware image loads into a pump at bring-up (R212, R322; log entry 9). -/
opaque Config.imageTiming : Nat → Nat → Dword × Dword

/-- The digest of a rank table that ranks exchange (R408; log entry 8). -/
opaque Config.digest : List Nat → Dword

/-- Which of two things the module does where the spec leaves it free to do either (R270; log entry 7). -/
opaque Config.freeChoice : Nat → Bool

/-- The bytes of the cistern that a collective has for its intermediates (R312; log entry 13). -/
opaque Config.cisternShare : Nat

end Sys2Proof
end

