-- ==== Sys2Proof/Machine/CoreTypes.lean ====
section
/-! DEFINITION. The state of one core: its strands with their queues, the results and accesses in flight, the matrix units, the
stitch row and the trace buffer. A Table entry that is not listed has the default its reader names. -/

namespace Sys2Proof.Machine

/-- The states of a knot register (R103), coded as KSTAT shows them. -/
inductive KState
  | idle | pending | done | failed
deriving DecidableEq, Repr

/-- What a storage slot carries beside its data (R25): presence, tag, read-hold count (R29), and the orphan mark of R358. -/
structure QSlot where
  present : Bool := false
  tag     : Nat := 0
  holds   : Nat := 0
  orphan  : Bool := false
deriving DecidableEq, Repr

/-- A queue descriptor (R23) with its slots, the mark of a broken graft (R361), and a parity error in the descriptor or in a
slot's state (R394). -/
structure Queue where
  en     : Bool := false
  wide   : Bool := false
  logcap : Nat := 0
  base   : Nat := 0
  head   : Nat := 0
  tail   : Nat := 0
  gcred  : Nat := 0
  gtlog  : Nat := 0
  gcore  : Nat := 0
  gstr   : Nat := 0
  gq     : Nat := 0
  gtgt   : Bool := false
  gsrc   : Bool := false
  broken : Bool := false
  parity : Option (Option Nat) := none
  slots  : Table QSlot := []
deriving DecidableEq, Repr

/-- One trap bank (R342). -/
structure Bank where
  cause : Dword := 0
  ret   : Dword := 0
  addr  : Dword := 0
  aux   : Dword := 0
deriving DecidableEq, Repr

/-- The state of a block of a bound region (R273). -/
inductive BlockState
  | empty | clean | dirty | absent
deriving DecidableEq, Repr

/-- A bound region (R190): VA base, size and P base in 4 KiB units, and its blocks that are not EMPTY. `closing` holds, from the
issue of an unbinding MAPR, the number of its bundle: the strand's accesses of later bundles no longer see the region (R275). `xfer` is
the number under which a fill or write-back of a block has transactions with another module (R271, R305); `line` are the accesses that
wait for a fill of the region, in the order in which they came to need it (R273). -/
structure Region where
  va      : Nat
  size    : Nat
  pbase   : Nat
  blocks  : Table BlockState := []
  closing : Option Nat := none
  xfer    : Option Nat := none
  line    : List Nat := []
deriving DecidableEq, Repr

/-- The wait an S syllable started (R105, R106, R112), or the time before a strand's first bundle after a cast-on, up to a core cycle
(R260, R422). -/
inductive Wait
  | none
  | start (till : Nat)
  | knot (k limit : Nat)
  | queue (q off limit : Nat)
  | phase
deriving DecidableEq, Repr

/-- What a completing X syllable read in P space at its issue (R337): its words; nothing, at an address that R116 refuses; or a poisoned
unit, by the key of its first byte met. -/
inductive XRead
  | words (ws : List Dword)
  | bad
  | poison (key : Nat)
deriving DecidableEq, Repr

/-- The operation of a completing X syllable (R198), with its slots (pending result numbers), what it read at issue, and the SYL word
of a refusal. -/
inductive XWait
  | graft (q target : Nat) (aux : Dword)
  | ungraft (q : Nat) (aux : Dword)
  | spawn (ids : List Nat) (got : XRead) (arg : Nat) (aux : Dword)
  | fork (ids : List Nat) (word : Nat) (got : XRead) (aux : Dword)
  | agset (got : XRead) (group : Nat) (aux : Dword)
deriving DecidableEq, Repr

/-- Where a live strand stands in its life (R20, R114, R262). -/
inductive Life
  | idle | running | ending | holding
deriving DecidableEq, Repr

/-- The registers of R36 beside the queues. `seq` is the delay sequence of R95 as (bundles left after the next, continuation). -/
structure Ctx where
  pc     : Nat := 0
  seq    : Option (Nat × Nat) := none
  tl     : Nat := 0
  bt     : Table Nat := []
  cb     : Nat := 0
  lse    : Table Dword := []
  knots  : Table KState := []
  fds    : Table Nat := []
  banks  : Table Bank := []
  wlimit : Nat := 0x00100000
  budget : Nat := 0
deriving DecidableEq, Repr

/-- What cast-on gives a strand and the context does not hold (R11, R12, R144, R257, R259, R260, R355). -/
structure Place where
  fn        : Nat := 0
  task      : Nat := 0
  gen       : Nat := 0
  pos       : Nat := 0
  panel     : Dword := 0
  mallot    : Nat := 0
  textva    : Nat := 0
  code      : Nat := 0
  sbase     : Nat := 0
  ssize     : Nat := 0
  budgetRec : Nat := 0
  ndim      : Nat := 1
  extents   : List Nat := []
deriving DecidableEq, Repr

/-- How a strand stands at its bundle boundary. `post` holds post-issue traps of the bundle just issued (R365) with the return
word's sequence still in `Ctx`, `due` the deferred faults with their detection cycle (R340). `edge` lists the trap levels that have a kernel
back-edge under way and `atEdge` tells that its continuation is next (R101), `load` lists those that have a BUDGET load under way (R261).
`trig` is the
bundle number of its TRIG. `handler` gives, for the trap levels whose handler has not issued its first bundle, that bundle's index, `hent` tells that the bundle just
issued was a handler's first (R342); `lastPc` is the last
bundle issued (R261), `bno` its number. `shape` is a shape fetch of the next bundle: 0 under way, 1
returned with the extent, 2 returned with a bad record, 3 with the key of a poisoned byte (R100); `fills` the region fills made
for it that left the block ABSENT (true) or failed, with the trap to raise (R273). `checked` tells that steps 1 and 2 of R67 have been
made for the next bundle; `phases` lists the bundle numbers of the PHASEs issued whose phase has not completed, oldest first
(R112). -/
structure Flow where
  life    : Life := .idle
  wait    : Wait := .none
  xwait   : Option XWait := none
  waited  : Nat := 0
  blocked : Nat := 0
  post    : List Trap := []
  due     : List (Nat × Trap) := []
  edge    : List Nat := []
  atEdge  : Bool := false
  load    : List Nat := []
  trig    : Option Nat := none
  hent    : Bool := false
  handler : Table Nat := []
  lastPc  : Nat := 0
  bno     : Nat := 0
  shape   : Option (Nat × Nat) := none
  fills   : List (Nat × Nat × Bool × Trap) := []
  checked : Bool := false
  phases  : List Nat := []
deriving DecidableEq, Repr

/-- A strand (R20-R36). -/
structure Strand where
  ctx     : Ctx := {}
  place   : Place := {}
  flow    : Flow := {}
  queues  : Table Queue := []
  regions : Table Region := []
  icyc    : Nat := 0
  phaseno : Nat := 0
  nres    : Dword := 0
  epoch   : Nat := 0
  knotOp  : Table Nat := []
deriving DecidableEq, Repr

/-- What a W load still does to its bytes when its slot is written (R118). -/
inductive LoadFin
  | whole
  | scalar (nibble : Bool)
deriving DecidableEq, Repr

/-- A slot reserved and not yet written (R28), or a grafted result not yet delivered (R34). -/
structure Pend where
  strand : Nat
  q      : Nat
  idx    : Nat
  graft  : Bool
  tag    : Nat
  val    : SlotBits
  fin    : LoadFin := .whole
  ready  : Bool := false
deriving DecidableEq, Repr

/-- A P or W store, MACCS or stitch output issued and not yet performed (R123): its bytes in write order, less those that an engine
operation has written after it (R172), the granules of W it touches, and the iteration of a stitch output. -/
structure PStore where
  strand : Nat
  bno    : Nat
  w      : Bool
  tl     : Nat
  cells  : List (Nat × Byte)
  grans  : List Nat := []
  row    : Bool := false
  iter   : Nat := 0
deriving DecidableEq, Repr

/-- Who waits for a vault touch (R385): the bytes a load takes, as (W address, length, byte offset in its slot); the B bytes of an
MMA; a MACCL; a shape fetch; the image load of STCFG.W from a W address; a store as it is performed. -/
inductive TouchFor
  | load (pend : Nat) (parts : List (Nat × Nat × Nat))
  | mma (unit op : Nat)
  | maccl (unit op : Nat)
  | shape
  | image (base : Nat)
  | store
deriving DecidableEq, Repr

/-- A vault access that has not reached its granule (R385). -/
structure Touch where
  strand  : Nat
  bno     : Nat
  tl      : Nat
  die     : Nat
  granule : Nat
  wrote   : Bool
  what    : TouchFor
deriving DecidableEq, Repr

/-- A read-hold to release (R29). -/
structure Hold where
  strand : Nat
  q      : Nat
  idx    : Nat
deriving DecidableEq, Repr

/-- A grafted result under way to its target queue on this core (R34). -/
structure GraftMsg where
  strand : Nat
  q      : Nat
  tag    : Nat
  val    : SlotBits
deriving DecidableEq, Repr

/-- A credit under way to its source queue on this core (R34). -/
structure Credit where
  strand : Nat
  q      : Nat
deriving DecidableEq, Repr

/-- An accumulator tile (R145): its form, its elements that are not +0, and its MFMT word (R149). -/
structure Tile where
  f64  : Bool := false
  data : Table Nat := []
  mfmt : Nat := 0
deriving DecidableEq, Repr

/-- What an array writer or MACCL in flight will write. An MMA carries its A run, formats and rounding; B arrives by touches as
bytes at offsets from eb (R147-R151). -/
inductive MatKind
  | mma (zero : Bool) (fmt : MFmt) (rm : Nat) (run : List SlotBits) (afds : List Nat) (bfd : Nat) (eb stride : Nat) (slice : Nat)
  | zero (f64 : Bool)
  | maccl (f64 : Bool) (ea : Nat)
deriving DecidableEq, Repr

/-- An array writer or MACCL in flight (R154). -/
structure MatOp where
  strand : Nat
  tile   : Nat
  bno    : Nat
  pc     : Nat
  tl     : Nat
  eff    : Nat
  kind   : MatKind
  bytes  : Mem := []
  bad    : Option Nat := none
deriving DecidableEq, Repr

/-- A matrix unit (R145, R154). `reads` holds the read flags by tile; `arrayFree` and `pathFree` are the first core cycles in
which the array and the transfer path are free. -/
structure MatUnit where
  tiles     : Table Tile := []
  ops       : Table MatOp := []
  reads     : Table Nat := []
  arrayFree : Nat := 0
  pathFree  : Nat := 0
deriving DecidableEq, Repr

/-- A result queue mq0-mq3 (R146): counters modulo 128, slot state, slot data. -/
structure MQueue where
  head  : Nat := 0
  tail  : Nat := 0
  slots : Table QSlot := []
  data  : Table SlotBits := []
deriving DecidableEq, Repr

/-- A stitch configuration (R161): II, NS, REDMASK, REDOP and the context words by element * 32 + context. -/
structure RowCfg where
  ii    : Nat
  ns    : Nat
  mask  : Nat
  redop : Nat
  ops   : Table Dword
  index : Table Nat
deriving DecidableEq, Repr

/-- A result that lands at the end of row cycle `at_` (R158): in register `dst` below 64 and OUTL, or as the bits of predicate
`dst` - 64; `keep` are the lanes written. -/
structure RowWrite where
  at_  : Nat
  elem : Nat
  ctx  : Nat
  dst  : Nat
  keep : Nat
  vals : List Nat
deriving DecidableEq, Repr

/-- A stitch run (R166, R167). `due` is the core cycle of its next row cycle `t`, `mid` that this row cycle has begun; `slots` are the
input slots held by iteration * 2 + port (data, tag, selector, storage slot), `outs` the output slots of iterations, `stores` the
output stores made; `fail` ends the run at the end of the row cycle, `last` that its last output has been handed over. -/
structure RowRun where
  strand : Nat
  op     : Nat
  bno    : Nat
  n      : Nat
  port0  : Option Nat
  port1  : Option Nat
  omode  : Nat
  oq     : Nat
  otag   : Nat
  base   : Nat
  stride : Nat
  fds    : Table Nat
  due    : Nat
  mid    : Bool := false
  t      : Nat := 0
  slots  : Table (SlotBits × Nat × Nat × Nat) := []
  outs   : Table SlotBits := []
  writes : List RowWrite := []
  stores : List Nat := []
  fail   : Option Trap := none
  last   : Bool := false
deriving DecidableEq, Repr

/-- The stitch row (R156-R168). Registers are keyed element * 64 + register, predicates element * 4 + n, OUTL by element;
`load` is the core cycle in which a load ends with the words it read; `ru` is RU by element, `ruNext` a fold that becomes RU later. -/
structure Row where
  cfg    : Option RowCfg := none
  load   : Option (Nat × List Dword) := none
  bad    : Option Nat := none
  rmx    : Nat := 0
  rmxp   : Nat := 0
  regs   : Table (List Nat) := []
  preds  : Table Nat := []
  outl   : Table (List Nat) := []
  ru     : Table (List Nat) := []
  ruNext : List (Nat × Nat × List Nat) := []
  run    : Option RowRun := none
deriving DecidableEq, Repr

/-- The trace buffer and TRCCTL (R326-R328): the classes TRACE.ON enabled, the armed trigger word, entries left to record
after the trigger. `pend` are the entries of the core's current cycle, in ascending strand order (R326): strand, class and dwords. -/
structure Trace where
  owner   : Nat := 0
  frozen  : Bool := false
  wptr    : Nat := 0
  classes : Nat := 0
  armed   : Option Dword := none
  post    : Option Nat := none
  buf     : Table (Dword × Dword) := []
  pend    : List (Nat × Nat × Dword × Dword) := []
deriving DecidableEq, Repr

/-- Something that happens in a core cycle once it is due: at the start of the cycle, or (`late`) at its end. -/
structure Todo where
  due    : Nat
  late   : Bool
  strand : Nat
  act    : Instr
deriving DecidableEq, Repr

/-- The accesses and results in flight on a core, by their numbers. -/
structure Flight where
  pends   : Table Pend := []
  stores  : Table PStore := []
  touches : Table Touch := []
  holds   : Table Hold := []
  grafts  : Table GraftMsg := []
  credits : Table Credit := []
  flags   : Table (Nat × Nat) := []
deriving DecidableEq, Repr

/-- The issue unit of a core (R21). -/
structure Issue where
  cur      : Nat := 0
  runs     : Nat := 0
  handOver : Bool := false
deriving DecidableEq, Repr

/-- A core. `divFree` is the first core cycle in which the divider is free (R87); `mismatch` holds the times of residue
mismatches (R396). -/
structure Core where
  cyc      : Nat := 0
  clk      : Nat := 1200
  issue    : Issue := {}
  strands  : Table Strand := []
  divFree  : Nat := 0
  mqs      : Table MQueue := []
  units    : Table MatUnit := []
  row      : Row := {}
  trace    : Trace := {}
  flight   : Flight := {}
  todo     : List Todo := []
  scaOrder : List Nat := []
  mismatch : List Nat := []
deriving DecidableEq, Repr

end Sys2Proof.Machine
end

