-- ==== Sys2Proof/Machine/SysTypes.lean ====
section
/-! DEFINITION. The state outside the cores: engine operations, dies, the task table, the code table, and what drives a run. -/

namespace Sys2Proof.Machine

/-- A copy descriptor as fetched at start (R176): bases with displacements added, spaces, extents, strides. -/
structure CopyPlan where
  sb    : Int
  db    : Int
  ssp   : Nat
  dsp   : Nat
  tag   : Nat
  exts  : List Nat
  sstr  : List Int
  dstr  : List Int
deriving DecidableEq, Repr

/-- A skein as read at start (R223): home vault, offset of counter 0 of row 0, depth, log2 of the width, striping mask, row
distance, scale exponent. -/
structure Skein where
  home   : Nat
  base   : Nat
  depth  : Nat
  logw   : Nat
  mask   : Nat
  stride : Nat
  expo   : Int
deriving DecidableEq, Repr

/-- An engine operation with the operands it captured at issue (R169-R195, R166). -/
inductive OpKind
  | copy (desc disp : Nat)
  | copyf (esz desc fill : Nat)
  | cpq (desc count : Nat) (wide : Bool) (nibble : Nat)
  | scata (op rm tagA tagB : Nat) (a b : SlotBits)
  | skupd (skein list : Nat)
  | skqry (skein : Nat) (idx : List Nat) (vec : Bool)
  | skadd (a b : Nat)
  | skscale (a q : Nat)
  | skclr (a : Nat)
  | pump (sub list : Nat)
  | psplit (entry page : Nat)
  | mapr (word va : Nat)
  | mapreq (va len : Nat)
  | kjoin
  | mldr (ifmt ofmt group offs : Nat)
  | coll (desc seq : Nat)
  | strun
deriving DecidableEq, Repr

/-- A run of bytes of an access in one other module: the peer, the VA there, the VA issued, the length, the first byte's place in the
access (R305). -/
structure Run where
  pod  : Nat
  va   : Nat
  addr : Nat
  len  : Nat
  pos  : Nat
deriving DecidableEq, Repr

/-- How far an engine operation has come: waiting for its knots (R169), or for its start cycle, or working. -/
inductive OpPhase
  | waiting | ready | working
deriving DecidableEq, Repr

/-- An engine operation outstanding (R169-R173). `waits` are the operations whose knots it consumes and that are still
outstanding; `shadow` holds the granules that later stores of its own strand have written to, byte by byte as the operation still reads
them, none in a poisoned unit (R172, R233); `slots` its results still to write; `next` the index of its next chunk or update, `units` the CPQ units delivered; `plan`,
`skeins`, `data` and `vals` what it read at its start or of its chunk; `runs` those of its chunk's writes to other modules that are still to be sent (R177); `at_` its start cycle. -/
structure EngOp where
  core   : Nat
  strand : Nat
  knot   : Nat
  engine : Nat
  tl     : Nat
  fn     : Nat
  task   : Nat
  bno    : Nat
  pc     : Nat
  kind   : OpKind
  waits  : List Nat := []
  slots  : List Nat := []
  phase  : OpPhase := .waiting
  at_    : Nat := 0
  next   : Nat := 0
  units  : Nat := 0
  plan   : Option CopyPlan := none
  skeins : List Skein := []
  data   : List Byte := []
  vals   : List (Nat × Int) := []
  shadow : Table (Option Byte) := []
  runs   : List Run := []
  failed : Option Trap := none
  era    : Option Nat := none
deriving DecidableEq, Repr

/-- One record of a granule tag (R384): epoch and up to two entries (core's vault index, strand, wrote). -/
structure GranRec where
  epoch : Nat
  ents  : List (Nat × Nat × Bool)
deriving DecidableEq, Repr

/-- DIESTAT's states of a die (R323). -/
inductive DieState
  | off | testing | vector | full | failed
deriving DecidableEq, Repr

/-- A compute die: its epoch counter and the quarter last swept (R384, R386), granule tags by W granule, and the registers of
R396 and R397. `bad` lists tags with an uncorrectable error (R393), `badText` the text pages that a fetch or a scrub found poisoned and
that are not repaired (R398), `tlb` the cached translations as (function, VA page base)
with the leaf and its level (R270). -/
structure Die where
  state : DieState := .off
  epoch : Nat := 0
  swept : Nat := 0
  live  : List (Nat × Nat) := []
  tags  : Table (List GranRec) := []
  bad   : List Nat := []
  mxret : Dword := 0
  ras   : Dword := 0
  badText : List Nat := []
  tlb   : Table (Table (Dword × Nat)) := []
deriving DecidableEq, Repr

/-- The states of R244 but FREE, which is a task that the table does not list. -/
inductive TState
  | held | ready | running | saved | husk
deriving DecidableEq, Repr

/-- Where a strand of a panel stands (R262, R265). -/
inductive PStatus
  | cast | ended | saved | stopped
deriving DecidableEq, Repr

/-- A live entry of a task table (R243-R245). `recd` is the record as accepted. `panel` lists, by panel position, core, strand
and status; `since` is when it last entered READY or SAVED, `castAt` when it was cast on, in ns; `first` is false once it has
been cast on; `spawned` that TSPAWN or TFORK entered it (R283); `launch` the launch block it kept;
`trigs` the panel positions that had issued TRIG at a save; `regions` the bindings recorded at a save by position and index (R276);
`grafts` the grafted source queues of a save as (position, queue, target as awayCode, target queue, GCRED) (R38); `passed` when it was
first passed over at its effective priority, 6 or 7, and that priority (R254). -/
structure Task where
  st      : TState
  gen     : Nat
  recd    : List Dword
  prio    : Nat
  parent  : Nat
  preds   : List Nat
  spawned : Bool := false
  canpred : Bool := false
  since   : Nat := 0
  castAt  : Nat := 0
  first   : Bool := true
  panel   : List (Nat × Nat × PStatus) := []
  origin  : Nat × Nat × Nat := (0, 0, 0)
  launch  : List Byte := []
  extents : List Nat := []
  ndim    : Nat := 1
  trigs   : List Nat := []
  fired   : Bool := false
  request : Option Nat := none
  regions : List (Nat × Nat × Region) := []
  grafts  : List (Nat × Nat × Nat × Nat × Nat) := []
  passed  : Option (Nat × Nat) := none
  final   : Bool := false
  refs    : Bool := false
deriving DecidableEq, Repr

/-- A bind-off in progress (R266): the issuing strand's result slot, the entries it captured (R402) and, once the walker has freed them,
how many those were, the page lists it still has to release and the references it has released. -/
structure Walk where
  fn      : Nat
  root    : Nat
  by_     : Nat × Nat
  pend    : Option Nat
  stopped : Bool := false
  found   : List Nat := []
  freed   : Option Nat := none
  lists   : List (Nat × Nat) := []
  pages   : Nat := 0
deriving DecidableEq, Repr

/-- A pre-emption region fixed for the blocking task (R254): die, row, column, height, width. -/
structure BlockReg where
  die  : Nat
  row  : Nat
  col  : Nat
  h    : Nat
  w    : Nat
deriving DecidableEq, Repr

/-- What the dispatcher still has to do in memory for a task that has left: release the references of a page list (R250), write a kill
record (R348), write a notify word and signal it (R248). -/
inductive DJob
  | release (fn va n : Nat)
  | record (fn va : Nat) (bytes : List Byte)
  | word (fn va w : Nat)
deriving DecidableEq, Repr

/-- The dispatcher (R243-R255). Tasks are keyed function * 2^18 + index. `jobs` are done in order, each once the pages it needs are at
hand (R272). `stuck` are the pages whose reference count met an uncorrectable error (R416). -/
structure Dispatch where
  cfg      : Dword := 0x000000C8000003E8
  fns      : Table Dword := []
  ptr      : Table Nat := []
  served   : Table Nat := []
  gens     : Table Nat := []
  tasks    : Table Task := []
  blocking : Option (Nat × Nat × Option BlockReg) := none
  walks    : Table Walk := []
  refs     : Table Nat := []
  stuck    : List Nat := []
  jobs     : List DJob := []
deriving DecidableEq, Repr

/-- The states of a code-table entry (R283) but FREE, which is an entry that the table does not list. -/
inductive CodeState
  | loaded | closing
deriving DecidableEq, Repr

/-- A code-table entry (R283): its text bundles are found through `pages`, the text pages (page numbers 0-191) of each die. -/
structure Code where
  fn      : Nat
  gen     : Nat
  st      : CodeState
  nb      : Nat
  entries : List Nat
  textva  : Nat
  pages   : Table (List Nat)
deriving DecidableEq, Repr

/-- What the sensors, the soft errors and the other agents outside the module do to it between its steps (R324, R391, R394, R416), and
how the clocks run on (R422). `poison` is an uncorrectable error of a unit, `corrected` one that its reader's check corrects (R391, R397);
`prAllocation` is the host's allocation of page requests (R414). `cistern` poisons the unit at a place of what an MLDR or COLL holds.
`forged` and `forgedChunk` are the loss of a transaction, or of a flit of a COLL, that failed its authentication at another module (R406):
that module sends nothing, and how the source learns it the spec does not say (log entry 13). -/
inductive Upset
  | poison (key : Nat)
  | corrected (key : Nat)
  | tagError (die granule : Nat)
  | queueParity (core strand q : Nat) (slot : Option Nat)
  | residue (core op : Nat)
  | refcountError (page : Nat)
  | cistern (op place : Nat)
  | taskError (fn task : Nat)
  | codeError (index : Nat)
  | keyError (fn peer : Nat)
  | startDelay (core strand cycles : Nat)
  | delay (core : Nat) (idx cycles : Nat)
  | dieState (die : Nat) (s : DieState)
  | evict (die fn : Nat)
  | hostMemory (addr : Nat) (b : Byte)
  | prAllocation (fn n : Nat)
  | forged (tid : Nat)
  | forgedChunk (op : Nat)
deriving DecidableEq, Repr

/-- What the next step is (log entry 1). `hostRead` is a host read of a register. -/
inductive Turn
  | core (c : Nat)
  | ck
  | elapse (ns : Nat)
  | row (i : Instr)
  | hostRead (w : Window) (off : Nat)
  | upset (u : Upset)
deriving DecidableEq, Repr

/-- The bundle being issued, as its syllables' meanings see it (log entry 3): the strand, the bundle's words, whether its checks
have been made, whether it was held or issued, the continuation of its transfer, whether it holds ERET, whether a BUDGET load
took effect with it, and what its SWR writes to NRES, which counts from the next bundle on (R111, R277); `barred` are the strands of the
core that took a wait-limit expiry in this core cycle and issue from the next on (R32, R345). -/
structure BundleCtx where
  core     : Nat := 0
  strand   : Nat := 0
  words    : List Word := []
  admitted : Bool := false
  held     : Bool := false
  issued   : Bool := false
  target   : Option Nat := none
  eret     : Bool := false
  loaded   : Bool := false
  nres     : Option Dword := none
  barred   : List Nat := []
deriving DecidableEq, Repr

end Sys2Proof.Machine
end

