-- ==== Sys2Proof/Machine/OuterTypes.lean ====
section
/-! DEFINITION. The state of the pumps, the manifold and the host interface. -/

namespace Sys2Proof.Machine

/-- A bank of a channel: the row and page slot that opened it, and the CK cycles of its last commands (R213). -/
structure PBank where
  opened : Option (Nat × Nat) := none
  act    : Option Nat := none
  pre    : Option Nat := none
  rd     : Option Nat := none
  wr     : Option Nat := none
  refpb  : Option Nat := none
deriving DecidableEq, Repr

/-- What a channel remembers of the commands issued on it (R213). `acts` are the last ACTs, newest first, with their banks. -/
structure PHist where
  banks : Table PBank := []
  acts  : List (Nat × Nat) := []
  col   : Option Nat := none
  rd    : Option Nat := none
  wr    : Option Nat := none
  refab : Option Nat := none
deriving DecidableEq, Repr

/-- The dynamic request that a pump served last (R221): the CK cycle, bank and row, its last burst's column, its bursts, whether it
writes, and the channel's history before it. -/
structure Dyn where
  at_   : Nat
  bank  : Nat
  row   : Nat
  col   : Nat
  n     : Nat
  write : Bool
  base  : PHist
deriving DecidableEq, Repr

/-- Where a pump program stands (R214, R215, R222): submitted, bound, running, in its tail after KSIG, closing after a failure or a
guard. -/
inductive ProgPhase
  | queued | bound | running | tail | closing
deriving DecidableEq, Repr

/-- A pump program (R209, R214-R222). `start` is the CK cycle of its submission until it is bound, then its start cycle; `next` the
index of its next word, `off` the offset of the command before it; `slots` the page entries bound; `qok` whether the queue route may
be used, `skein` the skein of the sketch route or the address of its lowest counter in the reserved area; `tail` the words after
KSIG; `lost` a burst lost on its route, with its arrival; `guard` that the refresh guard closes it, `closed` that its closing PREA
has issued. -/
structure Prog where
  op     : Nat
  fn     : Nat
  task   : Nat
  core   : Nat
  strand : Nat
  w      : Bool
  padr   : Nat
  ladr   : Nat
  nsl    : Nat
  phase  : ProgPhase := .queued
  start  : Nat := 0
  hdr0   : Nat := 0
  hdr1   : Nat := 0
  slots  : List Nat := []
  qok    : Bool := false
  skein  : Option (Skein × Option Nat) := none
  next   : Nat := 2
  off    : Nat := 0
  ksig   : Bool := false
  tail   : List Nat := []
  fail   : Option Trap := none
  guard  : Bool := false
  closed : Bool := false
  lost   : Option (Nat × Trap) := none
deriving DecidableEq, Repr

/-- Data of a RD or WR under way (R219): its program's operation, due CK cycle, word index, offset, the route (0 W, 1 queue, 2
sketch, 3 a WR), the part of the assembly slot, where it goes (a key, or TAGQ·16 + QN) and the bytes; `bad` a poisoned unit. -/
structure PData where
  op    : Nat
  due   : Nat
  word  : Nat
  off   : Nat
  route : Nat
  part  : Nat
  dest  : Nat
  bytes : List Byte
  bad   : Option Nat := none
deriving DecidableEq, Repr

/-- A program's operation whose knot leaves pending after `last` and after its data (R222, R380); `sealed` once KSIG was valid. -/
structure Ended where
  op     : Nat
  last   : Nat
  fail   : Option Trap
  sealed : Bool
deriving DecidableEq, Repr

/-- A pump (R208-R222). `timer` is the CK cycle of the next rise of D, `cmdAt` the CK cycle of its last command, `window` the CK
cycles of an open service window. `refAt` is the last refresh that the pump made between programs (R220), `dyn` is the dynamic request served last, `colEnd` the cycle of its last burst and `dynPre` that of the
last PRE of any. -/
structure Pump where
  tima   : Dword := 0x2E02140550381818
  timb   : Dword := 0x516176BB180C0A10
  owed   : Nat := 0
  timer  : Option Nat := none
  marks  : Nat := 0
  hist   : PHist := {}
  cmdAt  : Option Nat := none
  prog   : Option Prog := none
  queue  : List Prog := []
  data   : Table PData := []
  ended  : List Ended := []
  window : Option (Nat × Nat) := none
  dyn    : Option Dyn := none
  colEnd : Nat := 0
  dynPre : Nat := 0
  refAt  : Option Nat := none
deriving DecidableEq, Repr

/-- A key with its salt and its flit counters in the two directions (R299); `born` is the era in which an endpoint key was installed. -/
structure SealKey where
  key  : BitVec 256
  salt : Word
  tx   : Nat := 0
  rx   : Nat := 0
  born : Nat := 0
deriving DecidableEq, Repr

/-- A Quavos port (R295-R301, R405). `retry` holds the flits not yet acknowledged, oldest first, of which the first 512 have been
sent; `sent` every flit put on the link, newest first. `newEp` is the epoch of a handshake this end began, `asked` one the far end
waits for, `prev` the old epoch still accepted. `naks` counts consecutive NAKs of one SEQ; `downAt` is when the port last went down,
in ns; `train` that it is training. -/
structure Port where
  en      : Bool := false
  hbh     : Bool := false
  up      : Bool := false
  down    : Bool := false
  epoch   : Nat := 0
  newEp   : Option Nat := none
  asked   : Option Nat := none
  prev    : Option Nat := none
  autherr : Nat := 0
  crcerr  : Nat := 0
  replay  : Nat := 0
  txSeq   : Nat := 0
  rxSeq   : Nat := 0
  retry   : List Flit := []
  naks    : Option (Nat × Nat) := none
  keys    : Table SealKey := []
  hkey    : BitVec 256 := 0
  hsalt   : Word := 0
  nepoch  : Nat := 0
  downAt  : Nat := 0
  train   : Bool := false
  sent    : List Flit := []
deriving DecidableEq, Repr

/-- An endpoint key that was removed or replaced while operations that had started before still used it (R303): its peer, the key, and the
era in which it ended. -/
structure PastKey where
  peer : Nat
  key  : SealKey
  till : Nat
deriving DecidableEq, Repr

/-- The registers and tables of one function in the manifold (R193, R303). `era` counts the commands of EKCMD that have taken effect: an
operation keeps the paths of the era in which it started; `past` holds the keys of earlier eras. -/
structure FnFab where
  ekey   : BitVec 256 := 0
  eksalt : Word := 0
  ekcmd  : Dword := 0
  keys   : Table SealKey := []
  era    : Nat := 0
  past   : List PastKey := []
  groups : Table (List Dword) := []
deriving DecidableEq, Repr

/-- What a transaction carries (R305, R307): a read, a write, an MLDR member's read. -/
inductive TxnKind
  | read | write | member
deriving DecidableEq, Repr

/-- A transaction in flight at its source (R305): the operation, the peer, the port, the run or member it serves, the VA it was
issued to, the VA there, the era of its function's keys it was started in (none: the current one), and the bytes gathered so far. `bad` is what failed a transaction of a region's block: cause, status word, fault
address, and whether the page was only not resident. -/
structure Txn where
  op     : Nat
  fn     : Nat
  peer   : Nat
  port   : Nat
  kind   : TxnKind
  index  : Nat
  addr   : Nat
  va     : Nat
  len    : Nat
  era    : Option Nat := none
  bytes  : List Byte := []
  done   : Bool := false
  bad    : Option (Nat × Nat × Nat × Bool) := none
deriving DecidableEq, Repr

/-- A request of another module that waits for a host page (R272) or a channel (R221): its flit, the type of its reply (0 for data of a
write), the VA, the length of a read, the bytes of a write and whether they are its last; `store` tells a fill that a store needs (R273). -/
structure Served where
  flit  : Flit
  reply : Nat
  va    : Nat
  len   : Nat
  bytes : List Byte
  last  : Bool
  store : Bool := false
deriving DecidableEq, Repr

/-- A write arriving from another module (R305): where it goes, and the status unit of what failed. -/
structure Inbound where
  va   : Nat
  len  : Nat
  bad  : Option (BitVec 768) := none
deriving DecidableEq, Repr

/-- A chunk on a collective's rings (R312): its piece and step, the lap of a reduction's ring (0 adds, 1 hands the result on), the part of
the axis it belongs to, the rank it comes from, whether it goes straight to its destination, and its values. -/
structure RChunk where
  piece  : Nat
  step   : Nat
  lap    : Nat
  seg    : Nat
  orig   : Nat
  direct : Bool
  vals   : List Nat
deriving DecidableEq, Repr

/-- A COLL on this module (R309-R314): its descriptor and where it lies, when its first rank started and when it last made progress, in
ns, the ranks' pod IDs, what each rank that has started exchanged (R408), `ends` on which axes a rank's ring has a path that is
end to end (R312), `src` this rank's source. `era` is that of its function's keys (R303). `piece` and `step` say how
far the exchange has come, `begun` that this rank's chunks of the step have been sent, `got` how many it has taken; `held` the elements
held in the cistern by their number in the tensor, `exps` the block exponents (R56), `mail` the chunks that came early, `parts` those
arriving. `result` is the destination as far as it is final, `chunks` the chunks of it written (R411), `writing` that one is under way;
`dones` the ranks that have written theirs; `fail` a collective fault that it has to report; `bad` a poisoned place of the cistern (R391). -/
structure Coll where
  op      : Nat
  fn      : Nat
  seq     : Nat
  addr    : Nat
  first   : Nat
  since   : Nat
  my      : Nat
  desc    : List Nat
  ranks   : List Nat
  era     : Nat := 0
  saw     : Table (List Dword) := []
  ends    : Table Nat := []
  src     : List Byte := []
  piece   : Nat := 0
  step    : Nat := 0
  begun   : Bool := false
  got     : Nat := 0
  held    : Table Nat := []
  exps    : Table Nat := []
  mail    : List RChunk := []
  parts   : Table (List Byte) := []
  result  : List Byte := []
  chunks  : Nat := 0
  writing : Bool := false
  dones   : List Nat := []
  fail    : Option (Nat × Option Nat) := none
  bad     : Option Nat := none
deriving DecidableEq, Repr

/-- An MLDR in the cistern (R307): the offset B, the members' domain words, when its requests were sent in ns, the replies; `bad` is the
place of a poisoned unit among them (R391). -/
structure Mldr where
  op      : Nat
  fn      : Nat
  base    : Nat
  members : List Dword
  sent    : Nat
  replies : Table (List Byte) := []
  bad     : Option Nat := none
deriving DecidableEq, Repr

/-- What a module told of a COLL (R313, R408, R409): function, sequence number, its pod ID, the rank it gave itself, the words of its start
or the one word of its failure, the axes with an end-to-end path, and when it came, in ns. -/
structure Heard where
  fn    : Nat
  seq   : Nat
  pod   : Nat
  rank  : Nat
  words : List Dword
  ends  : Nat
  at_   : Nat
deriving DecidableEq, Repr

/-- A dynamic request to the LPDDR-5X that its channels have not served, or whose requester has not yet come for it (R221): the numbers of
its 32-byte bursts, and those still to be served; or the rows of a PSPLIT, which the pumps copy one by one. -/
structure Call where
  write  : Bool
  bursts : List Nat
  left   : List Nat
  split  : Option Nat := none
deriving DecidableEq, Repr

/-- The manifold. `calls` are the dynamic requests that wait for their channels, in the order of their arrival (R221); `inq` are the
requests of other modules that wait; `early` keeps what was told before this module's own COLL started. -/
structure Fabric where
  modid   : Nat := 0
  ctmo    : Nat := 1000000
  routes  : Table Dword := []
  dom     : Table Dword := []
  ports   : Table Port := []
  fns     : Table FnFab := []
  txns    : Table Txn := []
  inb     : Table Inbound := []
  inq     : List Served := []
  tid     : Nat := 0
  mldrs   : Table Mldr := []
  mwait   : List Nat := []
  colls   : Table Coll := []
  cwait   : List Nat := []
  early   : List Heard := []
  calls   : List Call := []
deriving DecidableEq, Repr

/-- The state of a host page the manifold asks for (R272, R414): a translation asked of ATS, a page request at PRI, the repeat
after its success, each for a read or a write, a translation held with its permissions (`asked` after that repeat, with what it was for, until
an access of that kind has met it), or a refusal with its AUX. -/
inductive PageState
  | ats | pri (write : Bool) | again (write : Bool) | held (readOk writeOk : Bool) (asked : Option Bool) | refused (aux : Nat)
deriving DecidableEq, Repr

/-- A posted write of the host that waits for a host page (R272), a channel (R221) or the posted write before it (R317): a record at a task
port, or bytes at a VA of the aperture. -/
inductive Posted
  | port (port : Nat) (rec : BitVec 1024)
  | aperture (va : Nat) (data : List Byte)
deriving DecidableEq, Repr

/-- The BAR0 registers of a function and its PCIe state (R303, R316, R318, R414). `ldreq` holds LDOBJ, LDLEN, LDTEXT and LDLAUNCH as they
stood when the load in progress was requested; `prAlloc` is the host's allocation of outstanding page requests. -/
structure FnHost where
  errcnt   : Dword := 0
  apbase   : Nat := 0
  tlbinv   : Bool := false
  resq     : List Nat := []
  trsel    : Nat := 0
  ldobj    : Nat := 0
  ldlen    : Nat := 0
  ldtext   : Nat := 0
  ldlaunch : Nat := 0
  ldhandle : Nat := 0
  ldcmd    : Nat := 0
  ldresult : Dword := 0
  ldstat   : Nat := 0
  busy     : Bool := false
  ldreq    : List Nat := []
  atsOn    : Bool := true
  bme      : Bool := true
  priStop  : Bool := false
  prAlloc  : Nat := 2 ^ 32 - 1
  pages    : Table PageState := []
  reads    : Table (Option (List Byte × Bool × Bool)) := []
  posted   : List Posted := []
  resetting : Bool := false
deriving DecidableEq, Repr

/-- The host interface of the module (R315-R322, R415). `msix` lists the vectors signalled, newest first; `answer` holds what the last
read of an aperture or of a register returned. `slots` are the key slots that hold a key (R289), `image` the number of the firmware image
in flash, which an update replaces (R415). -/
structure HostIf where
  fns     : Table FnHost := []
  ptroot  : Table Nat := []
  prwin   : Table Dword := []
  msix    : List (Nat × Nat) := []
  answer  : List Byte := []
  fwok    : Bool := false
  redclk  : Bool := true
  recover : Bool := false
  rcvaddr : Nat := 0
  rcvlen  : Nat := 0
  rcvctl  : Bool := false
  rcvstat : Nat := 0
  flash   : Bool := true
  image   : Nat := 0
  slots   : Table (List Byte) := []
deriving DecidableEq, Repr

/-- What drives a run (log entry 1): what happens next, which core runs when nothing is listed, the CK and wall clocks, the counter of
fresh numbers. -/
structure Env where
  agenda : List Turn := []
  sel    : Nat := 0
  ck     : Nat := 0
  ns     : Nat := 0
  fresh  : Nat := 1
deriving DecidableEq, Repr

end Sys2Proof.Machine
end

