-- ==== Sys2Proof/Machine/State.lean ====
section
/-! DEFINITION. The state of the module, the two ways a step can stop, and the state after reset. -/

namespace Sys2Proof.Machine

/-- Why the machine stops. -/
inductive Fault
  /-- Raised by step alone: the agenda names a core that the module does not have (R9). Safe: no such core runs anything. -/
  | noSuchCore
deriving DecidableEq, Repr

/-- Why an instruction has no meaning. -/
inductive Refusal
  /-- Raised by exec for a row that has no meaning yet. Safe: nothing is claimed of it. -/
  | notModelled (mnemonic : String)
deriving DecidableEq, Repr

/-- The whole module. One memory holds the scratchpads, the vaults, the LPDDR-5X and the host memory, each space at its own
range of keys (`keyP`, `keyW`, `keyL`, `keyH` of Machine/Mem.lean). `poison` lists the poisoned units by the key of their first
byte (R392). -/
structure State where
  mem    : Mem
  poison : List Nat
  cores  : Table Core
  dies   : Table Die
  pumps  : Table Pump
  ops    : Table EngOp
  disp   : Dispatch
  codes  : Table Code
  gens   : Table Nat
  fab    : Fabric
  host   : HostIf
  env    : Env
  bundle : BundleCtx
deriving DecidableEq, Repr

/-- The module right after reset (R322, R323): nothing runs, no die is in service, every register at its reset value; what the
spec gives no reset value stands at the values of log entries 4 and 5. -/
def State.reset : State :=
  { mem := [], poison := [], cores := [], dies := [], pumps := [], ops := [], disp := {}, codes := [], gens := [],
    fab := {}, host := {}, env := {}, bundle := {} }

end Sys2Proof.Machine
end

