-- ==== Sys2Proof/Machine/Tables.lean ====
section
/-! DEFINITION. Sparse tables with rising keys, and memory in its one canonical form: (address, byte) pairs, addresses strictly
rising, no byte equal to 0, which is what an unlisted address reads as (log entry 5). -/

namespace Sys2Proof.Machine

/-- The entry at key k. -/
def Table.get? {α : Type} : Table α → Nat → Option α
  | [], _ => none
  | (j, a) :: t, k => if j == k then some a else if Nat.blt k j then none else Table.get? t k

/-- The entry at key k, or d. -/
def Table.getD {α : Type} (t : Table α) (k : Nat) (d : α) : α := (Table.get? t k).getD d

/-- The table with entry a at key k. -/
def Table.set {α : Type} : Table α → Nat → α → Table α
  | [], k, a => [(k, a)]
  | (j, b) :: t, k, a =>
    if j == k then (k, a) :: t else if Nat.blt k j then (k, a) :: (j, b) :: t else (j, b) :: Table.set t k a

/-- The table without key k. -/
def Table.erase {α : Type} : Table α → Nat → Table α
  | [], _ => []
  | (j, b) :: t, k => if j == k then t else if Nat.blt k j then (j, b) :: t else (j, b) :: Table.erase t k

/-- Every key of the table lies at or above k, and keys rise strictly. -/
def Table.risingFrom {α : Type} : Nat → Table α → Bool
  | _, [] => true
  | k, (j, _) :: t => Nat.ble k j && Table.risingFrom (j + 1) t

/-- Keys rise strictly. -/
def Table.wf {α : Type} (t : Table α) : Bool := Table.risingFrom 0 t

/-- What an unlisted address reads as (log entry 5). -/
def Memory.dflt : Byte := 0

/-- One byte of memory. -/
def Memory.read (m : Mem) (a : Nat) : Byte := Table.getD m a Memory.dflt

/-- Write one byte; a byte equal to what an unlisted address reads as is not listed. -/
def Memory.write (m : Mem) (a : Nat) (b : Byte) : Mem :=
  if b == Memory.dflt then Table.erase m a else Table.set m a b

/-- Every listed byte differs from what an unlisted address reads as. -/
def Memory.noDflt : Mem → Bool
  | [] => true
  | (_, b) :: m => b != Memory.dflt && Memory.noDflt m

/-- The canonical form. -/
def Memory.wf (m : Mem) : Bool := Table.wf m && Memory.noDflt m

/-- The n bytes from address a up. -/
def Memory.readBytes (m : Mem) (a : Nat) : Nat → List Byte
  | 0 => []
  | n + 1 => Memory.read m a :: Memory.readBytes m (a + 1) n

/-- Write bytes from address a up. -/
def Memory.writeBytes : Mem → Nat → List Byte → Mem
  | m, _, [] => m
  | m, a, b :: bs => Memory.writeBytes (Memory.write m a b) (a + 1) bs

/-- Write (address, byte) pairs in list order. -/
def Memory.writeCells : Mem → List (Nat × Byte) → Mem
  | m, [] => m
  | m, (a, b) :: cs => Memory.writeCells (Memory.write m a b) cs

/-- The listed bytes at addresses lo to lo + n - 1, removed: they read as an unlisted address does. -/
def Memory.clear (m : Mem) (lo n : Nat) : Mem := m.filter (fun c => !(Nat.ble lo c.1 && Nat.blt c.1 (lo + n)))

/-- The little-endian number in the n bytes from a up. -/
def Memory.readNat (m : Mem) (a n : Nat) : Nat := ofBytes (Memory.readBytes m a n)

end Sys2Proof.Machine
end

