-- ==== Sys2Proof/Machine/Mem.lean ====
section
/-! DEFINITION. The parts of the state by their numbers, the key ranges of the memory spaces (R14, R267), and reads and writes
of memory with its poisoned units (R391-R393). -/

namespace Sys2Proof.Machine

/-! ### Parts of the state -/

def State.core (s : State) (c : Nat) : Core := Table.getD s.cores c {}
def State.setCore (s : State) (c : Nat) (x : Core) : State := { s with cores := Table.set s.cores c x }
def State.modCore (s : State) (c : Nat) (f : Core → Core) : State := s.setCore c (f (s.core c))
def Core.strand (x : Core) (k : Nat) : Strand := Table.getD x.strands k {}
def Core.setStrand (x : Core) (k : Nat) (t : Strand) : Core := { x with strands := Table.set x.strands k t }
def State.strand (s : State) (c k : Nat) : Strand := (s.core c).strand k
def State.setStrand (s : State) (c k : Nat) (t : Strand) : State := s.setCore c ((s.core c).setStrand k t)
def State.modStrand (s : State) (c k : Nat) (f : Strand → Strand) : State := s.setStrand c k (f (s.strand c k))
def State.modCtx (s : State) (c k : Nat) (f : Ctx → Ctx) : State := s.modStrand c k (fun t => { t with ctx := f t.ctx })
def State.modFlow (s : State) (c k : Nat) (f : Flow → Flow) : State := s.modStrand c k (fun t => { t with flow := f t.flow })
def State.modFlight (s : State) (c : Nat) (f : Flight → Flight) : State :=
  s.modCore c (fun x => { x with flight := f x.flight })
def Strand.queue (t : Strand) (q : Nat) : Queue := Table.getD t.queues q {}
def Strand.setQueue (t : Strand) (q : Nat) (d : Queue) : Strand := { t with queues := Table.set t.queues q d }
def State.queue (s : State) (c k q : Nat) : Queue := (s.strand c k).queue q
def State.setQueue (s : State) (c k q : Nat) (d : Queue) : State := s.setStrand c k ((s.strand c k).setQueue q d)
def State.modQueue (s : State) (c k q : Nat) (f : Queue → Queue) : State := s.setQueue c k q (f (s.queue c k q))
def Core.mq (x : Core) (n : Nat) : MQueue := Table.getD x.mqs n {}
def State.modMq (s : State) (c n : Nat) (f : MQueue → MQueue) : State :=
  s.modCore c (fun x => { x with mqs := Table.set x.mqs n (f (x.mq n)) })
def Core.unit (x : Core) (u : Nat) : MatUnit := Table.getD x.units u {}
def State.modUnit (s : State) (c u : Nat) (f : MatUnit → MatUnit) : State :=
  s.modCore c (fun x => { x with units := Table.set x.units u (f (x.unit u)) })
def MatUnit.tile (m : MatUnit) (t : Nat) : Tile := Table.getD m.tiles t {}
def State.die (s : State) (d : Nat) : Die := Table.getD s.dies d {}
def State.modDie (s : State) (d : Nat) (f : Die → Die) : State := { s with dies := Table.set s.dies d (f (s.die d)) }
def State.pump (s : State) (p : Nat) : Pump := Table.getD s.pumps p {}
def State.modPump (s : State) (p : Nat) (f : Pump → Pump) : State := { s with pumps := Table.set s.pumps p (f (s.pump p)) }
def State.op? (s : State) (o : Nat) : Option EngOp := Table.get? s.ops o
def State.setOp (s : State) (o : Nat) (e : EngOp) : State := { s with ops := Table.set s.ops o e }
def State.task? (s : State) (key : Nat) : Option Task := Table.get? s.disp.tasks key
def State.setTask (s : State) (key : Nat) (t : Task) : State :=
  { s with disp := { s.disp with tasks := Table.set s.disp.tasks key t } }
def State.modTask (s : State) (key : Nat) (f : Task → Task) : State :=
  match s.task? key with
  | some t => s.setTask key (f t)
  | none => s
def State.modDisp (s : State) (f : Dispatch → Dispatch) : State := { s with disp := f s.disp }
def State.fnHost (s : State) (v : Nat) : FnHost := Table.getD s.host.fns v {}
def State.modFnHost (s : State) (v : Nat) (f : FnHost → FnHost) : State :=
  { s with host := { s.host with fns := Table.set s.host.fns v (f (s.fnHost v)) } }
def State.modHost (s : State) (f : HostIf → HostIf) : State := { s with host := f s.host }
def State.modFab (s : State) (f : Fabric → Fabric) : State := { s with fab := f s.fab }
def State.modEnv (s : State) (f : Env → Env) : State := { s with env := f s.env }
def State.modBundle (s : State) (f : BundleCtx → BundleCtx) : State := { s with bundle := f s.bundle }
def Strand.fd (t : Strand) (n : Nat) : Nat := Table.getD t.ctx.fds n 0x00077430
def Strand.knot (t : Strand) (n : Nat) : KState := Table.getD t.ctx.knots n .idle
def Strand.bt (t : Strand) (n : Nat) : Nat := Table.getD t.ctx.bt n 0
def Strand.lse (t : Strand) (n : Nat) : Dword := Table.getD t.ctx.lse n 0
def Ctx.bank (x : Ctx) (n : Nat) : Bank := Table.getD x.banks n {}
def Strand.live (t : Strand) : Bool := t.flow.life != .idle

/-- A fresh number for something in flight. -/
def State.fresh (s : State) : Nat × State := (s.env.fresh, s.modEnv (fun e => { e with fresh := e.fresh + 1 }))

/-- The die of a core and its vault index (R11). -/
def dieOf (c : Nat) : Nat := c / 64
def vaultOf (c : Nat) : Nat := c % 64

/-- Mesh hops of R15 from core c to a vault of its die, one way. -/
def hops (c v : Nat) : Nat :=
  let r := vaultOf c / 8
  let k := vaultOf c % 8
  (r - v / 8) + (v / 8 - r) + ((k - v % 8) + (v % 8 - k))

/-- n cycles of the slower of two cores' clocks, in cycles of core c (R325). -/
def State.slower (s : State) (c d n : Nat) : Nat :=
  if Nat.ble (s.core c).clk (s.core d).clk then n else ceilDiv (n * (s.core c).clk) (s.core d).clk

/-! ### Memory -/

def keyP (c off : Nat) : Nat := c * 2 ^ 22 + off
def keyW (d wa : Nat) : Nat := 2 ^ 34 + d * 2 ^ 31 + wa
def keyL (lpa : Nat) : Nat := 2 ^ 42 + lpa
def keyH (a : Nat) : Nat := 2 ^ 64 + a

/-- The protection unit of a key (R391): scratchpad 8 bytes, vault 16, LPDDR-5X 32; host memory has none. -/
def unitSize (k : Nat) : Nat := if k < 2 ^ 34 then 8 else if k < 2 ^ 42 then 16 else if k < 2 ^ 64 then 32 else 1

def unitOf (k : Nat) : Nat := k / unitSize k * unitSize k

/-- The space code of R341 for a key, in cause 0x16. -/
def spaceOf (k : Nat) : Nat := if k < 2 ^ 34 then 0 else if k < 2 ^ 42 then 1 else if k < 2 ^ 64 then 2 else 6

/-- The address of the granule that holds a key (R341): in P an offset, in W a W address, else an LPA or host address. -/
def granuleAddr (k : Nat) : Nat :=
  if k < 2 ^ 34 then k % 2 ^ 22 / 64 * 64
  else if k < 2 ^ 42 then k % 2 ^ 31 / 64 * 64
  else if k < 2 ^ 64 then (k - 2 ^ 42) / 64 * 64 else (k - 2 ^ 64) / 64 * 64

def State.byte (s : State) (k : Nat) : Byte := Memory.read s.mem k

/-- Whether the unit of a key is poisoned (R392). -/
def State.poisoned (s : State) (k : Nat) : Bool := s.poison.contains (unitOf k)

/-- The first poisoned key of a list. -/
def State.firstPoison (s : State) (ks : List Nat) : Option Nat := if s.poison.isEmpty then none else ks.find? s.poisoned

/-- The poisoned units that the cells cover whole (R392). -/
def coveredUnits (poison : List Nat) (cells : List (Nat × Byte)) : List Nat :=
  poison.filter (fun u => (upto (unitSize u)).all (fun i => cells.any (fun c => c.1 == u + i)))

/-- Write cells in list order. Poisoned units that the write covers are cleared; cells in other poisoned units are discarded, and
the first such key is reported (R392). -/
def State.putCells (s : State) (cells : List (Nat × Byte)) : State × Option Nat :=
  if s.poison.isEmpty then ({ s with mem := Memory.writeCells s.mem cells }, none)
  else
    let cov := coveredUnits s.poison cells
    let left := s.poison.filter (fun u => !cov.contains u)
    let good := cells.filter (fun c => !left.contains (unitOf c.1))
    let bad := (cells.find? (fun c => left.contains (unitOf c.1))).map Prod.fst
    ({ s with mem := Memory.writeCells s.mem good, poison := left }, bad)

/-- The cells of bytes at consecutive keys. -/
def cellsAt (k : Nat) : List Byte → List (Nat × Byte)
  | [] => []
  | b :: bs => (k, b) :: cellsAt (k + 1) bs

/-- Write bytes at consecutive keys by an agent that ignores and clears poison (a cast-on's zeroing, a loader's write). -/
def State.putBytes (s : State) (k : Nat) (bs : List Byte) : State :=
  { s with mem := Memory.writeBytes s.mem k bs,
           poison := s.poison.filter (fun u => !(Nat.ble k u && Nat.ble (u + unitSize u) (k + bs.length))) }

/-- Zero n bytes from a key up (R259). -/
def State.zeroBytes (s : State) (k n : Nat) : State :=
  { s with mem := Memory.clear s.mem k n, poison := s.poison.filter (fun u => !(Nat.ble k u && Nat.blt u (k + n))) }

def State.bytes (s : State) (k n : Nat) : List Byte := Memory.readBytes s.mem k n
def State.word64 (s : State) (k : Nat) : Nat := Memory.readNat s.mem k 8

/-- What a strand's own stores of bundles before `bno`, issued and not yet performed, leave at a key (R124): later stores and
later cells win. -/
def overlay (sts : Table PStore) (k bno key : Nat) : Option Byte :=
  sts.foldl (fun acc st =>
    if st.2.strand == k && Nat.blt st.2.bno bno && !st.2.row then
      (st.2.cells.foldl (fun a c => if c.1 == key then some c.2 else a) acc)
    else acc) none

/-- The byte a strand's access of bundle `bno` reads at a key (R124). -/
def State.view (s : State) (c k bno key : Nat) : Byte := (overlay (s.core c).flight.stores k bno key).getD (s.byte key)

def State.viewBytes (s : State) (c k bno key n : Nat) : List Byte := (upto n).map (fun i => s.view c k bno (key + i))

/-- The byte an engine operation reads (R172): what the strand's earlier stores leave, over its shadow of a granule that a later store of
its own strand has written to, else over memory. -/
def State.opView (s : State) (e : EngOp) (key : Nat) : Byte :=
  (overlay (s.core e.core).flight.stores e.strand e.bno key).getD
    (match Table.get? e.shadow key with
    | some b => b.getD 0
    | none => s.byte key)

end Sys2Proof.Machine
end

