-- ==== Sys2Proof/Machine/Num.lean ====
section
/-! DEFINITION. Number formats and exact arithmetic (03): values as exact dyadic numbers, one rounding at the end (R6, R43). -/

namespace Sys2Proof.Machine

/-- The rounding modes of R43. -/
inductive RM
  | rne | rtz | rdn | rup
deriving DecidableEq, Repr

/-- mod[1:0] as a rounding mode (R43). -/
def RM.ofMod (n : Nat) : RM :=
  match n % 4 with
  | 0 => .rne
  | 1 => .rtz
  | 2 => .rdn
  | _ => .rup

/-- An IEEE binary format (R39): exponent bits, mantissa bits. -/
structure IEEE where
  eb : Nat
  mb : Nat
deriving DecidableEq, Repr

def fp64 : IEEE := ⟨11, 52⟩
def fp32 : IEEE := ⟨8, 23⟩
def fp16 : IEEE := ⟨5, 10⟩
def bf16 : IEEE := ⟨8, 7⟩

def IEEE.width (f : IEEE) : Nat := 1 + f.eb + f.mb
def IEEE.bias (f : IEEE) : Int := ((2 ^ (f.eb - 1) - 1 : Nat) : Int)

/-- The format a V-slot variant names (R72). -/
def FFmt.ieee : FFmt → IEEE
  | .f32 => fp32
  | .f64 => fp64
  | .f16 => fp16
  | .bf16 => bf16

/-- An exact value: NaN, an infinity, or (-1)^neg * m * 2^e. A zero keeps its sign. -/
inductive XVal
  | nan
  | inf (neg : Bool)
  | fin (neg : Bool) (m : Nat) (e : Int)
deriving DecidableEq, Repr

def XVal.zero : XVal := .fin false 0 0

/-- The exact value of an integer. -/
def XVal.ofInt (x : Int) : XVal := .fin (decide (x < 0)) x.natAbs 0

def XVal.isNan : XVal → Bool
  | .nan => true
  | _ => false

/-- The signed mantissa of a finite value. -/
def XVal.smant : XVal → Int
  | .fin neg m _ => if neg then -(m : Int) else (m : Int)
  | _ => 0

def XVal.expo : XVal → Int
  | .fin _ _ e => e
  | _ => 0

def XVal.neg : XVal → XVal
  | .nan => .nan
  | .inf n => .inf (!n)
  | .fin n m e => .fin (!n) m e

def XVal.sign : XVal → Bool
  | .nan => false
  | .inf n => n
  | .fin n _ _ => n

/-- The value of a bit pattern of an IEEE format (R39). -/
def IEEE.value (f : IEEE) (bits : Nat) : XVal :=
  let neg := bit bits (f.eb + f.mb)
  let e := fld bits f.mb f.eb
  let m := bits % 2 ^ f.mb
  if e == 2 ^ f.eb - 1 then (if m == 0 then .inf neg else .nan)
  else if e == 0 then .fin neg m (1 - f.bias - (f.mb : Int))
  else .fin neg (2 ^ f.mb + m) ((e : Int) - f.bias - (f.mb : Int))

/-- The canonical NaN (R41). -/
def IEEE.canonNan (f : IEEE) : Nat := (2 ^ f.eb - 1) * 2 ^ f.mb + 2 ^ (f.mb - 1)

def IEEE.infBits (f : IEEE) (neg : Bool) : Nat :=
  (if neg then 2 ^ (f.eb + f.mb) else 0) + (2 ^ f.eb - 1) * 2 ^ f.mb

def IEEE.maxBits (f : IEEE) (neg : Bool) : Nat := IEEE.infBits f neg - 1

/-- The number of binary digits of m, 0 for 0. -/
def bitLen (m : Nat) : Nat := if m == 0 then 0 else Nat.log2 m + 1

/-- Whether the magnitude is rounded up, given the parity of the truncated value and what was cut off (R43). -/
def roundUp (rm : RM) (neg odd : Bool) (above tie inexact : Bool) : Bool :=
  match rm with
  | .rne => above || (tie && odd)
  | .rtz => false
  | .rdn => neg && inexact
  | .rup => !neg && inexact

/-- Round m * 2^e, with a further fraction below one unit of m when `sticky`, to a multiple of 2^q with at most `p` digits
and q at least `qmin`: the result is n * 2^q. A caller that passes `sticky` gives m more than p + 1 digits. -/
def roundMag (rm : RM) (neg : Bool) (m : Nat) (e : Int) (sticky : Bool) (p : Nat) (qmin : Int) : Nat × Int :=
  let q0 : Int := e + (bitLen m : Int) - (p : Int)
  let q : Int := if q0 < qmin then qmin else q0
  if q ≤ e then (m * 2 ^ (e - q).toNat, q)
  else
    let k := (q - e).toNat
    let n := m / 2 ^ k
    let r := m % 2 ^ k
    let half := 2 ^ (k - 1)
    let above := Nat.blt half r || (r == half && sticky)
    let tie := r == half && !sticky
    (if roundUp rm neg (n % 2 == 1) above tie (r != 0 || sticky) then n + 1 else n, q)

/-- The overflow rule of R43: whether the result is an infinity rather than the largest finite value. -/
def overflowInf (rm : RM) (neg : Bool) : Bool :=
  match rm with
  | .rne => true
  | .rtz => false
  | .rdn => neg
  | .rup => !neg

/-- A finite magnitude m * 2^e (plus a fraction when `sticky`), rounded once to an IEEE format (R43). -/
def IEEE.roundFin (f : IEEE) (rm : RM) (neg : Bool) (m : Nat) (e : Int) (sticky : Bool) : Nat :=
  let s := if neg then 2 ^ (f.eb + f.mb) else 0
  let qmin : Int := 1 - f.bias - (f.mb : Int)
  let (n, q) := roundMag rm neg m e sticky (f.mb + 1) qmin
  if n == 0 then s
  else
    let l := Nat.log2 n
    let ex : Int := q + (l : Int)
    if ex > f.bias then (if overflowInf rm neg then IEEE.infBits f neg else IEEE.maxBits f neg)
    else if ex < 1 - f.bias then s + n
    else s + (ex + f.bias).toNat * 2 ^ f.mb + (n * 2 ^ f.mb / 2 ^ l - 2 ^ f.mb)

/-- `round(x, f, rm)`: an exact value in an IEEE format (R41, R43). -/
def IEEE.round (f : IEEE) (rm : RM) : XVal → Nat
  | .nan => f.canonNan
  | .inf neg => f.infBits neg
  | .fin neg m e => IEEE.roundFin f rm neg m e false

/-- Exact sum of finite values as (mantissa, exponent). -/
def sumFin : List XVal → Int × Int
  | [] => (0, 0)
  | x :: xs =>
    let (sm, se) := sumFin xs
    let m := x.smant
    let e := x.expo
    if m == 0 then (sm, se)
    else if sm == 0 then (m, e)
    else if se ≤ e then (sm + m * ((2 ^ (e - se).toNat : Nat) : Int), se)
    else (sm * ((2 ^ (se - e).toNat : Nat) : Int) + m, e)

def XVal.isInf (neg : Bool) : XVal → Bool
  | .inf n => n == neg
  | _ => false

/-- The exact sum of a list of addends (R40, R53): NaN and infinity rules first, then the zero signs of R40 under rm. -/
def sumX (rm : RM) (xs : List XVal) : XVal :=
  if xs.any XVal.isNan then .nan
  else if xs.any (XVal.isInf true) && xs.any (XVal.isInf false) then .nan
  else if xs.any (XVal.isInf true) then .inf true
  else if xs.any (XVal.isInf false) then .inf false
  else
    let (m, e) := sumFin xs
    if m == 0 then
      if xs.all (fun x => !x.sign) then (if xs.isEmpty then .zero else .fin (xs.all (fun x => x.sign)) 0 0)
      else if xs.all (fun x => x.sign && x.smant == 0) then .fin true 0 0
      else if xs.all (fun x => !x.sign && x.smant == 0) then .fin false 0 0
      else .fin (decide (rm = .rdn)) 0 0
    else .fin (decide (m < 0)) m.natAbs e

/-- The exact product, NaN for infinity times zero (R53, R128). -/
def mulX : XVal → XVal → XVal
  | .nan, _ => .nan
  | _, .nan => .nan
  | .inf a, .inf b => .inf (a != b)
  | .inf a, .fin b m _ => if m == 0 then .nan else .inf (a != b)
  | .fin a m _, .inf b => if m == 0 then .nan else .inf (a != b)
  | .fin a m e, .fin b n g => .fin (a != b) (m * n) (e + g)

/-- The largest r with r * r ≤ n, digit by digit from bit k - 1 down. -/
def isqrtAux (n : Nat) : Nat → Nat → Nat
  | 0, r => r
  | k + 1, r => isqrtAux n k (if Nat.ble ((r + 2 ^ k) * (r + 2 ^ k)) n then r + 2 ^ k else r)

/-- ⌊√n⌋. -/
def isqrt (n : Nat) : Nat := isqrtAux n (bitLen n / 2 + 1) 0

/-- a / b rounded once (R128). -/
def divX (f : IEEE) (rm : RM) : XVal → XVal → Nat
  | .nan, _ => f.canonNan
  | _, .nan => f.canonNan
  | .inf _, .inf _ => f.canonNan
  | .inf a, .fin b _ _ => f.infBits (a != b)
  | .fin a _ _, .inf b => IEEE.roundFin f rm (a != b) 0 0 false
  | .fin a m e, .fin b n g =>
    if n == 0 then (if m == 0 then f.canonNan else f.infBits (a != b))
    else
      let k := 128 + bitLen n
      IEEE.roundFin f rm (a != b) (m * 2 ^ k / n) (e - g - (k : Int)) (m * 2 ^ k % n != 0)

/-- √a rounded once (R128): √-0 is -0. -/
def sqrtX (f : IEEE) (rm : RM) : XVal → Nat
  | .nan => f.canonNan
  | .inf neg => if neg then f.canonNan else f.infBits false
  | .fin neg m e =>
    if m == 0 then IEEE.roundFin f rm neg 0 0 false
    else if neg then f.canonNan
    else
      let k : Nat := if e % 2 == 0 then 128 else 129
      let r := isqrt (m * 2 ^ k)
      IEEE.roundFin f rm false r ((e - (k : Int)) / 2) (r * r != m * 2 ^ k)

/-- 1 / √a rounded once (R128): FRSQ of ±0 is ±∞. -/
def rsqrtX (f : IEEE) (rm : RM) : XVal → Nat
  | .nan => f.canonNan
  | .inf neg => if neg then f.canonNan else IEEE.roundFin f rm false 0 0 false
  | .fin neg m e =>
    if m == 0 then f.infBits neg
    else if neg then f.canonNan
    else
      -- a = m' * 2^(2h); 1/√a = 2^-h / √m'
      let odd := e % 2 != 0
      let m' := if odd then 2 * m else m
      let h := (if odd then e - 1 else e) / 2
      let k := 128 + bitLen m'
      let r := isqrt (2 ^ (2 * k) / m')
      IEEE.roundFin f rm false r (-h - (k : Int)) (r * r * m' != 2 ^ (2 * k))

/-- ⌊ln 2 * 2^640⌋. -/
def ln2Fixed : Nat :=
  0xb17217f7d1cf79abc9e3b39803f2f6af40f343267298b62d8a0d175b8baafa2be7b876206debac98559552fb4afa1b10ed2eae35c138214427573b291169b8253e96ca16224ae8c51acbda11317c387e

/-- The sum of the series x^n / n! in 640-bit fixed point, from term number n on. -/
def expSeries (x : Nat) : Nat → Nat → Nat → Nat → Nat
  | 0, _, _, acc => acc
  | k + 1, n, term, acc => expSeries x k (n + 1) (term * x / 2 ^ 640 / n) (acc + term)

/-- 2^(num / 2^d) for 0 ≤ num < 2^d, as a number m with m / 2^128 ≤ 2^(num / 2^d), cut to 128 fraction bits of a 640-bit
evaluation. -/
def exp2Frac (num d : Nat) : Nat :=
  let x := num * ln2Fixed / 2 ^ d
  expSeries x 160 1 (2 ^ 640) 0 / 2 ^ 512

/-- 2^a correctly rounded (R128). 2^a is irrational unless a is an integer, so the cut fraction is never zero. -/
def exp2X (f : IEEE) (rm : RM) : XVal → Nat
  | .nan => f.canonNan
  | .inf neg => if neg then IEEE.roundFin f rm false 0 0 false else f.infBits false
  | .fin neg m e =>
    if m == 0 then IEEE.roundFin f rm false 1 0 false
    else
      let big := ((bitLen m : Nat) : Int) + e > 12
      if big then (if neg then IEEE.roundFin f rm false (2 ^ 128 : Nat) (-8000 : Int) true else IEEE.roundFin f rm false (2 ^ 128 : Nat) 8000 true)
      else if e ≥ 0 then
        let v : Int := ((m * 2 ^ e.toNat : Nat) : Int)
        IEEE.roundFin f rm false 1 (if neg then -v else v) false
      else
        let d := (-e).toNat
        let ip : Int := ((m / 2 ^ d : Nat) : Int)
        let fr := m % 2 ^ d
        if fr == 0 then IEEE.roundFin f rm false 1 (if neg then -ip else ip) false
        else
          let k : Int := if neg then -ip - 1 else ip
          let num := if neg then 2 ^ d - fr else fr
          IEEE.roundFin f rm false (exp2Frac num d) (k - 128) true

/-- The sum of z^(2n+1) / (2n+1) in 640-bit fixed point. -/
def atanhSeries (z2 : Nat) : Nat → Nat → Nat → Nat → Nat
  | 0, _, _, acc => acc
  | k + 1, n, term, acc => atanhSeries z2 k (n + 2) (term * z2 / 2 ^ 640) (acc + term / n)

/-- log2(m / 2^l) for 2^l < m < 2^(l+1), in 512-bit fixed point, cut from a 640-bit evaluation. -/
def log2Frac (m l : Nat) : Nat :=
  let z := (m - 2 ^ l) * 2 ^ 640 / (m + 2 ^ l)
  let s := atanhSeries (z * z / 2 ^ 640) 230 1 z 0
  2 * s * 2 ^ 640 / ln2Fixed / 2 ^ 128

/-- log2(a) correctly rounded (R128). -/
def log2X (f : IEEE) (rm : RM) : XVal → Nat
  | .nan => f.canonNan
  | .inf neg => if neg then f.canonNan else f.infBits false
  | .fin neg m e =>
    if m == 0 then f.infBits true
    else if neg then f.canonNan
    else
      let l := Nat.log2 m
      let k : Int := e + (l : Int)
      if m == 2 ^ l then IEEE.round f rm (XVal.ofInt k)
      else
        let fr := log2Frac m l
        if k ≥ 0 then IEEE.roundFin f rm false (k.toNat * 2 ^ 512 + fr) (-512) true
        else IEEE.roundFin f rm true ((-k).toNat * 2 ^ 512 - fr - 1) (-512) true

/-- Compare finite or infinite values: the sign of a - b, zeros equal. NaN is handled by callers. -/
def cmpX : XVal → XVal → Int
  | .inf a, .inf b => if a == b then 0 else if a then -1 else 1
  | .inf a, _ => if a then -1 else 1
  | _, .inf b => if b then 1 else -1
  | x, y =>
    let d := (sumFin [x, y.neg]).1
    if d < 0 then -1 else if d == 0 then 0 else 1

/-- minimumNumber of R129: -0 counts as less than +0; a NaN gives way. The result is one of the two bit patterns. -/
def minBits (f : IEEE) (a b : Nat) : Nat :=
  let x := f.value a
  let y := f.value b
  if x.isNan then (if y.isNan then f.canonNan else b)
  else if y.isNan then a
  else
    let c := cmpX x y
    if c < 0 then a else if c > 0 then b else if x.sign then a else b

/-- maximumNumber of R129. -/
def maxBits (f : IEEE) (a b : Nat) : Nat :=
  let x := f.value a
  let y := f.value b
  if x.isNan then (if y.isNan then f.canonNan else b)
  else if y.isNan then a
  else
    let c := cmpX x y
    if c < 0 then b else if c > 0 then a else if x.sign then b else a

/-- Round an exact value to an integer by rm (R52); NaN and infinities are the caller's. -/
def roundInt (rm : RM) (neg : Bool) (m : Nat) (e : Int) : Int :=
  let r : Nat :=
    if e ≥ 0 then m * 2 ^ e.toNat
    else
      let k := (-e).toNat
      let n := m / 2 ^ k
      let c := m % 2 ^ k
      let half := 2 ^ (k - 1)
      if roundUp rm neg (n % 2 == 1) (Nat.blt half c) (c == half) (c != 0) then n + 1 else n
  if neg then -(r : Int) else (r : Int)

/-- Conversion to an integer range with saturation (R52). -/
def toIntSat (rm : RM) (lo hi : Int) : XVal → Int
  | .nan => 0
  | .inf neg => if neg then lo else hi
  | .fin neg m e => satInt (roundInt rm neg m e) lo hi

/-- `rne(x)` of a rational a / 2^k to an integer. -/
def rneShift (a : Int) (k : Nat) : Int := roundInt .rne (decide (a < 0)) a.natAbs (-(k : Int))

/-! ### Narrow formats (R44-R48) -/

/-- A format descriptor's fields (R44). -/
structure NarrowFmt where
  scale : Int
  bias  : Int
  spec  : Nat
  cont8 : Bool
  sgn   : Bool
  eb    : Nat
  mb    : Nat
deriving DecidableEq, Repr

def NarrowFmt.ofImage (w : Nat) : NarrowFmt :=
  { scale := sval 8 (fld w 24 8), bias := sval 8 (fld w 16 8), spec := fld w 14 2, cont8 := bit w 13, sgn := bit w 12,
    eb := fld w 8 4, mb := fld w 4 4 }

/-- The code width W of R46. -/
def NarrowFmt.width (d : NarrowFmt) : Nat := (if d.sgn then 1 else 0) + d.eb + d.mb

/-- A valid descriptor image (R45). -/
def fdValid (w : Nat) : Bool :=
  let d := NarrowFmt.ofImage w
  Nat.ble d.width (if d.cont8 then 8 else 4) && Nat.ble 1 (d.eb + d.mb) && d.spec != 3 && fld w 0 4 == 0
    && (d.spec != 2 || (Nat.ble 2 d.eb && Nat.ble 1 d.mb))
    && (d.spec != 1 || d.eb == 0 || Nat.ble 2 (d.eb + d.mb))
    && (d.eb != 0 || (d.bias == 0 && d.spec != 2))

/-- `nan_code(fd)` of R46. -/
def NarrowFmt.nanCode (d : NarrowFmt) : Nat :=
  if d.eb == 0 then (if d.sgn then 2 ^ d.mb else 2 ^ d.mb - 1) else 2 ^ (d.eb + d.mb) - 1

/-- The code of infinity under the IN policy (R46). -/
def NarrowFmt.infCode (d : NarrowFmt) (neg : Bool) : Nat :=
  (if neg && d.sgn then 2 ^ (d.eb + d.mb) else 0) + (2 ^ d.eb - 1) * 2 ^ d.mb

/-- `narrow_value(c, fd)` of R46. -/
def NarrowFmt.value (d : NarrowFmt) (c0 : Nat) : XVal :=
  let c := c0 % 2 ^ d.width
  let s := d.sgn && bit c (d.width - 1)
  let m := c % 2 ^ d.mb
  if d.eb == 0 then
    if d.spec == 1 && c == d.nanCode then .nan
    else
      let n : Int := if d.sgn then sval (d.mb + 1) c else (m : Int)
      .fin (decide (n < 0)) n.natAbs d.scale
  else
    let e := fld c d.mb d.eb
    if d.spec == 2 && e == 2 ^ d.eb - 1 then (if m == 0 then .inf s else .nan)
    else if d.spec == 1 && e == 2 ^ d.eb - 1 && m == 2 ^ d.mb - 1 then .nan
    else if e == 0 then .fin s m (1 - d.bias - (d.mb : Int) + d.scale)
    else .fin s (2 ^ d.mb + m) ((e : Int) - d.bias - (d.mb : Int) + d.scale)

/-- The largest finite code without its sign (R46, R47). -/
def NarrowFmt.maxCode (d : NarrowFmt) : Nat :=
  if d.eb == 0 then (if !d.sgn && d.spec == 1 then 2 ^ d.mb - 2 else 2 ^ d.mb - 1)
  else match d.spec with
    | 0 => 2 ^ (d.eb + d.mb) - 1
    | 1 => 2 ^ (d.eb + d.mb) - 2
    | _ => (2 ^ d.eb - 1) * 2 ^ d.mb - 1

/-- The code of a signed scaled integer n (EBITS = 0). -/
def NarrowFmt.intCode (d : NarrowFmt) (n : Int) : Nat := wrap d.width n

/-- The lowest scaled integer of the format (R47's table). -/
def NarrowFmt.minInt (d : NarrowFmt) : Int :=
  if d.sgn then (if d.spec == 1 then -((2 ^ d.mb - 1 : Nat) : Int) else -((2 ^ d.mb : Nat) : Int)) else 0

/-- `cvtn(x, fd, rm)` of R47: the code. DESIGN CHOICE (log entry 44): a tie of RNE between neighbours of a format with no mantissa bits goes
to the greater magnitude. -/
def NarrowFmt.cvtn (d : NarrowFmt) (rm : RM) (x0 : XVal) : Nat :=
  if x0.isNan then (if d.spec == 0 then 0 else d.nanCode)
  else
    let x : XVal := if !d.sgn && x0.sign then .zero else x0
    let signBit := fun (neg : Bool) => if neg && d.sgn then 2 ^ (d.width - 1) else 0
    match x with
    | .nan => 0
    | .inf neg =>
      if d.spec == 2 then d.infCode neg
      else if d.eb == 0 then d.intCode (if neg then -(d.maxCode : Int) else (d.maxCode : Int))
      else signBit neg + d.maxCode
    | .fin neg m e =>
      let e' := e - d.scale
      if d.eb == 0 then d.intCode (satInt (roundInt rm neg m e') d.minInt (d.maxCode : Int))
      else
        let qmin : Int := 1 - d.bias - (d.mb : Int)
        let (n, q) := roundMag rm neg m e' false (d.mb + 1) qmin
        if n == 0 then signBit neg
        else
          let l := Nat.log2 n
          let ex : Int := q + (l : Int) + d.bias
          let code : Int :=
            if ex < 1 then (n : Int) else ex * ((2 ^ d.mb : Nat) : Int) + ((n * 2 ^ d.mb / 2 ^ l - 2 ^ d.mb : Nat) : Int)
          if code > (d.maxCode : Int) then
            (if d.spec == 2 && overflowInf rm neg then d.infCode neg else signBit neg + d.maxCode)
          else signBit neg + code.toNat

/-- The largest finite value at SCALE 0 as (mantissa, exponent), for qs of R163. -/
def NarrowFmt.maxFin0 (d : NarrowFmt) : XVal := NarrowFmt.value { d with scale := 0 } d.maxCode

/-! ### Block-exponent reduction (R56, R57) -/

/-- ex(x) of R56 for a finite non-zero pattern of the format. -/
def IEEE.ex (f : IEEE) (bits : Nat) : Int := ((Nat.max (fld bits f.mb f.eb) 1 : Nat) : Int) - f.bias

/-- The block exponent E of R56 over patterns of the format. -/
def blockExp (f : IEEE) (xs : List Nat) : Int :=
  let es := (xs.filter (fun b => match f.value b with | .fin _ m _ => m != 0 | _ => false)).map f.ex
  match es with
  | [] => 1 - f.bias
  | e :: t => t.foldl (fun a b => if a < b then b else a) e

/-- n[r] of R56: rne(x * 2^(50 - E)). -/
def gridInt (E : Int) : XVal → Int
  | .fin neg m e => roundInt .rne neg m (e + 50 - E)
  | _ => 0

/-- The NaN that carries a rank (R57). -/
def IEEE.rankNan (f : IEEE) (rank : Nat) : Nat :=
  f.canonNan + Nat.min rank (if f.mb == 10 then 511 else if f.mb == 7 then 63 else rank)

/-- The least rank whose value satisfies p. -/
def firstRank (p : XVal → Bool) : List (Nat × XVal) → Option Nat
  | [] => none
  | (r, x) :: t => if p x then some r else firstRank p t

/-- One element of a block-exponent reduction (R56, R57): contributions (rank, value) in ascending rank. -/
def reduceElem (fo : IEEE) (E : Int) (xs : List (Nat × XVal)) : Nat :=
  match firstRank XVal.isNan xs with
  | some r => fo.rankNan r
  | none =>
    let pos := firstRank (XVal.isInf false) xs
    let neg := firstRank (XVal.isInf true) xs
    match pos, neg with
    | some a, some b => fo.rankNan (Nat.min a b)
    | some _, none => fo.infBits false
    | none, some _ => fo.infBits true
    | none, none =>
      let s := (xs.map (fun x => gridInt E x.2)).foldl (· + ·) (0 : Int)
      IEEE.roundFin fo .rne (decide (s < 0)) s.natAbs (E - 50) false

end Sys2Proof.Machine
end

