-- ==== Sys2Proof/Machine/Flags.lean ====
section
/-! DEFINITION. Condition bits and compare codes (R70, R73, R94, R131), lane masks (R130), class words (R132), the loop stack (R98),
knot states as KSTAT shows them (R103). -/

namespace Sys2Proof.Machine

/-- The compare code cc on two 64-bit slot values (R70). -/
def Cc.holds (c : Cc) (a b : Nat) : Bool :=
  match c with
  | .eq => a == b
  | .ne => a != b
  | .lt => decide (sval 64 a < sval 64 b)
  | .ge => decide (sval 64 b ≤ sval 64 a)
  | .ltu => Nat.blt a b
  | .geu => Nat.ble b a
  | .gt => decide (sval 64 b < sval 64 a)
  | .le => decide (sval 64 a ≤ sval 64 b)
  | .gtu => Nat.blt b a
  | .leu => Nat.ble a b

/-- The FCMP code cc (R73, R131): a lane with a NaN satisfies .NE and .UN and no other. -/
def fcmpHolds (cc : Nat) (a b : XVal) : Bool :=
  let un := a.isNan || b.isNan
  let d := cmpX a b
  match cc with
  | 0 => !un && d == 0
  | 1 => un || d != 0
  | 2 => !un && decide (d < 0)
  | 3 => !un && decide (d ≤ 0)
  | 4 => !un && decide (0 < d)
  | 5 => !un && decide (0 ≤ d)
  | 6 => un
  | _ => !un

/-- The ICMP code cc on values read by the type's signedness (R73). -/
def icmpHolds (cc : Nat) (a b : Int) : Bool :=
  match cc with
  | 0 => a == b
  | 1 => a != b
  | 2 => decide (a < b)
  | 3 => decide (a ≤ b)
  | 4 => decide (b < a)
  | _ => decide (b ≤ a)

/-- cbN (R94). -/
def Ctx.cond (x : Ctx) (n : Nat) : Bool := bit x.cb n

/-- Write cbN. -/
def Ctx.setCond (x : Ctx) (n : Nat) (b : Bool) : Ctx := { x with cb := setFld x.cb n 1 (bnat b) }

/-- The bit of a mask that governs lane i of an operand with n lanes (R130). -/
def maskLane (mask n i : Nat) : Bool := bit mask (if n ≤ 64 then i else i / (n / 64))

/-- The mask a compare forms from its lanes' outcomes (R130). -/
def compareMask (hs : List Bool) : Nat :=
  let n := hs.length
  let g := n / 64
  ofBits ((upto (if n ≤ 64 then n else 64)).filter (fun j =>
    if n ≤ 64 then hs.getD j false else (upto g).all (fun i => hs.getD (j * g + i) false)))

/-- The class word of a bit pattern (R132): the index of its one set bit. -/
def classBit (f : IEEE) (b : Nat) : Nat :=
  let neg := bit b (f.eb + f.mb)
  let e := fld b f.mb f.eb
  let m := b % 2 ^ f.mb
  if e == 2 ^ f.eb - 1 then
    (if m == 0 then (if neg then 0 else 7) else if bit m (f.mb - 1) then 9 else 8)
  else if e == 0 then
    (if m == 0 then (if neg then 3 else 4) else if neg then 2 else 5)
  else if neg then 1 else 6

/-- Loop stack entries (R98). -/
def lseV (w : Dword) : Bool := bit w.toNat 63
def lseK (w : Dword) : Bool := bit w.toNat 62
def lseIter (w : Dword) : Nat := fld w.toNat 30 30
def lseRem (w : Dword) : Nat := fld w.toNat 0 30
def lseWord (k : Bool) (iter rem : Nat) : Dword := dw (2 ^ 63 + bnat k * 2 ^ 62 + iter % 2 ^ 30 * 2 ^ 30 + rem % 2 ^ 30)

/-- The top: the highest entry with V = 1 (R98). -/
def Strand.loopTop (t : Strand) : Option Nat := [3, 2, 1, 0].find? (fun i => lseV (t.lse i))

/-- Whether a kernel loop is on the stack (R100, R261). -/
def Strand.kernel (t : Strand) : Bool := [0, 1, 2, 3].any (fun i => lseV (t.lse i) && lseK (t.lse i))

def Ctx.setLse (x : Ctx) (n : Nat) (w : Dword) : Ctx := { x with lse := Table.set x.lse n w }

/-- KSTAT (R103). -/
def Strand.kstat (t : Strand) : Nat :=
  (upto 16).foldl (fun acc n => acc + (match t.knot n with | .idle => 0 | .pending => 1 | .done => 2 | .failed => 3) * 4 ^ n) 0

end Sys2Proof.Machine
end

