-- ==== Sys2Proof/Machine/Timing.lean ====
section
/-! DEFINITION. The timing of an LPDDR-5X channel (R212, R213): the checks on a command, what a command leaves in the channel's history,
and the dynamic requests that a pump serves outside programs and in their windows (R221). -/

namespace Sys2Proof.Machine

/-! ### Timing (R212, R213) -/

def Pump.tWR (p : Pump) : Nat := fld p.tima.toNat 56 8
def Pump.tCCD (p : Pump) : Nat := fld p.tima.toNat 48 8
def Pump.tFAW (p : Pump) : Nat := fld p.tima.toNat 40 8
def Pump.tRRD (p : Pump) : Nat := fld p.tima.toNat 32 8
def Pump.tRC (p : Pump) : Nat := fld p.tima.toNat 24 8
def Pump.tRAS (p : Pump) : Nat := fld p.tima.toNat 16 8
def Pump.tRP (p : Pump) : Nat := fld p.tima.toNat 8 8
def Pump.tRCD (p : Pump) : Nat := fld p.tima.toNat 0 8
def Pump.tREFI (p : Pump) : Nat := fld p.timb.toNat 50 14
def Pump.tRFCab (p : Pump) : Nat := fld p.timb.toNat 40 10
def Pump.tRFCpb (p : Pump) : Nat := fld p.timb.toNat 32 8
def Pump.rl (p : Pump) : Nat := fld p.timb.toNat 24 8
def Pump.wl (p : Pump) : Nat := fld p.timb.toNat 16 8
def Pump.tRTP (p : Pump) : Nat := fld p.timb.toNat 8 8
def Pump.tWTR (p : Pump) : Nat := fld p.timb.toNat 0 8

/-- Whether cycle c lies n cycles or more after an earlier command, if there was one. -/
def since (x : Option Nat) (n c : Nat) : Bool :=
  match x with
  | none => true
  | some a => Nat.ble (a + n) c

def PHist.bank (h : PHist) (b : Nat) : PBank := Table.getD h.banks b {}
def PHist.modBank (h : PHist) (b : Nat) (f : PBank → PBank) : PHist := { h with banks := Table.set h.banks b (f (h.bank b)) }
def PHist.isOpen (h : PHist) (b : Nat) : Bool := (h.bank b).opened.isSome
def PHist.anyOpen (h : PHist) : Bool := (upto 16).any h.isOpen

/-- The banks a command concerns. -/
def banksOf (cmd bank : Nat) : List Nat := if cmd == 5 || cmd == 6 then upto 16 else [bank]

/-- The checks of R213, ascending, that a command fails at cycle c; 0xD and 0xE are made elsewhere. -/
def Pump.failing (p : Pump) (cmd bank c : Nat) : List Nat :=
  let h := p.hist
  let b := h.bank bank
  let col := cmd == 2 || cmd == 3
  let closing := (banksOf cmd bank).filter (fun x => (cmd == 4 || cmd == 5) && h.isOpen x)
  let opening := (banksOf cmd bank).filter (fun _ => cmd == 1 || cmd == 6 || cmd == 7)
  let in_ := match p.window with | some (lo, hi) => Nat.ble lo c && Nat.ble c hi | none => false
  let rows : List (Nat × Bool) :=
    [(1, !col || since b.act p.tRCD c),
     (2, opening.all (fun x => since (h.bank x).pre p.tRP c)),
     (3, closing.all (fun x => since (h.bank x).act p.tRAS c)),
     (4, cmd != 1 || since b.act p.tRC c),
     (5, cmd != 1 || (upto 16).all (fun x => x == bank || since (h.bank x).act p.tRRD c)),
     (6, cmd != 1 || Nat.ble (h.acts.filter (fun a => Nat.blt c (a.1 + p.tFAW) && Nat.blt a.1 c)).length 3),
     (7, !col || since h.col p.tCCD c),
     (8, closing.all (fun x => since (h.bank x).wr (p.wl + 2 + p.tWR) c)),
     (9, cmd != 2 || since h.wr (p.wl + 2 + p.tWTR) c),
     (0xA, closing.all (fun x => since (h.bank x).rd p.tRTP c)),
     (0xB, opening.isEmpty || (since h.refab p.tRFCab c && opening.all (fun x => since (h.bank x).refpb p.tRFCpb c))),
     (0xC, (match cmd with
        | 1 => !h.isOpen bank | 7 => !h.isOpen bank | 2 => h.isOpen bank | 3 => h.isOpen bank
        | 6 => !h.anyOpen | 8 => !h.anyOpen | 15 => !h.anyOpen | _ => true) && !in_),
     (0xF, cmd != 3 || since h.rd (p.rl + 4) (c + p.wl))]
  (rows.filter (fun r => !r.2)).map Prod.fst

/-- Whether the pump's own command is legal at c; a service window does not bar it. -/
def Pump.legal (p : Pump) (cmd bank c : Nat) : Bool := ({ p with window := none }.failing cmd bank c).isEmpty

/-- What a command leaves in the channel's history. -/
def PHist.after (h : PHist) (cmd bank slot row c : Nat) : PHist :=
  match cmd with
  | 1 => { (h.modBank bank (fun b => { b with opened := some (slot, row), act := some c })) with acts := ((c, bank) :: h.acts).take 8 }
  | 2 => { (h.modBank bank (fun b => { b with rd := some c })) with col := some c, rd := some c }
  | 3 => { (h.modBank bank (fun b => { b with wr := some c })) with col := some c, wr := some c }
  | 4 => h.modBank bank (fun b => { b with opened := none, pre := some c })
  | 5 => (upto 16).foldl (fun g x => if g.isOpen x then g.modBank x (fun b => { b with opened := none, pre := some c }) else g) h
  | 6 => { h with refab := some c }
  | 7 => h.modBank bank (fun b => { b with refpb := some c })
  | _ => h

/-- D after a refresh (R220): REFAB lowers it; the sixteenth marked bank does. -/
def Pump.refreshed (p : Pump) (cmd bank : Nat) : Pump :=
  match cmd with
  | 6 => { p with owed := p.owed - 1 }
  | 7 =>
    let m := if bit p.marks bank then p.marks else p.marks + 2 ^ bank
    if m == 2 ^ 16 - 1 then { p with marks := 0, owed := p.owed - 1 } else { p with marks := m }
  | _ => p

/-- The pump issues a command on its channel. -/
def Pump.issue (p : Pump) (cmd bank slot row c : Nat) : Pump :=
  { p with hist := p.hist.after cmd bank slot row c, cmdAt := some c }.refreshed cmd bank

/-! ### Dynamic requests (R221) -/

/-- Whether the pump may serve dynamic traffic in cycle c (R221). -/
def Pump.serves (p : Pump) (c : Nat) : Bool :=
  match p.prog with
  | none => true
  | some g =>
    match g.phase with
    | .queued => true
    | .bound => true
    | _ => match p.window with | some (lo, hi) => Nat.ble lo c && Nat.ble c hi | none => false

/-- The pump whose channel holds an LPA (R19, R208). -/
def pumpOf (lpa : Nat) : Nat := lpa / 2 ^ 39 % 4 * 24 + lpa / 2 ^ 36 % 8 * 4 + lpa / 2 ^ 5 % 4

/-- The greatest of some cycles. -/
def latest (xs : List Nat) : Nat := xs.foldl Nat.max 0

/-- n cycles after an earlier command, or no bound. -/
def afterCmd (x : Option Nat) (n : Nat) : Nat := match x with | some a => a + n | none => 0

/-- The first cycle from which R213 lets an ACT to any row follow the last four. -/
def Pump.fawAt (p : Pump) (h : PHist) : Nat := match h.acts.drop 3 with | a :: _ => a.1 + p.tFAW | [] => 0

/-- The first cycle from c on at which an ACT to a closed bank is legal (R213). -/
def Pump.actAt (p : Pump) (h : PHist) (bank c : Nat) : Nat :=
  let b := h.bank bank
  latest ([c, afterCmd b.act p.tRC, afterCmd b.pre p.tRP, afterCmd b.refpb p.tRFCpb, afterCmd h.refab p.tRFCab, p.fawAt h]
    ++ (upto 16).map (fun x => afterCmd (h.bank x).act p.tRRD))

/-- The first cycle at which a RD or WR to an open bank is legal (R213). -/
def Pump.colAt (p : Pump) (h : PHist) (bank : Nat) (write : Bool) : Nat :=
  latest [afterCmd (h.bank bank).act p.tRCD, afterCmd h.col p.tCCD,
    if write then afterCmd h.rd (p.rl + 4) - p.wl else afterCmd h.wr (p.wl + 2 + p.tWTR)]

/-- The first cycle at which a PRE to an open bank is legal (R213). -/
def Pump.preAt (p : Pump) (h : PHist) (bank : Nat) : Nat :=
  let b := h.bank bank
  latest [afterCmd b.act p.tRAS, afterCmd b.wr (p.wl + 2 + p.tWR), afterCmd b.rd p.tRTP]

/-- The first cycle at which every check of R213 lets any command through, with every bank closed. -/
def Pump.quietAt (p : Pump) (h : PHist) : Nat :=
  latest ([afterCmd h.col p.tCCD, afterCmd h.wr (p.wl + 2 + p.tWTR), afterCmd h.rd (p.rl + 4) - p.wl, afterCmd h.refab p.tRFCab, p.fawAt h]
    ++ (upto 16).flatMap (fun x =>
      let b := h.bank x
      [afterCmd b.act (Nat.max p.tRC p.tRRD), afterCmd b.pre p.tRP, afterCmd b.refpb p.tRFCpb]))

/-- The commands of a request of n bursts of one row, begun in cycle c, each at its first legal cycle and with the bank closed at its end
(R213, R221): the history they leave, the cycle of its last burst and that of its PRE. -/
def Pump.request (p : Pump) (h : PHist) (bank row n : Nat) (write : Bool) (c : Nat) : PHist × Nat × Nat :=
  let h1 := h.after 1 bank 0 row (p.actAt h bank c)
  let last := p.colAt h1 bank write + (n - 1) * Nat.max 1 p.tCCD
  let h2 := h1.after (if write then 3 else 2) bank 0 0 last
  let pre := Nat.max (last + 1) (p.preAt h2 bank)
  (h2.after 4 bank 0 0 pre, last, pre)

/-- Whether a request may leave the channel as `h` (R221): in a window owed refreshes come first, and the window must end with every
check satisfied for any command. -/
def Pump.fits (p : Pump) (h : PHist) (c : Nat) : Bool :=
  p.serves c && (match p.prog, p.window with
    | some g, some (_, hi) => (match g.phase with | .queued => true | .bound => true | _ => p.owed == 0 && Nat.ble (p.quietAt h) (hi + 1))
    | _, _ => true)

/-- The pump serves one more burst in CK cycle c, together with those of the same row that it serves in that cycle (R221). -/
def Pump.take (p : Pump) (bank row col : Nat) (write : Bool) (c : Nat) : Option Pump :=
  let fresh : Dyn := { at_ := c, bank := bank, row := row, col := col, n := 1, write := write, base := p.hist }
  let d := match p.dyn with
    | some d =>
      if d.at_ == c && d.bank == bank && d.row == row && d.write == write then { d with col := col, n := if d.col == col then d.n else d.n + 1 }
      else fresh
    | none => fresh
  if p.dyn == some d then (if p.serves c then some p else none)
  else
    let (h, last, pre) := p.request d.base bank row d.n write c
    if p.fits h c then some { p with hist := h, dyn := some d, colEnd := last, dynPre := Nat.max p.dynPre pre } else none

/-- A burst of the module's LPDDR-5X for a dynamic request (R19, R208, R221). -/
def State.takeBurst (s : State) (lpa : Nat) (write : Bool) : Option State :=
  let page := lpa / 2 ^ 18
  let n := pumpOf lpa
  ((s.pump n).take (fld page 14 4) (page % 2 ^ 14 * 32 + fld lpa 13 5) (fld lpa 7 6) write s.env.ck).map (fun p => s.modPump n (fun _ => p))

/-- The rows of a page that a PSPLIT has copied on a channel: they stand in `vals` after the old and the new page. -/
def splitRows (vals : List (Nat × Int)) (ch : Nat) : Nat := ((vals.find? (fun v => v.1 == 2 + ch)).map (fun v => v.2.toNat)).getD 0

/-- The pumps on whose channels a PSPLIT has rows left to copy (R189). -/
def EngOp.splitPumps (e : EngOp) : List Nat :=
  match e.kind, e.vals with
  | .psplit .., (_, old) :: _ :: _ =>
    if e.phase == .working then ((upto 4).filter (fun ch => Nat.blt (splitRows e.vals ch) 32)).map (fun ch => pumpOf (old.toNat * 2 ^ 18) + ch)
    else []
  | _, _ => []

/-- The channels on which a request waits. -/
def State.callPumps (s : State) (c : Call) : List Nat :=
  match c.split with
  | some o => ((s.op? o).map EngOp.splitPumps).getD []
  | none => c.left.map (fun x => pumpOf (x * 32))

/-- The bursts of an access, by number; bytes outside the LPDDR-5X take no channel. -/
def burstsOf (keys : List Nat) : List Nat :=
  ((keys.filter (fun k => Nat.ble (2 ^ 42) k && Nat.blt k (2 ^ 64))).map (fun k => (k - 2 ^ 42) / 32)).eraseReps

/-- The channels serve bursts in order, each up to the first that it cannot take now; `shut` are channels whose earlier requests wait. What
is left, and the channels that are then shut. -/
def State.pour (s : State) (write : Bool) (shut : List Nat) : List Nat → List Nat × List Nat × State
  | [] => ([], shut, s)
  | b :: bs =>
    let n := pumpOf (b * 32)
    match (if shut.contains n then none else s.takeBurst (b * 32) write) with
    | some s1 => State.pour s1 write shut bs
    | none =>
      let (left, shut1, s1) := State.pour s write (if shut.contains n then shut else n :: shut) bs
      (b :: left, shut1, s1)

/-- The channels serve the requests that wait, in the order of their arrival (R221). -/
def State.pourAll (s : State) (shut : List Nat) : List Call → List Call × State
  | [] => ([], s)
  | c :: cs =>
    let (left, shut1, s1) := s.pour c.write (if c.split.isSome then s.callPumps c ++ shut else shut) c.left
    let (cs1, s2) := State.pourAll s1 shut1 cs
    ({ c with left := left } :: cs1, s2)

def State.setCalls (s : State) (cs : List Call) : State := s.modFab (fun f => { f with calls := cs })
def State.serveCalls (s : State) : State :=
  let (cs, s1) := s.pourAll [] (s.fab.calls.filter (fun c => match c.split with | some o => (s.op? o).isSome | none => true))
  s1.setCalls cs

/-- An access asks its channels for its bursts (R221): whether they have all been served. What they cannot serve now waits behind the
earlier requests of each channel, and the access asks again. -/
def State.takeBursts (s : State) (write : Bool) (keys : List Nat) : Bool × State :=
  match burstsOf keys with
  | [] => (true, s)
  | b :: bs =>
    match s.fab.calls.find? (fun c => c.write == write && c.bursts == b :: bs && c.split.isNone) with
    | some c => if c.left.isEmpty then (true, s.setCalls (s.fab.calls.erase c)) else (false, s)
    | none =>
      match s.pour write (s.fab.calls.flatMap s.callPumps) (b :: bs) with
      | ([], _, s1) => (true, s1)
      | (l :: ls, _, s1) => (false, s1.setCalls (s1.fab.calls ++ [⟨write, b :: bs, l :: ls, none⟩]))

end Sys2Proof.Machine
end

