-- ==== Sys2Proof/Machine/Xlate.lean ====
section
/-! DEFINITION. Virtual addresses (13): the walk of R267-R269, cached translations (R270), host pages (R272, R414), text pages
(R284, R286), reference counts (R250, R279), the domain window (R18, R304). -/

namespace Sys2Proof.Machine

/-- A translation: the key of the byte; a failure with its cause and the AUX bits of R269; a leaf with RES = 0, with its AUX bits; the key
of a poisoned table entry (R392); or a wait for the host. -/
inductive Xl
  | ok (key : Nat)
  | fail (cause aux : Nat)
  | absent (aux : Nat)
  | poison (key : Nat)
  | wait
deriving DecidableEq, Repr

/-- What an access wants of a page. -/
inductive Acc
  | read | write | fetch
deriving DecidableEq, Repr

/-- The index of a level and the size of what its leaf maps, in address bits (R267). -/
def levelBits : List (Nat × Nat) := [(47, 9), (38, 9), (30, 8), (24, 6), (18, 6)]

/-- The defects of R268 and R269 in an entry read at a level. DEDUCED (log entry 7): an LPA has pump groups 0 to 5 only, so an ADDR of KIND
0b00 with LPA[38:36] of 6 or 7 is no LPA and breaks R268. -/
def pteBad (level pte : Nat) : Bool :=
  let kind := fld pte 62 2
  let addr := fld pte 12 45 * 2 ^ 12
  let leaf := bit pte 1
  let sh := (levelBits.getD level (0, 0)).1
  !bit pte 0 || fld pte 57 2 != 0 || fld pte 2 10 != 0 || kind == 3
    || (leaf && Nat.blt level 2) || (!leaf && level == 4)
    || (leaf && addr % 2 ^ sh != 0)
    || (kind == 0 && (Nat.ble (2 ^ 41) addr || Nat.ble 6 (fld addr 36 3)))
    || (kind == 1 && (Nat.ble (2 ^ 33) addr || Nat.blt level 3))
    || (!leaf && (kind != 0 || fld pte 59 3 != 0))

/-- What a walk comes to: the leaf with its level, the level at which it failed (R269), or the key of a poisoned entry (R392). -/
inductive Walked
  | leaf (pte level : Nat)
  | bad (level : Nat)
  | poison (key : Nat)
deriving DecidableEq, Repr

/-- The walk from an entry table at LPA `tab` (R267, R269). -/
def walk (mem : Mem) (poison : List Nat) (va : Nat) : List (Nat × Nat) → Nat → Nat → Walked
  | [], level, _ => .bad level
  | (lo, len) :: ls, level, tab =>
    let key := keyL (tab + 8 * fld va lo len)
    if poison.contains (unitOf key) then .poison key
    else
      let pte := Memory.readNat mem key 8
      if pteBad level pte then .bad level
      else if bit pte 1 then .leaf pte level
      else walk mem poison va ls (level + 1) (fld pte 12 45 * 2 ^ 12)

/-- The key of a cached leaf: its level and page base. -/
def tlbKey (level va : Nat) : Nat := level * 2 ^ 57 + va / 2 ^ (levelBits.getD level (0, 0)).1

/-- The leaf cached for a VA on a die (R270). -/
def State.cached (s : State) (d fn va : Nat) : Option (Nat × Nat) :=
  let t := Table.getD (s.die d).tlb fn []
  ([2, 3, 4].findSome? (fun l => Table.get? t (tlbKey l va))).map (fun p => (p.1.toNat, p.2))

/-- The root of a function's table of a die (R267). -/
def State.ptroot (s : State) (d fn : Nat) : Nat := Table.getD s.host.ptroot (fn * 4 + d) 0

/-- The walk of a function's table of a die. -/
def State.walked (s : State) (d fn va : Nat) : Walked := walk s.mem s.poison va levelBits 0 (s.ptroot d fn)

/-- The leaf of a local VA on die d for a function; a walked leaf is cached (R267, R270). Where the tables no longer hold the leaf that is
cached, each access uses the one or the other, each free of the last, until the invalidation has completed (R270; log entry 7). -/
def State.leafOf (s : State) (d fn va : Nat) : Walked × State :=
  match s.cached d fn va, s.walked d fn va with
  | some (pte, l), w =>
    if w == .leaf pte l then (w, s)
    else (if Config.freeChoice s.env.fresh then .leaf pte l else w, s.fresh.2)
  | none, .leaf pte l =>
    (.leaf pte l, s.modDie d (fun x =>
      { x with tlb := Table.set x.tlb fn (Table.set (Table.getD x.tlb fn []) (tlbKey l va) (dw pte, l)) }))
  | none, w => (w, s)

/-- The W address of text page n of a die (R284). -/
def textPageW (n : Nat) : Nat := n / 3 * 2 ^ 25 + 0x01F00000 + n % 3 * 0x40000

/-- Whether the byte at W address wa of a die lies in a text page of an object of the function (R269). -/
def State.ownText (s : State) (d fn wa : Nat) : Bool :=
  s.codes.any (fun c => c.2.fn == fn && (Table.getD c.2.pages d []).any (fun n =>
    Nat.ble (textPageW n) wa && Nat.blt wa (textPageW n + 0x40000)))

/-- The reference count of the page of an LPA (R250). -/
def State.refs (s : State) (lpa : Nat) : Nat := Table.getD s.disp.refs (lpa / 2 ^ 18) 0

/-- A count changes (R250); one that met an uncorrectable error stays (R416). -/
def State.setRefs (s : State) (page n : Nat) : State :=
  s.modDisp (fun d =>
    { d with refs := if d.stuck.contains page then d.refs else if n == 0 then Table.erase d.refs page else Table.set d.refs page n })

/-- The page requests of a function that the host has not answered (R414). -/
def FnHost.asking (h : FnHost) : Nat := (h.pages.filter (fun p => match p.2 with | .pri _ => true | _ => false)).length

/-- A host leaf reached at a level (R272, R414): the page's translation is held, asked for, or refused; a page request beyond the host's
allocation waits. An access that the repeated translation still denies fails when the page request was for its own permission; otherwise a
page request of its own is made. -/
def State.hostLeaf (s : State) (fn addr level : Nat) (w : Bool) : Xl × State :=
  let h := s.fnHost fn
  let page := addr / 4096
  let put := fun (p : PageState) => s.modFnHost fn (fun x => { x with pages := Table.set x.pages page p })
  if !h.atsOn || !h.bme then (.fail 0x0A level, s)
  else match Table.get? h.pages page with
    | none => (.wait, put .ats)
    | some (.held r wr asked) =>
      if (if w then wr else r) then (.ok (keyH addr), if asked == some w then put (.held r wr none) else s)
      else if asked == some w then (.fail 0x0A (16 + level), put (.held r wr none))
      else if h.priStop then (.fail 0x0A (16 + level), s)
      else (.wait, if Nat.blt h.asking h.prAlloc then put (.pri w) else s)
    | some (.refused aux) => (.fail 0x0A (aux + level), s.modFnHost fn (fun x => { x with pages := Table.erase x.pages page }))
    | some _ => (.wait, s)

/-- The address that a leaf of a level maps a VA to (R267). -/
def leafAddr (pte level va : Nat) : Nat := fld pte 12 45 * 2 ^ 12 + va % 2 ^ (levelBits.getD level (0, 0)).1

/-- Translate one local VA on a die for a function (R269, R278, R279): the permission of the leaf, its residency, the reserved
area of a vault, the sharing of a page. -/
def State.xlate (s : State) (d fn va : Nat) (acc : Acc) : Xl × State :=
  if Nat.ble (2 ^ 56) va then (.fail 0x0A 0, s)
  else match s.leafOf d fn va with
    | (.bad l, s1) => (.fail 0x0A l, s1)
    | (.poison k, s1) => (.poison k, s1)
    | (.leaf pte l, s1) =>
      let perm := match acc with | .read => false | .write => !bit pte 60 | .fetch => !bit pte 59
      let addr := leafAddr pte l va
      if !bit pte 61 then (.absent (l + (if perm then 8 else 0) + 16), s1)
      else if perm then (.fail 0x0A (l + 8), s1)
      else match fld pte 62 2 with
        | 0 =>
          if acc == .write && Nat.blt 1 (s1.refs addr) then (.fail 0x0F 0, s1) else (.ok (keyL addr), s1)
        | 1 =>
          let wd := addr / 2 ^ 31 % 4
          let wa := addr % 2 ^ 31
          if Nat.ble 0x01F00000 (wa % 2 ^ 25) && !(acc != .write && Nat.blt (wa % 2 ^ 25) 0x01FC0000 && s1.ownText wd fn wa)
          then (.fail 0x1A 0, s1) else (.ok (keyW wd wa), s1)
        | _ => s1.hostLeaf fn addr l (acc == .write)

/-- The domain window (R18, R304): a local VA, a VA of this module named through the window, a VA on another module of the domain
(pod ID, VA there), or none. -/
inductive Dom
  | local (va : Nat)
  | home (va : Nat)
  | remote (pod va : Nat)
  | absent
  | bad
deriving DecidableEq, Repr

def State.domain (s : State) (va : Nat) : Dom :=
  if Nat.ble (2 ^ 57) va then .bad
  else if !bit va 56 then .local va
  else
    let e := (Table.getD s.fab.dom (fld va 50 6) 0).toNat
    if !bit e 63 then .absent
    else if fld e 0 12 == s.fab.modid then .home (va % 2 ^ 50)
    else .remote (fld e 0 12) (va % 2 ^ 50)

/-- A VA of this module named through the domain window, as its local VA (R18). -/
def State.localVA (s : State) (va : Nat) : Nat := match s.domain va with | .home v => v | _ => va

/-- An access that fails: its cause, the VA at which it failed, the address of R341 (the granule for cause 0x16), the AUX bits (of R269, or
the space of 0x16), whether the leaf was only not resident, and further bits of the status word of R344. -/
structure VaFault where
  cause : Nat
  va    : Nat
  addr  : Nat
  aux   : Nat
  nr    : Bool := false
  more  : Nat := 0
deriving DecidableEq, Repr

/-- What an access by VA comes to: its result, a wait for the host or for a channel (R221, R272), or a failure. -/
inductive Va (α : Type)
  | ok (a : α)
  | wait
  | bad (f : VaFault)
deriving DecidableEq, Repr

/-- The failure of an access that meets poison at a key. -/
def poisonFault (va key : Nat) : VaFault := { cause := 0x16, va := va, addr := granuleAddr key, aux := spaceOf key }

/-- The status word of R344 (bits of R269 and R392) for an access in VA space that failed. -/
def VaFault.status (f : VaFault) : Nat := (if f.cause == 0x16 then f.aux * 2 ^ 12 else f.aux) + f.more + 2 * 2 ^ 10

/-- The words of a kill under reason 4, 5 or 7: cause, no return word, the failing VA, the auxiliary bits of R341 (R348, R351). -/
def VaFault.words (f : VaFault) (addr : Nat) : Dword × Dword × Dword × Dword := (dw f.cause, 0, dw addr, dw f.aux)

/-- A translation as an access to one byte. -/
def Xl.va (va : Nat) : Xl → Va Nat
  | .ok k => .ok k
  | .fail c aux => .bad { cause := c, va := va, addr := va, aux := aux }
  | .absent aux => .bad { cause := 0x0A, va := va, addr := va, aux := aux, nr := true }
  | .poison k => .bad (poisonFault va k)
  | .wait => .wait

/-- Translate a VA that may lie in the domain window (R18, R304); a failure names the VA as it was issued. DEDUCED (log entry 11): only
engine accesses go to another module (R305), so any other access to one fails as one that has no translation here. -/
def State.reach (s : State) (d fn va : Nat) (acc : Acc) : Va Nat × State :=
  let here := fun (v : Nat) => let (x, s1) := s.xlate d fn v acc; (x.va va, s1)
  match s.domain va with
  | .local v => here v
  | .home v => here v
  | .remote _ _ => (.bad { cause := 0x0A, va := va, addr := va, aux := 0 }, s)
  | .absent => (.bad { cause := 0x14, va := va, addr := va, aux := 0 }, s)
  | .bad => (.bad { cause := 0x0A, va := va, addr := va, aux := 0 }, s)

/-- The keys of n consecutive VAs of a die's table. -/
def State.xlateRun (s : State) (d fn : Nat) (acc : Acc) : Nat → Nat → Va (List Nat) × State
  | _, 0 => (.ok [], s)
  | va, n + 1 =>
    match s.reach d fn va acc with
    | (.ok k, s1) =>
      (match State.xlateRun s1 d fn acc (va + 1) n with
      | (.ok ks, s2) => (.ok (k :: ks), s2)
      | (r, s2) => (r, s2))
    | (.wait, s1) => (.wait, s1)
    | (.bad f, s1) => (.bad f, s1)

/-- The words of n bytes, 8 bytes a word. -/
def dwords (bs : List Byte) : Nat → List Nat
  | 0 => []
  | n + 1 => ofBytes (bs.take 8) :: dwords (bs.drop 8) n

end Sys2Proof.Machine
end

