-- ==== Sys2Proof/Machine/Reach.lean ====
section
/-! DEFINITION. What an engine, a region fill or an MLDR member read gets from a list of keys: bytes, a poisoned unit, or a wait for
host read completions (R272, R392, R393, R414); the accesses by VA of the dispatcher, the loader and other modules. -/

namespace Sys2Proof.Machine

/-- Insert into a strictly rising list. -/
def insertUniq (n : Nat) : List Nat → List Nat
  | [] => [n]
  | x :: xs => if n == x then x :: xs else if Nat.blt n x then n :: x :: xs else x :: insertUniq n xs

/-- The numbers of a list, rising, each once. -/
def sortUniq : List Nat → List Nat
  | [] => []
  | x :: xs => insertUniq x (sortUniq xs)

/-- What a read gives: its bytes, a wait, or the cause, its AUX bits and the key it failed at. -/
inductive Got
  | ok (bs : List Byte)
  | wait
  | fail (cause aux key : Nat)
deriving DecidableEq, Repr

/-- The host lines (64 bytes) that keys lie in. -/
def hostLines (ks : List Nat) : List Nat :=
  sortUniq ((ks.filter (fun k => Nat.ble (2 ^ 64) k)).map (fun k => (k - 2 ^ 64) / 64 * 64))

/-- A host line of a function: not asked for, on its way, or its completion. -/
def State.hostLine (s : State) (fn line : Nat) : Option (Option (List Byte × Bool × Bool)) :=
  Table.get? (s.fnHost fn).reads line

/-- Ask for the lines that have not been asked for. -/
def State.askLines (s : State) (fn : Nat) : List Nat → State
  | [] => s
  | l :: ls =>
    let s1 := if (s.hostLine fn l).isSome then s else s.modFnHost fn (fun h => { h with reads := Table.set h.reads l none })
    State.askLines s1 fn ls

/-- Forget completions that have been used. -/
def State.dropLines (s : State) (fn : Nat) : List Nat → State
  | [] => s
  | l :: ls => State.dropLines (s.modFnHost fn (fun h => { h with reads := Table.erase h.reads l })) fn ls

/-- The byte of a host line that has completed. -/
def State.hostByte (s : State) (fn addr : Nat) : Byte :=
  match s.hostLine fn (addr / 64 * 64) with
  | some (some (bs, _, _)) => bs.getD (addr % 64) 0
  | _ => 0

/-- Read keys for a function: `rd` gives a byte of the module's memory, `bad` tells a poisoned one. -/
def State.gather (s : State) (fn : Nat) (rd : Nat → Byte) (bad : Nat → Bool) (ks : List Nat) : Got × State :=
  let ls := hostLines ks
  match (if s.poison.isEmpty then none else ks.find? bad) with
  | some k => (.fail 0x16 0 k, s)
  | none =>
    if ls.any (fun l => match s.hostLine fn l with | some (some _) => false | _ => true) then (.wait, s.askLines fn ls)
    else
      let s1 := s.dropLines fn ls
      match ls.find? (fun l => match s.hostLine fn l with | some (some (_, ok, p)) => !ok || p | _ => false) with
      | some l =>
        (match s.hostLine fn l with
        | some (some (_, ok, _)) => (if ok then .fail 0x16 0 (keyH l) else .fail 0x0A 0 (keyH l), s1)
        | _ => (.wait, s))
      | none => (.ok (ks.map (fun k => if Nat.ble (2 ^ 64) k then s.hostByte fn (k - 2 ^ 64) else rd k)), s1)

/-! ### Accesses by VA through a function's table of a die -/

/-- The VA of a key, or of a host line, among the keys of consecutive VAs from va up. -/
def vaOfKey (va : Nat) (ks : List Nat) (key : Nat) : Nat :=
  va + ks.findIdx (fun k => k == key || (Nat.ble (2 ^ 64) k && (k - 2 ^ 64) / 64 * 64 + 2 ^ 64 == key))

/-- Read n bytes at a VA (R221, R269, R272, R393). -/
def State.vaRead (s : State) (d fn va n : Nat) : Va (List Byte) × State :=
  match s.xlateRun d fn .read va n with
  | (.wait, s1) => (.wait, s1)
  | (.bad f, s1) => (.bad f, s1)
  | (.ok ks, s1) =>
    match s1.gather fn s1.byte s1.poisoned ks with
    | (.wait, s2) => (.wait, s2)
    | (.fail cause aux key, s2) =>
      let a := vaOfKey va ks key
      (.bad (if cause == 0x16 then poisonFault a key else { cause := cause, va := a, addr := a, aux := aux }), s2)
    | (.ok bs, s2) =>
      match s2.takeBursts false ks with
      | (true, s3) => (.ok bs, s3)
      | (false, s3) => (.wait, s3)

/-- Write bytes at a VA; nothing is written when a byte cannot be, and a poisoned unit that they do not cover stays (R392). -/
def State.vaWrite (s : State) (d fn va : Nat) (bs : List Byte) : Va Unit × State :=
  match s.xlateRun d fn .write va bs.length with
  | (.wait, s1) => (.wait, s1)
  | (.bad f, s1) => (.bad f, s1)
  | (.ok ks, s1) =>
    match s1.takeBursts true ks with
    | (false, s2) => (.wait, s2)
    | (true, s2) =>
      match s2.putCells (ks.zip bs) with
      | (s3, none) => (.ok (), s3)
      | (s3, some k) => (.bad (poisonFault (vaOfKey va ks k) k), s3)

/-- The failure of a fill for a store at a VA that is translated for a read (R273): a vault-kind or host-kind page without W. -/
def State.storeRefused (s : State) (d fn va : Nat) : Option VaFault × State :=
  match s.leafOf d fn (s.localVA va) with
  | (.leaf pte l, s1) =>
    (if fld pte 62 2 != 0 && !bit pte 60 then some { cause := 0x0A, va := va, addr := va, aux := l + 8 } else none, s1)
  | (_, s1) => (none, s1)

/-- Read n bytes at a VA through a function's die-0 table, as the dispatcher, the loader and another module do (R250, R271, R318). -/
def State.readVA (s : State) (fn va n : Nat) : Va (List Byte) × State := s.vaRead 0 fn va n

/-- Write bytes at a VA through a function's die-0 table. -/
def State.writeVA (s : State) (fn va : Nat) (bs : List Byte) : Va Unit × State := s.vaWrite 0 fn va bs

end Sys2Proof.Machine
end

