-- ==== Sys2Proof/Machine/Queue.lean ====
section
/-! DEFINITION. Operand queues and result queues (R23-R29, R33-R35, R146): windows, slots, reservation, pops, grafts, and the list
of what becomes due on a core. -/

namespace Sys2Proof.Machine

/-! ### What becomes due -/

/-- Insert by due cycle, then strand, after what is already there (R326: ascending strand order within a cycle). -/
def insertTodo (t : Todo) : List Todo → List Todo
  | [] => [t]
  | x :: xs =>
    if Nat.blt t.due x.due || (t.due == x.due && Nat.blt t.strand x.strand) then t :: x :: xs else x :: insertTodo t xs

/-- Something happens on core c in cycle `due`, at its start or (`late`) at its end. -/
def State.at_ (s : State) (c due : Nat) (late : Bool) (k : Nat) (i : Instr) : State :=
  s.modCore c (fun x => { x with todo := insertTodo { due := due, late := late, strand := k, act := i } x.todo })

/-- It cannot happen in this cycle: it happens in the next at the earliest. -/
def State.again (s : State) (c : Nat) (late : Bool) (k : Nat) (i : Instr) : State := s.at_ c ((s.core c).cyc + 1) late k i

/-! ### Windows -/

def Queue.cap (q : Queue) : Nat := 2 ^ q.logcap
def Queue.occ (q : Queue) : Nat := (q.tail + 2 * q.cap - q.head) % (2 * q.cap)
def Queue.index (q : Queue) (o : Nat) : Nat := (q.head + o) % q.cap
def Queue.slot (q : Queue) (i : Nat) : QSlot := Table.getD q.slots i {}
def Queue.setSlot (q : Queue) (i : Nat) (x : QSlot) : Queue := { q with slots := Table.set q.slots i x }
def Queue.size (q : Queue) : Nat := if q.wide then 256 else 8
def Queue.popN (q : Queue) (n : Nat) : Queue := { q with head := (q.head + n) % (2 * q.cap) }
def Queue.free (q : Queue) : Nat := q.cap - q.occ
/-- The bytes of an enabled queue's extent (R24): first offset and length. -/
def Queue.extent (q : Queue) : Nat × Nat := (q.base, q.cap * q.size)

def MQueue.occ (q : MQueue) : Nat := (q.tail + 128 - q.head) % 128
def MQueue.slot (q : MQueue) (i : Nat) : QSlot := Table.getD q.slots i {}

/-- A queue named by a selector 0-19 (R61), as the checks see it. -/
structure Win where
  en   : Bool
  wide : Bool
  cap  : Nat
  occ  : Nat
  head : Nat
  tail : Nat
deriving DecidableEq, Repr

def Core.win (x : Core) (k sel : Nat) : Win :=
  if sel < 16 then
    let q := (x.strand k).queue sel
    { en := q.en, wide := q.wide, cap := q.cap, occ := q.occ, head := q.head, tail := q.tail }
  else
    let m := x.mq (sel - 16)
    { en := true, wide := true, cap := 64, occ := m.occ, head := m.head, tail := m.tail }

/-- The slot at head offset o of a selector's queue. -/
def Core.winSlot (x : Core) (k sel o : Nat) : QSlot :=
  if sel < 16 then
    let q := (x.strand k).queue sel
    q.slot (q.index o)
  else
    let m := x.mq (sel - 16)
    m.slot ((m.head + o) % 64)

/-- Storage slot of head offset o (R25). -/
def Core.winIndex (x : Core) (k sel o : Nat) : Nat :=
  if sel < 16 then ((x.strand k).queue sel).index o else ((x.mq (sel - 16)).head + o) % 64

/-- The data of a storage slot. -/
def State.slotData (s : State) (c k sel i : Nat) : SlotBits :=
  if sel < 16 then
    let q := s.queue c k sel
    BitVec.ofNat 2048 (Memory.readNat s.mem (keyP c (q.base + i * q.size)) q.size)
  else Table.getD ((s.core c).mq (sel - 16)).data i 0

/-- Change the slot state of a storage slot. -/
def State.modSlot (s : State) (c k sel i : Nat) (f : QSlot → QSlot) : State :=
  if sel < 16 then s.modQueue c k sel (fun q => q.setSlot i (f (q.slot i)))
  else s.modMq c (sel - 16) (fun m => { m with slots := Table.set m.slots i (f (m.slot i)) })

/-- Write a slot's data, tag and presence (R28). -/
def State.fillSlot (s : State) (c k sel i tag : Nat) (v : SlotBits) : State :=
  let s1 := s.modSlot c k sel i (fun x => { x with present := true, tag := tag, orphan := false })
  if sel < 16 then
    let q := s.queue c k sel
    s1.putBytes (keyP c (q.base + i * q.size)) (bytesLE q.size v.toNat)
  else s1.modMq c (sel - 16) (fun m => { m with data := Table.set m.data i v })

/-- Reserve the slot at the tail, or take one credit of a grafted queue (R27, R34): the storage slot and whether it is a graft. -/
def State.reserve (s : State) (c k sel : Nat) : Nat × Bool × State :=
  if sel < 16 then
    let q := s.queue c k sel
    if q.gsrc then (0, true, s.setQueue c k sel { q with gcred := q.gcred - 1 })
    else
      let i := q.tail % q.cap
      let q1 := q.setSlot i { q.slot i with present := false, orphan := false }
      (i, false, s.setQueue c k sel { q1 with tail := (q.tail + 1) % (2 * q.cap) })
  else
    let m := (s.core c).mq (sel - 16)
    let i := m.tail % 64
    (i, false, s.modMq c (sel - 16) (fun m =>
      { m with tail := (m.tail + 1) % 128, slots := Table.set m.slots i { m.slot i with present := false, orphan := false } }))

/-- Take up one read-hold on a storage slot, to be released in cycle `due` (R29). -/
def State.hold (s : State) (c k sel i due : Nat) : State :=
  let (id, s1) := s.fresh
  let s2 := s1.modSlot c k sel i (fun x => { x with holds := x.holds + 1 })
  (s2.modFlight c (fun f => { f with holds := Table.set f.holds id { strand := k, q := sel, idx := i } })).at_ c due false k
    (.readHoldRelease c id)

/-! ### Appends -/

/-- Reserve a slot and note the result to come: its number (R28). -/
def State.reservePend (s : State) (c k sel tag : Nat) (v : SlotBits) (fin : LoadFin) : Nat × State :=
  let (i, g, s1) := s.reserve c k sel
  let (id, s2) := s1.fresh
  (id, s2.modFlight c (fun f =>
    { f with pends := Table.set f.pends id { strand := k, q := sel, idx := i, graft := g, tag := tag, val := v, fin := fin } }))

/-- Append a result with latency lat: reserved now, present in cycle c + lat (R28). -/
def State.appendAt (s : State) (c k sel tag : Nat) (v : SlotBits) (lat : Nat) : State :=
  let (id, s1) := s.reservePend c k sel tag v .whole
  s1.at_ c ((s1.core c).cyc + lat) false k (.slotWrite c id)

/-- The slots a syllable with dst 31 appends to nothing (R64). -/
def State.appendTo (s : State) (dst tag : Nat) (v : SlotBits) (lat : Nat) : State :=
  if dst == 31 then s else s.appendAt s.bundle.core s.bundle.strand dst tag v lat

/-! ### Grafts -/

/-- The unloaded time of a grafted result or a credit (R35), in cycles of the slower of the two cores (R325). -/
def graftTime (c d : Nat) : Nat := if c == d then 2 else if dieOf c == dieOf d then 6 + 2 * hops c (vaultOf d) else 150

/-- A strand of a task, resident or saved, as a source queue names its target while the target is not resident (R38): above every
core number. -/
def awayCode (fn id pos : Nat) : Nat := 256 + (fn * 2 ^ 32 + id) * 64 + pos
def Place.away (p : Place) : Nat := awayCode p.fn (p.gen * 2 ^ 18 + p.task) p.pos

/-- Send a grafted result to its target (R34, R35). -/
def State.sendGraft (s : State) (c : Nat) (q : Queue) (tag : Nat) (v : SlotBits) : State :=
  let (id, s1) := s.fresh
  (s1.modFlight q.gcore (fun f =>
    { f with grafts := Table.set f.grafts id { strand := q.gstr, q := q.gq, tag := tag, val := v } })).at_ q.gcore
    ((s1.core q.gcore).cyc + s.slower q.gcore c (graftTime c q.gcore)) false q.gstr (.graftArrival q.gcore id)

/-- Send the results of a grafted source queue that are written and that no unwritten result of the queue precedes
(R34); none while the target is not resident (R38). Those of a broken graft are dropped (R361). -/
def State.drainGraft (s : State) (c k sel : Nat) : List (Nat × Pend) → State
  | [] => s
  | (id, p) :: ps =>
    let q := s.queue c k sel
    if Nat.ble 256 q.gcore && !q.broken then s
    else if p.strand == k && p.q == sel && p.graft then
      if p.ready then
        let s1 := s.modFlight c (fun f => { f with pends := Table.erase f.pends id })
        State.drainGraft (if q.broken then s1 else s1.sendGraft c q p.tag p.val) c k sel ps
      else s
    else State.drainGraft s c k sel ps

/-- The source queue that is grafted to queue q of strand k of core c (R33): core, strand, queue. -/
def State.graftSource (s : State) (c k q : Nat) : Option (Nat × Nat × Nat) :=
  s.cores.findSome? (fun x => x.2.strands.findSome? (fun t => t.2.queues.findSome? (fun d =>
    if d.2.gsrc && !d.2.broken && d.2.gcore == c && d.2.gstr == k && d.2.gq == q then some (x.1, t.1, d.1) else none)))

/-- A credit for a source that is saved: it counts in what its restore gives back (R38). -/
def keepCredit (code q : Nat) (p : Nat × Task) : Nat × Task :=
  (p.1, { p.2 with grafts := p.2.grafts.map (fun g => if g.2.2.1 == code && g.2.2.2.1 == q then (g.1, g.2.1, g.2.2.1, g.2.2.2.1, g.2.2.2.2 + 1) else g) })

/-- Return one credit to the source of a target queue (R34, R35). -/
def State.sendCredit (s : State) (c k q : Nat) : State :=
  match s.graftSource c k q with
  | some (sc, sk, sq) =>
    let (id, s1) := s.fresh
    (s1.modFlight sc (fun f => { f with credits := Table.set f.credits id { strand := sk, q := sq } })).at_ sc
      ((s1.core sc).cyc + s.slower sc c (graftTime c sc)) false sk (.graftCreditReturn sc id)
  | none => s.modDisp (fun d => { d with tasks := d.tasks.map (keepCredit (s.strand c k).place.away q) })

def State.sendCredits (s : State) (c k q : Nat) : Nat → State
  | 0 => s
  | n + 1 => State.sendCredits (s.sendCredit c k q) c k q n

/-- Pop n slots of a selector's queue (R27); a target queue returns a credit for each (R34). -/
def State.pop (s : State) (c k sel n : Nat) : State :=
  if sel < 16 then
    let q := s.queue c k sel
    let s1 := s.setQueue c k sel (q.popN n)
    if q.gtgt then s1.sendCredits c k sel n else s1
  else s.modMq c (sel - 16) (fun m => { m with head := (m.head + n) % 128 })

/-- Append a slot that is already present at a queue's tail, as a grafted arrival is (R34). -/
def State.arrive (s : State) (c k q tag : Nat) (v : SlotBits) : State :=
  let d := s.queue c k q
  let i := d.tail % d.cap
  (s.setQueue c k q { d with tail := (d.tail + 1) % (2 * d.cap) }).fillSlot c k q i tag v

/-- A reserved slot that will never be written (R358). -/
def State.orphan (s : State) (c id : Nat) : State :=
  match Table.get? (s.core c).flight.pends id with
  | some p =>
    let s1 := s.modFlight c (fun f => { f with pends := Table.erase f.pends id })
    if p.graft then State.drainGraft s1 c p.strand p.q (s1.core c).flight.pends
    else s1.modSlot c p.strand p.q p.idx (fun x => { x with orphan := true })
  | none => s

def State.orphans (s : State) (c : Nat) : List Nat → State
  | [] => s
  | id :: ids => State.orphans (s.orphan c id) c ids

end Sys2Proof.Machine
end

