-- ==== Sys2Proof/Machine/Shapes.lean ====
section
/-! DEFINITION. Which fields each syllable uses, of which operand class, with which literals and which mod bits (R60-R65, R69-R76,
R87-R89, R117, R125, R126, R150, R164, R174, R197). -/

namespace Sys2Proof.Machine

/-- How a syllable uses a source field. `any` takes either width class, `run` is the A run of MMA (R147), `knots` the knot
list of an E syllable (R65). -/
inductive SrcUse
  | none | scalar | vector | any | litOnly | run | drop | qwait | knots
deriving DecidableEq, Repr

/-- Whether a literal or zero source may stand there; `shared` refuses it when the other shared-tag source is one too (R63). -/
inductive LitUse
  | yes | no | shared
deriving DecidableEq, Repr

/-- How a syllable uses dst; `byB` has the width class of B (R185). -/
inductive DstUse
  | none | scalar | vector | any | byB
deriving DecidableEq, Repr

/-- The field uses of a syllable. -/
structure Shape where
  dst : DstUse
  a   : SrcUse
  la  : LitUse := .yes
  b   : SrcUse := .none
  lb  : LitUse := .yes
  c   : SrcUse := .none
  lc  : LitUse := .yes
deriving DecidableEq, Repr

def Shape.nil : Shape := { dst := .none, a := .none }
def Shape.dAB : Shape := { dst := .scalar, a := .scalar, b := .scalar }
def Shape.vAB : Shape := { dst := .vector, a := .vector, b := .vector }
def Shape.vABC : Shape := { dst := .vector, a := .vector, b := .vector, c := .vector }
def Shape.vA : Shape := { dst := .vector, a := .vector }
def Shape.vA' : Shape := { dst := .vector, a := .vector, la := .no }
def Shape.sA' : Shape := { dst := .scalar, a := .vector, la := .no }
def Shape.eAB : Shape := { dst := .none, a := .scalar, b := .scalar, c := .knots }
def Shape.xAB : Shape := { dst := .none, a := .scalar, b := .scalar }
def Shape.xA : Shape := { dst := .none, a := .scalar }

/-- The field uses of each syllable. -/
def shape : Instr → Option Shape
  | .nop _ | .br _ | .brc _ | .lend _ | .ktest _ | .trap _ | .eret _ | .phase _ | .trig _ | .endStrand _ | .loopTask _ => some .nil
  | .add _ _ | .sub _ _ | .mul _ _ | .mulhs _ _ | .mulhu _ _ | .div _ _ | .divu _ _ | .rem _ _ | .remu _ _ | .shl _ _ | .shr _ _
  | .sar _ _ | .and _ | .or _ | .xor _ | .andn _ | .min _ | .max _ | .minu _ | .maxu _ | .sel _ => some .dAB
  | .clz _ | .popc _ | .sext _ | .zext _ | .dup _ => some { dst := .scalar, a := .scalar }
  | .li _ => some { dst := .scalar, a := .litOnly }
  | .movq _ => some { dst := .scalar, a := .scalar, la := .no }
  | .drop _ => some { dst := .none, a := .drop, la := .no }
  | .qlen _ | .call _ | .srd _ => some { dst := .scalar, a := .none }
  | .cmp _ _ => some .xAB
  | .ptg _ | .ret _ | .loop _ | .loopSp _ | .loopSw _ | .kwait _ | .swr _ => some .xA
  | .vany _ | .vall _ => some { dst := .none, a := .any }
  | .qwait _ => some { dst := .none, a := .qwait, la := .no, b := .scalar }
  | .ldp _ | .ldw _ => some .dAB
  | .stp _ | .stw _ => some { dst := .none, a := .scalar, b := .scalar, c := .scalar }
  | .ldpv _ | .ldwv _ => some { dst := .vector, a := .scalar, b := .scalar }
  | .stpv _ | .stwv _ => some { dst := .none, a := .scalar, b := .scalar, c := .vector, lc := .no }
  | .ldps _ => some { dst := .vector, a := .scalar, b := .scalar, c := .scalar }
  | .ldwg _ => some { dst := .vector, a := .scalar, b := .vector }
  | .stwx _ => some { dst := .none, a := .scalar, b := .vector, c := .vector, lc := .no }
  | .fadd _ _ | .fsub _ _ | .fmul _ _ | .fmin _ _ | .fmax _ _ | .fdiv _ _ | .fcmp _ _ => some .vAB
  | .ffma _ _ | .ffms _ _ | .fnma _ _ | .imad _ _ | .vsel _ => some .vABC
  | .fabs _ _ | .fneg _ _ | .fsqrt _ _ | .frcp _ _ | .frsq _ _ | .fexp2 _ _ | .flog2 _ _ | .fclass _ _ | .mnot _ => some .vA
  | .iadd _ _ | .isub _ _ | .imul _ _ | .imulh _ _ | .iand _ _ | .ior _ _ | .ixor _ _ | .ishl _ _ | .ishr _ _ | .isar _ _
  | .imin _ _ | .imax _ _ | .icmp _ _ | .mand _ | .mor _ => some .vAB
  | .cvt _ | .cvtn _ | .unpack _ | .vscan _ => some .vA'
  | .pack _ | .vshuf _ => some { dst := .vector, a := .vector, la := .shared, b := .vector, lb := .shared }
  | .vbcast _ => some { dst := .vector, a := .any }
  | .vperm _ => some { dst := .vector, a := .vector, la := .no, b := .vector }
  | .vrot _ => some { dst := .vector, a := .vector, la := .no, b := .scalar }
  | .vext _ => some { dst := .scalar, a := .vector, la := .no, b := .scalar }
  | .vins _ => some { dst := .vector, a := .vector, la := .no, b := .scalar, c := .scalar }
  | .vrsum _ | .vrmax _ | .vrmin _ => some .sA'
  | .mpopc _ => some { dst := .scalar, a := .vector }
  | .mma _ _ _ | .mmaz _ _ _ => some { dst := .none, a := .run, la := .no, b := .scalar }
  | .mzero _ _ | .mdrain _ _ => some .nil
  | .maccl _ _ | .maccs _ _ | .mfmt _ _ => some .xA
  | .copy _ | .copyf _ | .skupd _ | .skadd _ | .skscale _ | .pump _ | .psplit _ | .mapr _ | .mapreq _ | .coll _ => some .eAB
  | .cpq _ => some { dst := .any, a := .scalar, b := .scalar, c := .knots }
  | .scata _ => some { dst := .none, a := .vector, la := .no, b := .vector, lb := .no, c := .knots }
  | .skqry _ => some { dst := .byB, a := .scalar, b := .any, c := .knots }
  | .skclr _ => some { dst := .none, a := .scalar, c := .knots }
  | .kjoin _ => some { dst := .none, a := .none, c := .knots }
  | .mldr _ => some { dst := .vector, a := .scalar, b := .scalar, c := .knots }
  | .stcfg _ | .qdesc _ | .tprio _ | .agset _ => some .xAB
  | .strun _ => some { dst := .none, a := .scalar, b := .scalar, c := .scalar }
  | .ststop _ | .qungraft _ => some .nil
  | .qgraft _ | .fdset _ | .traceOn _ | .traceOff _ | .traceMark _ | .traceArm _ => some .xA
  | .tspawn _ | .tfork _ => some .dAB
  | .tcancel _ => some { dst := .scalar, a := .scalar }
  | _ => none

/-- A tag of R50 that is not reserved. -/
def tagOk (t : Nat) : Bool := Nat.ble t 0x0E || (Nat.ble 0x10 t && Nat.ble t 0x1F)

/-- A destination tag of CVT (R126). -/
def dtagOk (t : Nat) : Bool := (Nat.ble 1 t && Nat.ble t 0x0C) || t == 0x0E

/-- A tag that LDPS and LDWG accept (R117). -/
def laneTagOk (t : Nat) : Bool := (Nat.ble 1 t && Nat.ble t 0x0C) || t == 0x0E

/-- A system register number that R111 and R355 list. -/
def sregOk (n : Nat) : Bool :=
  (Nat.ble 1 n && Nat.ble n 0x0A) || (Nat.ble 0x0C n && Nat.ble n 0x0E) || n == 0x10 || n == 0x11
    || (Nat.ble 0x18 n && Nat.ble n 0x1B) || (Nat.ble 0x20 n && Nat.ble n 0x23) || (Nat.ble 0x40 n && Nat.ble n 0x43)
    || (Nat.ble 0x48 n && Nat.ble n 0x4B)

/-- No bit of m lies outside the mask. -/
def within (m mask : Nat) : Bool := (upto 10).all (fun i => !bit m i || bit mask i)

/-- The mod bits an instruction defines, and its reserved variant values (R60, R88, R117, R126, R150, R174, R197, R353). -/
def modOk : Instr → Nat → Bool
  | .add _ _, m | .sub _ _, m | .mul _ _, m => within m 0b100
  | .sext _, m | .zext _, m => within m 0b11000 && fld m 3 2 != 3
  | .vany _, m | .vall _, m => within m 0b11111000
  | .dup _, m | .qlen _, m => within m 0b11111000
  | .cmp _ _, m | .sel _, m => within m 0b11100000
  | .ptg _, m => within m 0b1100001000
  | .br _, m | .call _, m | .lend _, m => within m 0b1100000000
  | .brc _, m => within m 0b1111110000
  | .loop _, m => within m 0b1100011100 && fld m 3 2 == 0
  | .loopSp _, m => fld m 3 2 == 1 && within m 0b1111111100
  | .loopSw _, m => fld m 3 2 == 2 && within m 0b1111111100
  | .loopTask _, m => fld m 3 2 == 3 && within m 0b1111111100
  | .ktest _, m => within m 0b11101111
  | .kwait _, m => within m 0b1111
  | .trap _, m => within m 0xFF
  | .srd _, m | .swr _, m => sregOk m
  | .ldp _, m | .ldw _, m | .ldpv _, m | .ldwv _, m => within m 0b111111 && tagOk (fld m 0 6)
  | .ldps _, m | .ldwg _, m => within m 0b111111 && laneTagOk (fld m 0 6)
  | .fadd _ _, m | .fsub _ _, m | .fmul _ _, m | .ffma _ _, m | .ffms _ _, m | .fnma _ _, m | .fdiv _ _, m | .fsqrt _ _, m
  | .frcp _ _, m | .frsq _ _, m | .fexp2 _ _, m | .flog2 _ _, m => within m 0b11
  | .fcmp _ _, m => within m 0b1111000 && Nat.blt (fld m 3 4) 8
  | .iadd _ _, m | .isub _ _, m | .imul _ _, m | .imad _ _, m => within m 0b100
  | .icmp _ _, m => within m 0b1111000 && Nat.blt (fld m 3 4) 6
  | .cvt _, m => within m 0b111111111 && dtagOk (fld m 3 6)
  | .cvtn _, m => within m 0b1111011
  | .pack _, m => within m 0b11000
  | .unpack _, m => within m 0b1000
  | .vbcast _, m => within m 0b1111111110
  | .vshuf _, m => within m 0b11000
  | .vrsum _, m | .vrmax _, m | .vrmin _, m => within m 0b111
  | .vscan _, m => within m 0b11111 && fld m 3 2 != 3
  | .mma _ _ _, m | .mmaz _ _ _, m => within m 0b1111111
  | .mzero _ _, m | .maccl _ _, m => within m 0b1111100
  | .mdrain _ _, m => within m 0b11111100
  | .maccs _ _, m | .mfmt _ _, m => within m 0b111100
  | .copyf _, m => within m 0b11111111
  | .scata _, m => fld m 6 2 != 3
  | .mldr _, _ => true
  | .copy _, m | .cpq _, m | .skupd _, m | .skqry _, m | .skadd _, m | .skscale _, m | .skclr _, m | .pump _, m | .psplit _, m
  | .mapr _, m | .mapreq _, m | .kjoin _, m | .coll _, m => within m 0b111111
  | .stcfg _, m => within m 1
  | .strun _, m | .qdesc _, m | .qgraft _, m | .qungraft _, m | .fdset _, m => within m 0b1111
  | .traceOn _, m => m == 0
  | .traceOff _, m => m == 1
  | .traceMark _, m => m == 2
  | .traceArm _, m => m == 3
  | _, m => m == 0

end Sys2Proof.Machine
end

