-- ==== Sys2Proof/WellFormed.lean ====
section
/-! DEFINITION. What an encoding must satisfy whatever the state (R59-R65, R353): a syllable that breaks it faults at step 1 or 2
of R67 every time it becomes the next bundle. -/

namespace Sys2Proof
open Machine

/-- dst is a queue or 31 where the instruction uses it, and 31 where it does not (R60, R64). -/
def dstWf (u : DstUse) (d : BitVec 5) : Bool :=
  match u with
  | .none => d == 31
  | _ => Nat.blt d.toNat 16 || d == 31

def Src.isZero (s : Src) : Bool := s.qsel == 31
def Src.isLit (s : Src) : Bool := s.qsel == 30 || s.qsel == 31
def Src.isQ (s : Src) : Bool := Nat.blt s.qsel.toNat 16
def Src.isMq (s : Src) : Bool := Nat.ble 16 s.qsel.toNat && Nat.blt s.qsel.toNat 20

/-- The slots whose syllables may name result queues (R61). -/
def Slot.mqOk : Slot → Bool
  | .v => true | .w => true | .x => true | _ => false

/-- A selector value that R61 and R62 allow in a bundle of n syllables. -/
def srcSelWf (sl : Slot) (n : Nat) (s : Src) : Bool :=
  if s.isQ then true
  else if s.isMq then sl.mqOk
  else if s.qsel == 30 then Nat.ble s.pop.toNat 1 && Nat.ble (2 * n + 1) s.off.toNat && Nat.ble (s.off.toNat + s.pop.toNat) 15
  else s.qsel == 31 && s.off == 0 && s.pop == 0

/-- A knot list of R65: entries beyond the count are zero, bit 12 is zero. -/
def knotsWf (count raw : Nat) : Bool :=
  !bit raw 12 && (upto 3).all (fun i => Nat.blt i count || fld raw (4 * i) 4 == 0)

/-- A source field by its use (R60-R65, R93, R106, R367); `other` tells that the source it shares a tag with is a literal. -/
def srcWf (u : SrcUse) (l : LitUse) (other : Bool) (sl : Slot) (n count : Nat) (s : Src) : Bool :=
  match u with
  | .none => s == Src.unused
  | .knots => knotsWf count s.toNat
  | .litOnly => s.isLit && srcSelWf sl n s
  | .drop => s.isQ && s.off == 0 && s.pop != 0
  | .qwait => s.isQ && s.pop == 0
  | .run => s.isQ
  | _ =>
    srcSelWf sl n s && (!s.isLit || match l with
      | .yes => true
      | .no => false
      | .shared => !other)

/-- The knots a syllable consumes: mod[5:4] in the E slot (R65). -/
def knotCount (f : Fields) : Nat := f.m 4 2

/-- A syllable with legal fields in a bundle of n syllables (R60-R65). MMA with POPA pops its run itself (R150). -/
def sylWf (i : Instr) (sl : Slot) (n : Nat) (f : Fields) (sh : Shape) : Bool :=
  modOk i f.mod.toNat && dstWf sh.dst f.dst
    && srcWf sh.a sh.la f.b.isLit sl n (knotCount f) f.a && srcWf sh.b sh.lb f.a.isLit sl n (knotCount f) f.b
    && srcWf sh.c sh.lc false sl n (knotCount f) f.c
    && (sh.a != .run || !bit f.mod.toNat 6 || (f.a.off == 0 && f.a.pop == 0))

/-- Pump words whose unused fields are zero and whose routes are not reserved (R210, R211, R379). -/
def pumpWf : Instr → Bool
  | .act _ w => w.rt == 0 && w.dofs == 0 && Nat.blt w.col.toNat 32
  | .rd _ w => w.rt != 3
  | .wr _ w => Nat.blt w.rt.toNat 2
  | .pre _ w | .refpb _ w => w.rt == 0 && w.dofs == 0 && w.col == 0 && w.slot == 0
  | .prea _ w | .refab _ w | .ksig _ w | .pend _ w => w.rt == 0 && w.dofs == 0 && w.col == 0 && w.slot == 0 && w.bank == 0
  | .slots _ w =>
    w.rt == 0 && w.slot == 0 && w.bank == 0 && Nat.blt w.dofs.toNat 1024 && (w.dofs != 0 || w.col != 0)
  | _ => true

/-- A well-formed instruction: a syllable that can stand alone in a bundle, or a well-formed pump word. A row with no encoding
is well formed. -/
def Instr.wf (i : Instr) : Bool :=
  match i.opcode, i.fields, shape i with
  | some (sl, _), some f, some sh => sylWf i sl 1 f sh
  | _, _, _ => pumpWf i

end Sys2Proof
end

