-- ==== Sys2Proof/Machine/Operands.lean ====
section
/-! DEFINITION. Operands: the tags of R50 and how values lie in slots (R48, R51), literals (R62, R63), the tags each instruction
accepts (R89, R116-R122, R125-R143, R147-R149, R175, R181, R185, R197), and the conversions of R52. -/

namespace Sys2Proof.Machine

/-! ### Tags -/

def tRaw (t : Nat) : Bool := t == 0
def tMask (t : Nat) : Bool := t == 0x0D
def tInt (t : Nat) : Bool := Nat.ble 1 t && Nat.ble t 8
/-- Group I of R89. -/
def tI (t : Nat) : Bool := tInt t || t == 0x0E
/-- Group B of R89. -/
def tB (t : Nat) : Bool := tInt t || t == 0 || t == 0x0D
/-- The address operands of R116, the scalar operands of R148, R175, R197. -/
def tAddr (t : Nat) : Bool := tI t || t == 0
def tIeee (t : Nat) : Bool := Nat.ble 9 t && Nat.ble t 0x0C
def tNarrow (t : Nat) : Bool := Nat.ble 0x10 t && Nat.ble t 0x1F
def tSigned (t : Nat) : Bool := (Nat.ble 1 t && Nat.ble t 4) || t == 0x0E

/-- The IEEE format of tags 0x09-0x0C. -/
def ieeeOf (t : Nat) : IEEE := if t == 9 then fp16 else if t == 0x0A then bf16 else if t == 0x0B then fp32 else fp64

def fmtTag : FFmt → Nat
  | .f32 => 0x0B | .f64 => 0x0C | .f16 => 9 | .bf16 => 0x0A

def ityBits : ITy → Nat
  | .i8 | .ui8 => 8 | .i16 | .ui16 => 16 | .i32 | .ui32 => 32 | .i64 | .ui64 => 64

def itySigned : ITy → Bool
  | .i8 | .i16 | .i32 | .i64 => true | _ => false

def ityTag (t : ITy) : Nat := t.code + 1

/-- The bits of an element of an integer tag or CTR32. -/
def intBits (t : Nat) : Nat := if t == 0x0E then 32 else 8 * 2 ^ ((t - 1) % 4)

/-- The lane width of a tag in bits, with RAW as one-byte lanes (R50, R48, R134); `cont8` is the CONT bit of the fd a narrow
tag names. -/
def tagLane (cont8 : Bool) (t : Nat) : Nat :=
  if tI t then intBits t
  else if tIeee t then (ieeeOf t).width
  else if t == 0x0D then 64
  else if tNarrow t then (if cont8 then 8 else 4)
  else 8

/-- The bytes of one element in memory (R118). -/
def tagBytes (t : Nat) : Nat := if tNarrow t then 1 else if tI t || tIeee t then tagLane true t / 8 else 8

/-- The lane width of a tag for a strand (R49). -/
def Strand.laneBits (x : Strand) (t : Nat) : Nat := tagLane (bit (x.fd (t - 0x10)) 13) t

/-- An element of a tag as it lies in a scalar slot (R51, R48). -/
def extendElem (cont8 : Bool) (t v : Nat) : Nat :=
  if tSigned t then sx (intBits t) v
  else if tI t || tIeee t then zx (tagLane true t) v
  else if tNarrow t then zx (if cont8 then 8 else 4) v
  else zx 64 v

/-- A value as it lies in a slot of a queue under a tag (R48, R51): an element of a scalar slot extended, a mask of a vector slot in bytes
0 to 7 with the rest zero. -/
def slotLayout (wide cont8 : Bool) (tag v : Nat) : SlotBits :=
  BitVec.ofNat 2048 (if wide then (if tMask tag then zx 64 v else v) else extendElem cont8 tag v)

/-! ### Lanes -/

/-- The w-bit lanes of a slot, lane 0 first (R51, R48). -/
def lanes (w v : Nat) : List Nat := (upto (2048 / w)).map (fun i => fld v (w * i) w)

/-- The slot with the given w-bit lanes. -/
def ofLanes (w : Nat) : List Nat → Nat
  | [] => 0
  | x :: xs => x % 2 ^ w + 2 ^ w * ofLanes w xs

/-- A source as an effect reads it: its tag and bits, or a literal's 64-bit value. -/
structure Opd where
  lit : Bool
  tag : Nat
  val : Nat
deriving DecidableEq, Repr

def Opd.u (o : Opd) : Nat := o.val % 2 ^ 64
def Opd.s (o : Opd) : Int := sval 64 o.val

/-- The w-bit lanes of a vector operand; a literal stands in every lane (R63). -/
def Opd.lanes (o : Opd) (w : Nat) : List Nat :=
  if o.lit then List.replicate (2048 / w) (o.val % 2 ^ w) else Machine.lanes w o.val

/-- The 64-bit value of a literal or zero source (R62). -/
def litValue (words : List Word) (x : Src) : Nat :=
  let w := fun (i : Nat) => (words.getD i 0).toNat
  if x.qsel == 31 then 0
  else if x.pop == 0 then sx 32 (w x.off.toNat)
  else w x.off.toNat + 2 ^ 32 * w (x.off.toNat + 1)

/-- Read the slot at a head offset of a queue (R27). -/
def State.readAt (s : State) (c k sel o : Nat) : Opd :=
  let i := (s.core c).winIndex k sel o
  { lit := false, tag := ((s.core c).winSlot k sel o).tag, val := (s.slotData c k sel i).toNat }

/-- Read a source for a strand. -/
def State.opdAt (s : State) (c k : Nat) (words : List Word) (x : Src) : Opd :=
  if x.isLit then { lit := true, tag := 0, val := litValue words x } else s.readAt c k x.qsel.toNat x.off.toNat

/-- Read a source of the bundle in progress. -/
def State.opd (s : State) (x : Src) : Opd := s.opdAt s.bundle.core s.bundle.strand s.bundle.words x

/-- The strand whose bundle is in progress. -/
def State.me (s : State) : Strand := s.strand s.bundle.core s.bundle.strand

/-! ### Runs of MMA (R147) -/

/-- k, the A slots of a run, the bytes of a B slice, and the bits of an element (R147). -/
def mfK : MFmt → Nat
  | .bf16 | .f16 => 32 | .f32 => 8 | .f64 => 2 | .n8 => 64 | .n4 => 128
def mfNa : MFmt → Nat
  | .bf16 | .f16 | .n8 | .n4 => 8 | .f32 => 4 | .f64 => 2
def mfSlice : MFmt → Nat
  | .bf16 | .f16 | .n8 | .n4 => 64 | .f32 => 32 | .f64 => 16
def mfBits : MFmt → Nat
  | .bf16 | .f16 => 16 | .f32 => 32 | .f64 => 64 | .n8 => 8 | .n4 => 4
def mfTag? : MFmt → Option Nat
  | .bf16 => some 0x0A | .f16 => some 9 | .f32 => some 0x0B | .f64 => some 0x0C | _ => none

def runLength : Instr → Nat
  | .mma _ t _ => mfNa t
  | .mmaz _ t _ => mfNa t
  | _ => 1

/-! ### Accepted tags -/

/-- The tags an integer vector operand of type ty accepts (R135). -/
def tVec (t : ITy) (raw : Bool) (tag : Nat) : Bool :=
  (tInt tag && intBits tag == ityBits t) || (ityBits t == 32 && tag == 0x0E) || (raw && tag == 0)

/-- The tags of the reductions (R142). -/
def tRed (t : Nat) : Bool := tIeee t || tI t

/-- The tags of PACK and UNPACK (R138). -/
def tPack (t : Nat) : Bool := [2, 3, 4, 6, 7, 8, 0x0B, 0x0C].contains t
def tUnpack (t : Nat) : Bool := [1, 2, 3, 5, 6, 7, 9, 0x0A, 0x0B].contains t

/-- Whether an instruction accepts a tag at its A source; `four` tells a 4-bit narrow tag. -/
def accA (i : Instr) (four : Bool) (t : Nat) : Bool :=
  match i with
  | .add _ _ | .sub _ _ | .mul _ _ | .mulhs _ _ | .mulhu _ _ | .div _ _ | .divu _ _ | .rem _ _ | .remu _ _
  | .min _ | .max _ | .minu _ | .maxu _ | .ptg _ | .ret _ | .loop _ | .loopSp _ | .loopSw _ | .kwait _ => tI t
  | .shl _ _ | .shr _ _ | .sar _ _ | .and _ | .or _ | .xor _ | .andn _ | .clz _ | .popc _ | .cmp _ _ => tB t
  | .sext _ | .zext _ => tI t || tRaw t
  | .swr _ => tI t || tRaw t || tMask t
  | .vany _ | .vall _ | .mand _ | .mor _ | .mnot _ | .mpopc _ => tMask t
  | .ldp _ | .ldw _ | .stp _ | .stw _ | .ldpv _ | .ldwv _ | .stpv _ | .stwv _ | .ldps _ | .ldwg _ | .stwx _
  | .maccl _ _ | .maccs _ _ | .mfmt _ _ | .copy _ | .copyf _ | .cpq _ | .skupd _ | .skqry _ | .skadd _ | .skscale _
  | .skclr _ | .pump _ | .psplit _ | .mapr _ | .mapreq _ | .mldr _ | .coll _ | .stcfg _ | .strun _ | .qdesc _
  | .qgraft _ | .fdset _ | .tspawn _ | .tfork _ | .tcancel _ | .tprio _ | .agset _ | .traceOn _ | .traceOff _
  | .traceMark _ | .traceArm _ => tAddr t
  | .fadd f _ | .fsub f _ | .fmul f _ | .ffma f _ | .ffms f _ | .fnma f _ | .fmin f _ | .fmax f _ | .fabs f _ | .fneg f _
  | .fdiv f _ | .fsqrt f _ | .frcp f _ | .frsq f _ | .fexp2 f _ | .flog2 f _ | .fcmp f _ | .fclass f _ => t == fmtTag f
  | .iadd y _ | .isub y _ | .imul y _ | .imulh y _ | .imad y _ | .ishl y _ | .ishr y _ | .isar y _ | .imin y _ | .imax y _
  | .icmp y _ => tVec y false t
  | .iand y _ | .ior y _ | .ixor y _ => tVec y true t
  | .cvt _ | .cvtn _ => tIeee t || tI t || tNarrow t
  | .pack _ => tPack t
  | .unpack _ => tUnpack t
  | .vsel _ | .vshuf _ | .vrot _ | .vext _ | .vins _ => !tMask t
  | .vperm _ => !tMask t && !four
  | .vrsum _ | .vrmax _ | .vrmin _ | .vscan _ => tRed t
  | .scata _ => t == 3 || t == 7
  | _ => true

/-- Whether an instruction accepts a tag at its B source, given its A source; `wa` is A's lane width, `vec` tells a vector B. -/
def accB (i : Instr) (a : Opd) (wa : Nat) (vec : Bool) (t : Nat) : Bool :=
  match i with
  | .add _ _ | .sub _ _ | .mul _ _ | .mulhs _ _ | .mulhu _ _ | .div _ _ | .divu _ _ | .rem _ _ | .remu _ _
  | .min _ | .max _ | .minu _ | .maxu _ | .shl _ _ | .shr _ _ | .sar _ _ | .qwait _ => tI t
  | .and _ | .or _ | .xor _ | .andn _ | .cmp _ _ => tB t
  | .mand _ | .mor _ => tMask t
  | .ldp _ | .ldw _ | .stp _ | .stw _ | .ldpv _ | .ldwv _ | .stpv _ | .stwv _ | .ldps _ | .mma _ _ _ | .mmaz _ _ _
  | .copy _ | .copyf _ | .cpq _ | .skupd _ | .skadd _ | .skscale _ | .pump _ | .psplit _ | .mapr _ | .mapreq _ | .mldr _
  | .coll _ | .stcfg _ | .strun _ | .qdesc _ | .tspawn _ | .tfork _ | .tprio _ | .agset _ => tAddr t
  | .skqry _ => if vec then t == 8 else tAddr t
  | .ldwg _ | .stwx _ => [2, 3, 6, 7].contains t
  | .fadd f _ | .fsub f _ | .fmul f _ | .ffma f _ | .ffms f _ | .fnma f _ | .fmin f _ | .fmax f _ | .fdiv f _ | .fcmp f _ =>
    t == fmtTag f
  | .iadd y _ | .isub y _ | .imul y _ | .imulh y _ | .imad y _ | .ishl y _ | .ishr y _ | .isar y _ | .imin y _ | .imax y _
  | .icmp y _ => tVec y false t
  | .iand y _ | .ior y _ | .ixor y _ => tVec y true t
  | .pack _ => if a.lit then tPack t else t == a.tag
  | .vsel _ | .vshuf _ => if a.lit then !tMask t else t == a.tag
  | .vperm _ => tInt t && intBits t == wa
  | .vrot _ | .vext _ | .vins _ => tInt t
  | .scata _ => t == 0x0B || t == 3 || t == 7 || t == 0x0E
  | _ => true

/-- Whether an instruction accepts a tag at its C source, given its A source. DESIGN CHOICE (log entry 44): with A RAW, R141 lets C of VINS
carry any tag, and R371 refuses a MASK64 source in data movement: the model refuses it. -/
def accC (i : Instr) (a : Opd) (t : Nat) : Bool :=
  match i with
  | .ldps _ | .strun _ => tAddr t
  | .stwx _ => !tRaw t && !tMask t
  | .ffma f _ | .ffms f _ | .fnma f _ => t == fmtTag f
  | .imad y _ => tVec y false t
  | .vsel _ => tMask t
  | .vins _ => t == a.tag || (tRaw a.tag && !tMask t)
  | _ => true

/-! ### Values and conversions (R39, R46, R52) -/

/-- The exact value of an element of an IEEE, integer, CTR32 or narrow tag; `d` is the fd image a narrow tag names. -/
def elemValue (d : Nat) (t v : Nat) : XVal :=
  if tIeee t then (ieeeOf t).value v
  else if tNarrow t then (NarrowFmt.ofImage d).value v
  else XVal.ofInt (if tSigned t then sval (intBits t) v else ((v % 2 ^ intBits t : Nat) : Int))

/-- The range of an integer tag. -/
def tagMin (t : Nat) : Int := if tSigned t then -((2 ^ (intBits t - 1) : Nat) : Int) else 0
def tagMax (t : Nat) : Int := ((2 ^ (if tSigned t then intBits t - 1 else intBits t) - 1 : Nat) : Int)

/-- CTR32's symmetric range (R42). -/
def ctrMax : Int := 2 ^ 31 - 1
def satCtr (x : Int) : Int := satInt x (-ctrMax) ctrMax

/-- R52 from tag `from_` to tag `to` (no narrow destination). -/
def convert (d : Nat) (from_ dest : Nat) (rm : RM) (sat : Bool) (v : Nat) : Nat :=
  let x := elemValue d from_ v
  if tIeee dest then (ieeeOf dest).round rm x
  else if dest == 0x0E then wrap 32 (toIntSat rm (-ctrMax) ctrMax x)
  else if tI from_ then
    let n := x.smant
    wrap (intBits dest) (if sat then satInt n (tagMin dest) (tagMax dest) else n)
  else wrap (intBits dest) (toIntSat rm (tagMin dest) (tagMax dest) x)

end Sys2Proof.Machine
end

