-- ==== Sys2Proof/Machine/Ops.lean ====
section
/-! DEFINITION. The operations the meanings share: trace entries, knots and engine ends, the task table, the kill, taking a trap
and returning from it. -/

namespace Sys2Proof.Machine

/-! ### Trace (R326-R328) -/

/-- Record an entry in an unfrozen buffer; count a trigger's POST down; fire an armed trigger. -/
def Trace.record (t : Trace) (cls strand : Nat) (d0 d1 : Dword) : Trace :=
  if t.frozen then t
  else
    let t1 := { t with buf := Table.set t.buf t.wptr (d0, d1), wptr := (t.wptr + 1) % 4096 }
    match t1.post, t1.armed with
    | some n, _ => if Nat.ble n 1 then { t1 with post := none, armed := none, frozen := true } else { t1 with post := some (n - 1) }
    | none, some w =>
      let w := w.toNat
      if bit w (40 + cls) && bit w (36 + strand) && (bit w 35 || fld w 0 35 == fld d1.toNat 0 35) then
        (if fld w 48 16 == 0 then { t1 with armed := none, frozen := true } else { t1 with post := some (fld w 48 16) })
      else t1
    | none, none => t1

/-- An entry of a core cycle takes its place by strand among those of its cycle (R326). -/
def insertEntry (e : Nat × Nat × Dword × Dword) : List (Nat × Nat × Dword × Dword) → List (Nat × Nat × Dword × Dword)
  | [] => [e]
  | x :: xs => if Nat.blt e.1 x.1 then e :: x :: xs else x :: insertEntry e xs

/-- An event of the core's current cycle; a frozen buffer takes none. -/
def Trace.note (t : Trace) (cls strand : Nat) (d0 d1 : Dword) : Trace :=
  if t.frozen then t else { t with pend := insertEntry (strand, cls, d0, d1) t.pend }

/-- The entries of a cycle are recorded as it ends, in ascending strand order (R326). -/
def Trace.flush (t : Trace) : Trace :=
  t.pend.foldl (fun u e => u.record e.2.1 e.1 e.2.2.1 e.2.2.2) { t with pend := [] }

/-- An event of strand k of core c: recorded when its class is enabled (class 5 always) and the strand's function owns the
core's trace. -/
def State.trace (s : State) (c k cls payload : Nat) : State :=
  let x := s.core c
  let p := (x.strand k).place
  if p.fn == x.trace.owner && (cls == 5 || bit x.trace.classes cls) then
    s.setCore c { x with trace := x.trace.note cls k (dw (s.env.ck * 2 ^ 24 + cls * 2 ^ 20 + k * 2 ^ 18 + p.task)) (dw payload) }
  else s

/-! ### Dies (R323) -/

/-- The dies in service, ascending (R323). -/
def State.serving (s : State) : List Nat :=
  (upto 4).filter (fun d => match (s.die d).state with | .vector => true | .full => true | _ => false)

/-- When no die is left off or testing, REDCLK clears (R323). -/
def State.clearRed (s : State) : State :=
  if (upto 4).all (fun d => match (s.die d).state with | .off => false | .testing => false | _ => true) then
    s.modHost (fun h => { h with redclk := false })
  else s

/-- A die's state changes. -/
def State.setDieState (s : State) (d : Nat) (x : DieState) : State := (s.modDie d (fun y => { y with state := x })).clearRed

/-- A die fails (R323, R413): its copies of the texts are lost. -/
def State.failDie (s : State) (d : Nat) : State :=
  { (s.setDieState d .failed) with codes := s.codes.map (fun (c : Nat × Code) => (c.1, { c.2 with pages := Table.erase c.2.pages d })) }

/-- What becomes of a die outside the rows of R323: an off die begins its tests, and a die that fails a test fails for good. -/
def State.turnDie (s : State) (d : Nat) (x : DieState) : State :=
  match (s.die d).state, x with
  | .off, .testing => s.setDieState d .testing
  | .failed, _ => s
  | _, .failed => s.failDie d
  | _, _ => s

/-! ### Deferred faults and knots (R103, R171, R340) -/

/-- The place of a fault among those detected in its cycle: ascending knot, a phase conflict after every knot. -/
def dueRank (t : Trap) : Nat :=
  match t.engine with
  | some (kn, _) => kn
  | none => if t.cause == 0x0C then 17 else 16

def insertDue (d : Nat × Trap) : List (Nat × Trap) → List (Nat × Trap)
  | [] => [d]
  | x :: xs => if d.1 == x.1 && Nat.blt (dueRank d.2) (dueRank x.2) then d :: x :: xs else x :: insertDue d xs

/-- A fault becomes due for a live strand; a second phase conflict is not recorded while one is due (R340). -/
def State.due (s : State) (c k : Nat) (t : Trap) : State :=
  let x := s.strand c k
  if !x.live || (t.cause == 0x0C && x.flow.due.any (fun d => d.2.cause == 0x0C)) then s
  else s.modFlow c k (fun f => { f with due := insertDue ((s.core c).cyc, t) f.due })

def KState.code : KState → Nat
  | .idle => 0 | .pending => 1 | .done => 2 | .failed => 3

/-- A knot leaves pending (R103); the trace records it (R326 class 3). -/
def State.setKnot (s : State) (c k n : Nat) (v : KState) : State :=
  s.modStrand c k (fun t => { t with ctx := { t.ctx with knots := Table.set t.ctx.knots n v } })

/-- The opcode of the syllable that issued an operation (R75, R76). -/
def OpKind.opcode : OpKind → Nat
  | .copy .. => 0x01 | .copyf .. => 0x02 | .cpq .. => 0x03 | .scata .. => 0x04 | .skupd .. => 0x10 | .skqry .. => 0x11
  | .skadd .. => 0x12 | .skscale .. => 0x13 | .skclr .. => 0x14 | .pump .. => 0x20 | .psplit .. => 0x21 | .mapr .. => 0x30
  | .mapreq .. => 0x31 | .kjoin => 0x40 | .mldr .. => 0x50 | .coll .. => 0x51 | .strun => 0x02

/-- One operation learns that the operation `o` has ended: done, or failed, in which case it never starts (R169, R171). -/
def notifyOp (o : Nat) (ok : Bool) (e : EngOp) : EngOp :=
  let silent : Trap := { cause := 0, kind := .deferred, addr := 0, aux := 0, engine := none, itl := e.tl }
  if e.waits.contains o then
    let ws := e.waits.filter (fun w => w != o)
    if ok then { e with waits := ws } else { e with waits := ws, phase := .ready, failed := some silent }
  else e

/-- Whether an operation outstanding has all its knots and waits for its start to be set. -/
def EngOp.free (e : EngOp) : Bool := e.phase == .waiting && e.waits.isEmpty

/-- Start every operation that is now free, in the cycle after this one (R169). -/
def State.startFree (s : State) : List (Nat × EngOp) → State
  | [] => s
  | (o, e) :: es =>
    if e.free then
      State.startFree ((s.setOp o { e with phase := .ready }).at_ e.core ((s.core e.core).cyc + 1) true e.strand (.engineStart o)) es
    else State.startFree s es

/-- The manifold without what it carries for some operations. -/
def Fabric.dropOps (f : Fabric) (mine : List Nat) : Fabric :=
  { f with
    txns := f.txns.filter (fun p => !mine.contains p.2.op)
    mldrs := f.mldrs.filter (fun p => !mine.contains p.2.op)
    mwait := f.mwait.filter (fun o => !mine.contains o)
    colls := f.colls.filter (fun p => !mine.contains p.2.op)
    cwait := f.cwait.filter (fun o => !mine.contains o) }

/-- An unbinding MAPR that fails leaves its region bound (R274). -/
def State.reopen (s : State) (e : EngOp) : State :=
  match e.kind with
  | .mapr w _ =>
    if fld w 22 10 == 0 then
      s.modStrand e.core e.strand (fun t =>
        { t with regions := match Table.get? t.regions (fld w 32 4) with
          | some r => Table.set t.regions (fld w 32 4) { r with closing := none }
          | none => t.regions })
    else s
  | _ => s

/-- An operation's knot leaves pending (R171): it is no longer outstanding; a failed one orphans its unwritten slots (R358) and
those that consume it fail with it. -/
def State.endOne (s : State) (o : Nat) (e : EngOp) (ok : Bool) : State :=
  let s1 := { s with
    ops := (Table.erase s.ops o).map (fun (p : Nat × EngOp) => (p.1, notifyOp o ok p.2))
    fab := s.fab.dropOps [o]
    cores := Table.set s.cores e.core { s.core e.core with scaOrder := (s.core e.core).scaOrder.filter (fun x => x != o) } }
  let s2 := (s1.setKnot e.core e.strand e.knot (if ok then .done else .failed)).trace e.core e.strand 3
    (e.kind.opcode + e.knot * 2 ^ 10 + (if ok then 2 else 3) * 2 ^ 14)
  if ok then s2 else (s2.orphans e.core e.slots).reopen e

/-- The operations that a failure of one of their knots has failed in their turn; each fails without a fault (R171, R388). -/
def State.spreadFail (s : State) : Nat → State
  | 0 => s
  | n + 1 =>
    match s.ops.find? (fun p => p.2.phase == .ready && p.2.failed.isSome && p.2.at_ == 0) with
    | some (o, e) => State.spreadFail (s.endOne o e false) n
    | none => s

/-- An engine operation ends (R171). -/
def State.endOp (s : State) (o : Nat) (ok : Bool) : State :=
  match s.op? o with
  | some e =>
    let s1 := (s.endOne o e ok).spreadFail s.ops.length
    s1.startFree s1.ops
  | none => s

/-- The engine fault of R171 with the record of R342 and R344. -/
def EngOp.fault (e : EngOp) (cause addr index status : Nat) : Trap :=
  { cause := cause, kind := .deferred, addr := dw addr, aux := dw (index * 2 ^ 32 + status % 2 ^ 32),
    engine := some (e.knot, e.engine), itl := e.tl }

/-- The common form of R344: the AUX bits of R269, the row of R116, the space, and above them the bits of R392 and R406. -/
def spaceBits (sp : Nat) : Nat := sp * 2 ^ 10
def poisonBits (key : Nat) : Nat := spaceOf key * 2 ^ 12
def linkBit : Nat := 2 ^ 13
def authBit : Nat := 2 ^ 12
def norecBit : Nat := 2 ^ 14

/-- An engine operation fails with its fault (R171). -/
def State.failOp (s : State) (o : Nat) (t : Trap) : State :=
  match s.op? o with
  | some e => (s.endOp o false).due e.core e.strand t
  | none => s

/-! ### The task table (R243-R250) -/

/-- The task key of a function's index. -/
def taskKey (fn idx : Nat) : Nat := fn * 2 ^ 18 + idx

/-- The entry an ID of a function names; a stale ID names none (R243). -/
def State.taskOfId (s : State) (fn id : Nat) : Option (Nat × Task) :=
  match s.task? (taskKey fn (id % 2 ^ 18)) with
  | some t => if t.gen == id / 2 ^ 18 % 2 ^ 14 && id % 2 ^ 18 != 0 then some (taskKey fn (id % 2 ^ 18), t) else none
  | none => none

def Task.id (t : Task) (key : Nat) : Nat := t.gen * 2 ^ 18 + key % 2 ^ 18
def Task.dw (t : Task) (i : Nat) : Nat := (t.recd.getD i 0).toNat
def Task.plist (t : Task) : Nat := t.dw 7 % 2 ^ 57
def Task.plen (t : Task) : Nat := t.dw 8 % 2 ^ 13
def Task.notify (t : Task) : Nat := t.dw 12
def Task.save (t : Task) : Nat := t.dw 11
def Task.ssz (t : Task) : Nat := fld (t.dw 3) 20 12
def Task.pw (t : Task) : Nat := fld (t.dw 3) 3 3 + 1
def Task.ph (t : Task) : Nat := fld (t.dw 3) 0 3 + 1
def Task.nstg (t : Task) : Nat := fld (t.dw 3) 6 4 + 1

def State.msix (s : State) (fn vec : Nat) : State := s.modHost (fun h => { h with msix := (fn, vec) :: h.msix })

/-- One more in a saturating 32-bit half of ERRCNT (R316): `hi` counts aperture failures. -/
def State.errcnt (s : State) (fn : Nat) (hi : Bool) : State :=
  s.modFnHost fn (fun h =>
    let lo := if hi then 32 else 0
    let n := fld h.errcnt.toNat lo 32
    { h with errcnt := dw (setFld h.errcnt.toNat lo 32 (if n == 2 ^ 32 - 1 then n else n + 1)) })

/-! ### What the dispatcher does in memory -/

/-- The valid entries of a page list as page numbers (R216, R250): the list is read in ascending entry order. -/
def State.pageList (s : State) (fn va : Nat) : Nat → Va (List Nat) × State
  | 0 => (.ok [], s)
  | n + 1 =>
    match s.readVA fn va 8 with
    | (.wait, s1) => (.wait, s1)
    | (.bad f, s1) => (.bad f, s1)
    | (.ok bs, s1) =>
      match State.pageList s1 fn (va + 8) n with
      | (.ok ps, s2) => (.ok (if bit (ofBytes bs) 63 then (ofBytes bs % 2 ^ 23) :: ps else ps), s2)
      | (r, s2) => (r, s2)

/-- The pages of a list whose entries can be read, passing over what cannot (log entry 12); none while one waits for the host. -/
def State.pageListAny (s : State) (fn va : Nat) : Nat → Option (List Nat) × State
  | 0 => (some [], s)
  | n + 1 =>
    match s.readVA fn va 8 with
    | (.wait, s1) => (none, s1)
    | (.bad _, s1) => State.pageListAny s1 fn (va + 8) n
    | (.ok bs, s1) =>
      match State.pageListAny s1 fn (va + 8) n with
      | (some ps, s2) => (some (if bit (ofBytes bs) 63 then (ofBytes bs % 2 ^ 23) :: ps else ps), s2)
      | (none, s2) => (none, s2)

/-- Lower the counts of pages by one each, never below 0 (R250). -/
def State.lowerRefs (s : State) : List Nat → State
  | [] => s
  | p :: ps => State.lowerRefs (s.setRefs p (Table.getD s.disp.refs p 0 - 1)) ps

/-- One job of the dispatcher; `false` while it waits for the host. A notify word that cannot be written is counted, and vector 0 is
signalled either way (R401); a kill record that cannot be written is not (R347). -/
def State.doJob (s : State) : DJob → Bool × State
  | .release fn va n =>
    (match s.pageListAny fn va n with
    | (some ps, s1) => (true, s1.lowerRefs ps)
    | (none, s1) => (false, s1))
  | .record fn va bs =>
    (match s.writeVA fn va bs with
    | (.wait, s1) => (false, s1)
    | (_, s1) => (true, s1))
  | .word fn va w =>
    (match s.writeVA fn va (bytesLE 8 w) with
    | (.wait, s1) => (false, s1)
    | (.ok _, s1) => (true, s1.msix fn 0)
    | (.bad _, s1) => (true, (s1.errcnt fn false).msix fn 0))

/-- Do the jobs in order, up to the first that waits. -/
def State.doJobs (s : State) : List DJob → State
  | [] => s.modDisp (fun d => { d with jobs := [] })
  | j :: js =>
    match s.doJob j with
    | (true, s1) => State.doJobs s1 js
    | (false, s1) => s1.modDisp (fun d => { d with jobs := j :: js })

/-- A job is done now, or once those before it are and its pages are at hand. -/
def State.submit (s : State) (j : DJob) : State := s.doJobs (s.disp.jobs ++ [j])

/-- Write a notify word (R248, R401). -/
def State.notifyWord (s : State) (fn notify off event cause id : Nat) (canpred : Bool) : State :=
  if notify == 0 then s
  else s.submit (.word fn (notify + off) (id + event * 2 ^ 32 + cause * 2 ^ 40 + (if canpred then 2 ^ 48 else 0)))

/-- The final notify word of a task, written once (R401). -/
def State.finalWord (s : State) (key event cause : Nat) : State :=
  match s.task? key with
  | some t =>
    if t.final then s
    else (s.setTask key { t with final := true }).notifyWord (key / 2 ^ 18) t.notify 8 event cause (t.id key) t.canpred
  | none => s

/-- Raise the counts of pages by n each. -/
def State.raiseRefs (s : State) (n : Nat) : List Nat → State
  | [] => s
  | p :: ps => State.raiseRefs (s.setRefs p (Table.getD s.disp.refs p 0 + n)) n ps

/-- Whether raising each listed page by n passes 65,535, a page counted as often as it is listed (R250). -/
def State.refsPass (s : State) (n : Nat) (ps : List Nat) : Bool :=
  ps.any (fun p => Nat.blt 65535 (Table.getD s.disp.refs p 0 + n * ps.count p))

/-- Release a task's page references, once (R250). -/
def State.releaseRefs (s : State) (key : Nat) : State :=
  match s.task? key with
  | some t => if t.refs then (s.setTask key { t with refs := false }).submit (.release (key / 2 ^ 18) t.plist t.plen) else s
  | none => s

/-- A predecessor is satisfied for every dependant (R249). `cancelled` sets CANPRED. -/
def satisfyIn (fn id : Nat) (cancelled : Bool) (p : Nat × Task) : Nat × Task :=
  if p.1 / 2 ^ 18 == fn && p.2.preds.contains id then
    (p.1, { p.2 with preds := p.2.preds.filter (fun x => x != id), canpred := p.2.canpred || cancelled })
  else p

def State.satisfy (s : State) (fn id : Nat) (cancelled : Bool) : State :=
  s.modDisp (fun d => { d with tasks := d.tasks.map (satisfyIn fn id cancelled) })

/-- Whether an entry has a live child. -/
def State.hasChild (s : State) (key : Nat) (t : Task) : Bool :=
  s.disp.tasks.any (fun p => p.1 / 2 ^ 18 == key / 2 ^ 18 && p.2.parent == t.id key && p.1 != key)

/-- Free an entry: its generation advances (R243). -/
def State.freeEntry (s : State) (key : Nat) (t : Task) : State :=
  s.modDisp (fun d => { d with tasks := Table.erase d.tasks key, gens := Table.set d.gens key ((t.gen + 1) % 2 ^ 14) })

/-- Free the HUSKs up the chain of parents whose last live child is freed (R265). -/
def State.freeUp (s : State) (fn : Nat) : Nat → Nat → State
  | 0, _ => s
  | n + 1, id =>
    match s.taskOfId fn id with
    | some (key, t) =>
      if t.st == .husk && !s.hasChild key t then State.freeUp (s.freeEntry key t) fn n t.parent else s
    | none => s

/-- An entry whose task has ended: a HUSK while a child is live, else freed (R244, R265). -/
def State.retire (s : State) (key : Nat) : State :=
  match s.task? key with
  | some t =>
    if s.hasChild key t then s.setTask key { t with st := .husk, panel := [], preds := [] }
    else (s.freeEntry key t).freeUp (key / 2 ^ 18) (s.disp.tasks.length + 1) t.parent
  | none => s

/-! ### Stopping a strand (R266, R347, R361, R168) -/

/-- Release the read-holds of a run on its input slots (R167). -/
def State.unholdRow (s : State) (c k : Nat) : Table (SlotBits × Nat × Nat × Nat) → State
  | [] => s
  | (_, _, _, sel, i) :: hs => State.unholdRow (s.modSlot c k sel i (fun x => { x with holds := x.holds - 1 })) c k hs

/-- The active run of a core ends: its holds are released, its pops stand (R168). -/
def State.endRow (s : State) (c : Nat) : State :=
  match (s.core c).row.run with
  | some r => (s.unholdRow c r.strand r.slots).modCore c (fun x => { x with row := { x.row with run := none } })
  | none => s

/-- A strand that is stopped leaves the row of its core (R168). -/
def State.dropRow (s : State) (c k : Nat) : State :=
  match (s.core c).row.run with
  | some r => if r.strand == k then s.endRow c else s
  | none => s

/-- A flight without the grafted results under way to one queue (R266, R361). -/
def Flight.dropGrafts (f : Flight) (k q : Nat) : Flight :=
  { f with grafts := f.grafts.filter (fun g => !(g.2.strand == k && g.2.q == q)) }

/-- The source queue of a graft that breaks: GCRED is 0, and its written results are dropped (R361). -/
def State.breakSource (s : State) (c k q : Nat) : State :=
  let s1 := s.modQueue c k q (fun d => { d with broken := true, gcred := 0 })
  State.drainGraft s1 c k q (s1.core c).flight.pends

/-- Grafts that end with the strand: its sources' targets are free again, its targets' sources are broken (R361). Results not yet
delivered are dropped (R266). -/
def State.breakGrafts (s : State) (c k : Nat) : List (Nat × Queue) → State
  | [] => s
  | (n, q) :: qs =>
    let s1 := if q.gsrc && !q.broken && Nat.blt q.gcore 256 then
        (s.modQueue q.gcore q.gstr q.gq (fun d => { d with gtgt := false })).modFlight q.gcore (fun f => f.dropGrafts q.gstr q.gq)
      else s
    let s2 := if q.gtgt then
        match s1.graftSource c k n with
        | some (sc, sk, sq) => (s1.modFlight c (fun f => f.dropGrafts k n)).breakSource sc sk sq
        | none => s1
      else s1
    State.breakGrafts s2 c k qs

/-- The programs of a stopped strand: those submitted are gone, a running one is closed with PREA and tells no knot (R266). -/
def dropProgs (ops : List Nat) (p : Pump) : Pump :=
  { p with
    queue := p.queue.filter (fun g => !ops.contains g.op)
    prog := p.prog.map (fun g => if ops.contains g.op then { g with phase := .closing, fail := none, ksig := true } else g)
    ended := p.ended.filter (fun d => !ops.contains d.op)
    data := p.data.filter (fun d => !ops.contains d.2.op) }

/-- What a stopped strand leaves on its core: every access and result in flight of it is gone (R266). -/
def Flight.drop (f : Flight) (k : Nat) : Flight :=
  { f with
    pends := f.pends.filter (fun p => p.2.strand != k), stores := f.stores.filter (fun p => p.2.strand != k),
    touches := f.touches.filter (fun p => p.2.strand != k), holds := f.holds.filter (fun p => p.2.strand != k),
    grafts := f.grafts.filter (fun p => p.2.strand != k), credits := f.credits.filter (fun p => p.2.strand != k) }

/-- A flight without the grafted results and credits under way to a strand that has ended (R361). -/
def Flight.dropLinks (f : Flight) (k : Nat) : Flight :=
  { f with grafts := f.grafts.filter (fun p => p.2.strand != k), credits := f.credits.filter (fun p => p.2.strand != k) }

/-- The strand is idle with nothing of its context left: it has been stopped or saved (R20, R263, R266, R358). The issue unit may
switch away from it at no cost (R21). -/
def State.idle (s : State) (c k : Nat) : State := s.setStrand c k {}

/-- A queue of a strand that has ended: disabled, in no graft, its counters and slots as they stand (R23). -/
def Queue.close (q : Queue) : Queue := { q with en := false, gsrc := false, gtgt := false, broken := false, parity := none }

/-- A strand that has ended is idle (R20): every queue disabled, no region bound, no fault due. Its registers, knots and queue
counters stay as they stood, since only a cast-on sets them (R23, R103). -/
def Strand.rested (t : Strand) : Strand :=
  { t with flow := {}, queues := t.queues.map (fun (q : Nat × Queue) => (q.1, q.2.close)), regions := [], knotOp := [] }

def State.rest (s : State) (c k : Nat) : State := s.modStrand c k Strand.rested

def MatUnit.drop (m : MatUnit) (k : Nat) : MatUnit := { m with ops := m.ops.filter (fun o => o.2.strand != k) }

/-- Stop a strand as step 1 of R266 and R347 say: nothing of it is performed any more, and nothing is recorded (R326, R349). -/
def State.stop (s : State) (c k : Nat) : State :=
  let mine := (s.ops.filter (fun p => p.2.core == c && p.2.strand == k)).map Prod.fst
  let s1 := s.breakGrafts c k (s.strand c k).queues
  let s2 := s1.dropRow c k
  let s3 := { s2 with
    ops := s2.ops.filter (fun p => !mine.contains p.1)
    pumps := s2.pumps.map (fun (p : Nat × Pump) => (p.1, dropProgs mine p.2))
    fab := s2.fab.dropOps mine }
  let s4 := s3.modFlight c (fun f => f.drop k)
  let s5 := s4.modCore c (fun x =>
    { x with units := x.units.map (fun (u : Nat × MatUnit) => (u.1, u.2.drop k)),
             scaOrder := x.scaOrder.filter (fun o => !mine.contains o) })
  s5.idle c k

/-- Stop every cast strand of a panel. -/
def State.stopPanel (s : State) : List (Nat × Nat × PStatus) → State
  | [] => s
  | (c, k, st) :: ps => State.stopPanel (if st == .cast then s.stop c k else s) ps

/-- The resident source queues whose target is a strand, not resident, of the task whose codes begin at `lo` (R38). -/
def State.awaySources (s : State) (lo : Nat) : List (Nat × Nat × Nat) :=
  s.cores.flatMap (fun x => x.2.strands.flatMap (fun t =>
    (t.2.queues.filter (fun q => q.2.gsrc && Nat.ble lo q.2.gcore && Nat.blt q.2.gcore (lo + 64))).map (fun q => (x.1, t.1, q.1))))

/-- Source queues are broken: the results they hold are dropped (R361). -/
def State.breakAll (s : State) : List (Nat × Nat × Nat) → State
  | [] => s
  | (c, k, q) :: xs => State.breakAll (s.breakSource c k q) xs

/-- The source queues that name a strand of a task while it is not resident are broken (R361). -/
def State.breakAways (s : State) (fn id : Nat) : State := s.breakAll (s.awaySources (awayCode fn id 0))

/-- Where the target of a graft recorded at a save stands now (R38): resident, saved, or gone. -/
inductive Whither
  | at_ (c k : Nat)
  | away
  | gone
deriving DecidableEq, Repr

def State.whither (s : State) (code : Nat) : Whither :=
  let n := code - 256
  match s.taskOfId (n / 2 ^ 38) (n / 64 % 2 ^ 32) with
  | none => .gone
  | some (_, t) =>
    match t.panel[n % 64]? with
    | some (c, k, .cast) => .at_ c k
    | some (_, _, .saved) => .away
    | _ => .gone

/-- The resident targets of the source queues that a save recorded are targets no longer, and keep what has arrived (R266, R347). -/
def State.freeTargets (s : State) : List (Nat × Nat × Nat × Nat × Nat) → State
  | [] => s
  | (_, _, code, tq, _) :: gs =>
    State.freeTargets (match s.whither code with
      | .at_ c k => (s.modQueue c k tq (fun d => { d with gtgt := false })).modFlight c (fun f => f.dropGrafts k tq)
      | _ => s) gs

/-- The panel of a task no longer holds cores, and its epoch ends (R384). -/
def State.leavePanel (s : State) (key : Nat) : State :=
  match s.task? key with
  | some t =>
    let s1 := ((s.stopPanel t.panel).breakAways (key / 2 ^ 18) (t.id key)).freeTargets t.grafts
    (s1.setTask key { t with panel := t.panel.map (fun p => (p.1, p.2.1, if p.2.2 == .cast then .stopped else p.2.2)) }).modDie
      t.origin.1 (fun d => { d with live := d.live.filter (fun e => e.2 != key) })
  | none => s

/-! ### Kills (R346-R348) -/

/-- The dwords of a bank in the order of R348. -/
def Bank.dwords (b : Bank) : List Dword := [b.cause, b.ret, b.addr, b.aux]

/-- CORELOC (R11). -/
def coreloc (c k : Nat) : Nat := k * 2 ^ 8 + c

/-- The kill record of R348 for a strand at panel position p, as bytes. -/
def killRecord (s : State) (id : Nat) (k : KillInfo) (cs : Option (Nat × Nat)) : List Byte :=
  let t : Strand := match cs with | some (c, i) => s.strand c i | none => {}
  let (loc, tl, banks) := k.held.getD
    (match cs with | some (c, i) => coreloc c i | none => 0, t.ctx.tl, (t.ctx.bank 1).dwords ++ (t.ctx.bank 2).dwords)
  let w0 := id + k.cause * 2 ^ 32 + k.reason * 2 ^ 40 + k.pos * 2 ^ 48 + tl * 2 ^ 54
  let ws : List Dword := match k.words with | some (a, b, c, d) => [a, b, c, d] | none => [0, 0, 0, 0]
  let due := t.flow.due.foldl (fun acc d => match d.2.engine with
    | some (n, _) => if bit acc n then acc else acc + 2 ^ n
    | none => if d.2.cause == 0x0C && !bit acc 16 then acc + 2 ^ 16 else acc) 0
  ([dw w0] ++ ws ++ banks ++ [dw loc, dw t.icyc, dw due]).flatMap
    (fun w => bytesLE 8 w.toNat)

/-- Whether a bind-off has captured an entry (R402). -/
def State.captured (s : State) (key : Nat) : Bool := s.disp.walks.any (fun w => w.2.stopped && w.2.found.contains key)

/-- A kill (R347; none once a bind-off has captured the task, R402): the panel stops, the references are released, the entry becomes a HUSK or is freed, dependants count it as
satisfied with CANPRED, the record is written, then the notify word. -/
def State.kill (s : State) (fn idx : Nat) (k : KillInfo) : State :=
  let key := taskKey fn idx
  match s.task? key with
  | some t =>
    if t.st == .husk || s.captured key then s
    else
      let who := (t.panel[k.pos]?).bind (fun p => if p.2.2 == .cast then some (p.1, p.2.1) else none)
      let recd := killRecord s (t.id key) k who
      let s1 := (s.leavePanel key).satisfy fn (t.id key) true
      let s2 := (s1.releaseRefs key).submit (.record fn (t.save + k.pos * t.ssz * 4096 + 0x800) recd)
      (s2.finalWord key 4 k.cause).retire key
  | none => s

/-! ### Traps (R109, R339-R345) -/

/-- The return word of R109 for resuming at `pc` inside the delay sequence `seq`. -/
def returnWord (pc : Nat) (seq : Option (Nat × Nat)) : Dword :=
  match seq with
  | some (left, tgt) => dw (2 ^ 63 + left * 2 ^ 62 + tgt * 2 ^ 32 + pc % 2 ^ 30)
  | none => dw (pc % 2 ^ 30)

def kindCode : Kind → Nat
  | .inPlace => 0 | .postIssue => 1 | .deferred => 2

/-- BnCAUSE (R342). -/
def causeWord (t : Trap) (hent endp : Bool) : Dword :=
  dw (t.cause + kindCode t.kind * 2 ^ 8
    + (match t.engine with | some (n, e) => 2 ^ 12 + e * 2 ^ 13 + n * 2 ^ 16 | none => 0)
    + t.itl * 2 ^ 20 + (if hent then 2 ^ 22 else 0) + (if endp then 2 ^ 23 else 0))

/-- The bundle offset of an object's trap entry of a level (R282, R345). -/
def Code.trapEntry (x : Code) (level : Nat) : Option Nat :=
  (x.entries.find? (fun e => fld e 20 2 == level)).map (fun e => e % 2 ^ 20)

/-- The strand's next bundle waits for no fill of a region any more (R273): only engine operations stay in line. -/
def Region.unline (r : Nat × Region) : Nat × Region := (r.1, { r.2 with line := r.2.line.filter (fun n => n % 17 != 16) })

/-- Whether the strand's next bundle is the first of its trap level's handler (R342). -/
def Strand.entering (t : Strand) : Bool := Table.get? t.flow.handler t.ctx.tl == some t.ctx.pc

/-- Taking a trap (R345): the bank of the next level takes cause, return word, address and auxiliary word; TL rises; the strand
goes on at the trap entry with no delay sequence. At TL 2, or without an entry of the level, the task is killed. `r` is the
return word, `hent` and `endp` the marks of R342. -/
def State.takeTrap (s : State) (c k : Nat) (t : Trap) (r : Dword) (hent endp : Bool) : State :=
  let x := s.strand c k
  let n := x.ctx.tl
  let w := causeWord t hent endp
  let die := fun (reason : Nat) => s.kill x.place.fn x.place.task
    { reason := reason, cause := t.cause, pos := x.place.pos, words := some (w, r, t.addr, t.aux) }
  let s1 := s.trace c k 4 (t.cause + fld r.toNat 0 30 * 2 ^ 10)
  if n == 2 then die 1
  else match (Table.get? s.codes x.place.code).bind (fun o => o.trapEntry (n + 1)) with
    | none => die 2
    | some pc =>
      s1.modStrand c k (fun y =>
        { y with
          ctx := { y.ctx with
            pc := pc, seq := none, tl := n + 1,
            banks := Table.set y.ctx.banks (n + 1) { cause := w, ret := r, addr := t.addr, aux := t.aux } },
          flow := { y.flow with handler := Table.set y.flow.handler (n + 1) pc, blocked := 0, atEdge := false, life := .running,
                                shape := none, fills := [], checked := false }
          regions := y.regions.map Region.unline })

/-- The return from a trap (R110): the return word of the bank of the level left gives PC and delay sequence. -/
def Ctx.eret (x : Ctx) : Ctx :=
  let w := (x.bank x.tl).ret.toNat
  { x with tl := x.tl - 1, pc := fld w 0 30, seq := if bit w 63 then some (fld w 62 1, fld w 32 30) else none }

end Sys2Proof.Machine
end

