-- ==== Sys2Proof/Machine/Checks.lean ====
section
/-! DEFINITION. What the issue unit checks of each syllable: operand selectors (R31, R60-R65), allotment (R144), appends (R26),
holds under condition 6, tags (R30, R151), addresses (R116, R148, R152) and each instruction's own values. -/

namespace Sys2Proof.Machine

/-- A syllable with its slot, opcode and the uses of its fields. -/
structure Use where
  slot : Slot
  op   : Nat
  i    : Instr
  f    : Fields
  sh   : Shape
deriving DecidableEq, Repr

def Syl.use? (y : Syl) : Option Use :=
  match y.instr with
  | some i => match i.fields, shape i with
    | some f, some sh => some { slot := y.slot, op := y.raw % 2 ^ 10, i := i, f := f, sh := sh }
    | _, _ => none
  | none => none

/-- The SYL fields of R343. -/
def sylAux (sl : Slot) (op fld : Nat) : Nat := sl.num * 2 ^ 32 + op * 2 ^ 35 + fld * 2 ^ 45

/-- A fault in place of issue (R339); ADDR is the bundle index unless the rule names an address (R341). -/
def State.inPlace (s : State) (c k cause addr aux : Nat) : Trap :=
  { cause := cause, kind := .inPlace, addr := dw addr, aux := dw aux, engine := none, itl := (s.strand c k).ctx.tl }

/-- A fault of a syllable's field, with the bundle index in ADDR. -/
def State.sylTrap (s : State) (c k : Nat) (u : Use) (cause fld extra : Nat) : Trap :=
  s.inPlace c k cause (s.strand c k).ctx.pc (extra + sylAux u.slot u.op fld)

/-- A post-issue trap of a syllable (R339). -/
def State.postTrap (s : State) (c k cause addr aux : Nat) : Trap := { s.inPlace c k cause addr aux with kind := .postIssue }

/-! ### Regions -/

/-- The DIRTY blocks of a region, ascending. -/
def Region.dirty (x : Region) : List Nat :=
  (x.blocks.filter (fun b => match b.2 with | .dirty => true | _ => false)).map Prod.fst

/-- The VA of block j of a region. -/
def Region.blockVA (x : Region) (j : Nat) : Nat := (x.va + j) * 4096

/-- The DIRTY blocks of a strand's regions: VA, region index, block. -/
def Strand.dirtyBlocks (t : Strand) : List (Nat × Nat × Nat) :=
  t.regions.flatMap (fun (r : Nat × Region) => r.2.dirty.map (fun j => (r.2.blockVA j, r.1, j)))

/-- The lowest VA of a DIRTY block, and its region. -/
def Strand.dirtyFirst (t : Strand) : Option (Nat × Nat) :=
  t.dirtyBlocks.foldl (fun acc b => match acc with
    | some a => if Nat.blt b.1 a.1 then some (b.1, b.2.1) else acc
    | none => some (b.1, b.2.1)) none

/-- The region whose DIRTY block is the next to be written back when its strand leaves, in ascending VA over all regions (R274). -/
def Strand.dirtyRegion (t : Strand) : Option Nat := t.dirtyFirst.map Prod.snd

/-- The DIRTY blocks of a region that are written back before those of the strand's other regions (R274). -/
def Strand.dirtyRun (t : Strand) (r : Nat) (x : Region) : List Nat :=
  x.dirty.takeWhile (fun j => t.dirtyBlocks.all (fun b => b.2.1 == r || Nat.blt (x.blockVA j) b.1 || (x.blockVA j == b.1 && Nat.blt r b.2.1)))

/-! ### Sources -/

/-- A source that names a queue: its field (0 to 2), its selector, head offset, pops, and how many slots it reads. -/
structure SrcRef where
  fld : Nat
  sel : Nat
  off : Nat
  pop : Nat
  n   : Nat
deriving DecidableEq, Repr

def Use.srcs (u : Use) : List (Nat × SrcUse × LitUse × Src) :=
  [(0, u.sh.a, u.sh.la, u.f.a), (1, u.sh.b, u.sh.lb, u.f.b), (2, u.sh.c, u.sh.lc, u.f.c)]

/-- The slots a source reads: a run reads na, DROP and QWAIT none (R147, R367, R106). -/
def Use.reads (u : Use) (x : SrcUse) : Nat :=
  match x with
  | .run => runLength u.i
  | .drop | .qwait => 0
  | _ => 1

/-- The pops of a source: MMA with POPA pops its run (R150). -/
def Use.pops (u : Use) (x : SrcUse) (y : Src) : Nat :=
  match x with
  | .run => y.pop.toNat + (if bit u.f.mod.toNat 6 then runLength u.i else 0)
  | _ => y.pop.toNat

def Use.refs (u : Use) : List SrcRef :=
  u.srcs.filterMap (fun (x : Nat × SrcUse × LitUse × Src) =>
    match x.2.1 with
    | .none => none
    | .knots => none
    | m => if x.2.2.2.isLit then none
      else some { fld := x.1, sel := x.2.2.2.qsel.toNat, off := x.2.2.2.off.toNat, pop := u.pops m x.2.2.2, n := u.reads m })

/-- The sources a syllable holds beyond its issue cycle: vector-store data and the run of MMA (R29, R119, R122, R147). -/
def Use.held (u : Use) : List SrcRef :=
  match u.i with
  | .stpv _ | .stwv _ | .stwx _ => u.refs.filter (fun r => r.fld == 2)
  | .mma _ _ _ | .mmaz _ _ _ => u.refs.filter (fun r => r.fld == 0)
  | _ => []

/-- The operands a syllable reads. -/
structure Opds where
  a   : Opd
  b   : Opd
  c   : Opd
  run : List Opd
deriving DecidableEq, Repr

def Opd.none : Opd := { lit := true, tag := 0, val := 0 }

/-- Read one operand by its use. -/
def State.opdFor (s : State) (c k : Nat) (m : SrcUse) (x : Src) : Opd :=
  match m with
  | .scalar | .vector | .any | .litOnly => s.opdAt c k s.bundle.words x
  | _ => Opd.none

def State.opdsOf (s : State) (c k : Nat) (u : Use) : Opds :=
  { a := s.opdFor c k u.sh.a u.f.a, b := s.opdFor c k u.sh.b u.f.b, c := s.opdFor c k u.sh.c u.f.c,
    run := if u.sh.a == .run then (upto (runLength u.i)).map (fun j => s.readAt c k u.f.a.qsel.toNat (u.f.a.off.toNat + j))
           else [] }

/-- The parity error of a queue of the strand, as the fault of R394. -/
def State.parityOf (s : State) (c k n : Nat) : Option Trap :=
  if n < 16 then
    let q := s.queue c k n
    match q.parity with
    | none => none
    | some none => some (s.inPlace c k 0x16 0 (4 + n * 8))
    | some (some i) => some (s.inPlace c k 0x16 (q.base + i * q.size) (5 + n * 8))
  else none

/-- The queues that a syllable's mod field names (QLEN, QDESC, QGRAFT, QUNGRAFT). -/
def Use.modQueues (u : Use) : List Nat :=
  match u.i with
  | .qlen f => [f.m 3 5]
  | .qdesc f | .qgraft f | .qungraft f => [f.m 0 4]
  | _ => []

/-! ### Step 2 of R67: fields -/

/-- The queues an active stitch run of the strand reads and writes (R167), and the QN of its running pump programs (R219). -/
def State.portQ (s : State) (c k : Nat) : List Nat :=
  match (s.core c).row.run with
  | some r => if r.strand == k then (r.port0.toList ++ r.port1.toList) else []
  | none => []

def State.outQ (s : State) (c k : Nat) : List Nat :=
  (match (s.core c).row.run with
    | some r => if r.strand == k && r.omode == 3 then [r.oq] else []
    | none => [])
  ++ s.pumps.filterMap (fun (p : Nat × Pump) => match p.2.prog with
    | some g => if g.core == c && g.strand == k && bit g.hdr0 63 && g.phase != .bound then some (fld g.hdr0 53 4) else none
    | none => none)

/-- Whether a queue source breaks R31, R61 or the queues a stitch run owns (R167). -/
def State.queueSrcBad (s : State) (c k : Nat) (m : SrcUse) (n : Nat) (x : Src) : Bool :=
  let w := (s.core c).win k x.qsel.toNat
  let graft := x.isQ && (s.queue c k x.qsel.toNat).gsrc
  !w.en || graft || Nat.blt w.cap (x.off.toNat + (if n == 0 then 1 else n)) || Nat.blt w.cap x.pop.toNat
    || (m == .scalar && w.wide) || ((m == .vector || m == .run) && !w.wide) || (s.portQ c k).contains x.qsel.toNat

/-- Whether a source field is illegal (R60-R65, R31). -/
def State.srcBad (s : State) (c k n : Nat) (u : Use) (x : Nat × SrcUse × LitUse × Src) : Bool :=
  let other := if x.1 == 0 then u.f.b.isLit else u.f.a.isLit
  !srcWf x.2.1 x.2.2.1 other u.slot n (knotCount u.f) x.2.2.2
    || (x.2.1 == .run && bit u.f.mod.toNat 6 && !(x.2.2.2.off == 0 && x.2.2.2.pop == 0))
    || (match x.2.1 with
        | .none => false
        | .knots => false
        | m => !x.2.2.2.isLit && s.queueSrcBad c k m (u.reads m) x.2.2.2)

/-- The width class dst must have: none when either does. -/
def State.dstWide (s : State) (c k : Nat) (u : Use) : Option Bool :=
  match u.sh.dst with
  | .scalar => some false
  | .vector => some true
  | .byB => some (!u.f.b.isLit && ((s.core c).win k u.f.b.qsel.toNat).wide)
  | _ => none

/-- The appends whose number needs no source value (R26, R31). -/
def Use.apps0 (u : Use) : Nat :=
  match u.i with
  | .dup f => f.m 3 5 + 1
  | _ => 1

/-- Whether dst is illegal, given what earlier syllables append to it (R31, R64, R167, R175, R219). The capacity of R31 is that of
R24, 2^LOGCAP of the queue itself, grafted or not. -/
def State.dstBad (s : State) (c k : Nat) (u : Use) (before : Nat) : Bool :=
  !dstWf u.sh.dst u.f.dst
    || (u.sh.dst != .none && Nat.blt u.f.dst.toNat 16 &&
      (let q := s.queue c k u.f.dst.toNat
       !q.en || q.gtgt || (match s.dstWide c k u with | some w => q.wide != w | none => false)
         || (q.gsrc && u.slot == .e) || (s.outQ c k).contains u.f.dst.toNat
         || Nat.blt q.cap (before + u.apps0)))

/-- A dst whose graft is broken (R361). -/
def State.dstBroken (s : State) (c k : Nat) (u : Use) : Bool :=
  u.sh.dst != .none && Nat.blt u.f.dst.toNat 16 && (s.queue c k u.f.dst.toNat).broken && (s.queue c k u.f.dst.toNat).gsrc

/-- QIX 20-31 or a disabled queue (R88). -/
def State.qixBad (s : State) (c k : Nat) (i : Instr) : Bool :=
  match i with
  | .qlen f => Nat.ble 20 (f.m 3 5) || !((s.core c).win k (f.m 3 5)).en
  | _ => false

/-- Step 2 of R67 for one syllable of a bundle of n: the lowest failing field (R353). -/
def State.fieldFault (s : State) (c k n before : Nat) (u : Use) : Option Trap :=
  if !modOk u.i u.f.mod.toNat then some (s.sylTrap c k u 0x02 1 0)
  else if s.qixBad c k u.i then some (s.sylTrap c k u 0x04 1 0)
  else if s.dstBad c k u before then some (s.sylTrap c k u 0x04 2 0)
  else (u.srcs.find? (s.srcBad c k n u)).map (fun (x : Nat × SrcUse × LitUse × Src) => s.sylTrap c k u 0x04 (3 + x.1) 0)

/-! ### Step 3 of R67: allotment, underflow, failed knots -/

/-- The unit and tile an M syllable names (R150). -/
def tileOf : Instr → Option (Nat × Nat)
  | .mma v _ f | .mmaz v _ f | .mzero v f | .mdrain v f | .maccl v f | .maccs v f | .mfmt v f =>
    some (match v with | .m0 => 0 | .m1 => 1, f.m 2 4)
  | _ => none

/-- The result queue MDRAIN names, as a selector (R150). -/
def drainQ : Instr → Option Nat
  | .mdrain v f => some (16 + 2 * (match v with | .m0 => 0 | .m1 => 1) + f.m 6 1)
  | _ => none

/-- The row instructions (R164). -/
def isRow : Instr → Bool
  | .stcfg _ | .strun _ | .ststop _ => true
  | _ => false

/-- The allotment check of R144 and R368 for one syllable. -/
def State.allotFault (s : State) (c k : Nat) (u : Use) : Option Trap :=
  let m := (s.strand c k).place.mallot
  match u.refs.find? (fun r => Nat.ble 16 r.sel && !bit m (16 + r.sel)) with
  | some r => some (s.sylTrap c k u 0x1A (3 + r.fld) 0)
  | none =>
    let tileBad := match tileOf u.i with | some (v, t) => !bit m (16 * v + t) | none => false
    let drainBad := match drainQ u.i with | some q => !bit m (16 + q) | none => false
    let qlenBad := match u.i with | .qlen f => Nat.ble 16 (f.m 3 5) && !bit m (16 + f.m 3 5) | _ => false
    if tileBad || drainBad || qlenBad then some (s.sylTrap c k u 0x1A 1 0)
    else if isRow u.i && !bit m 36 then some (s.sylTrap c k u 0x1A 6 0)
    else none

/-- The knots an E syllable consumes (R65). -/
def knotsOf (f : Fields) : List Nat := (upto (knotCount f)).map (fun j => fld f.c.toNat (4 * j) 4)

/-- The failed knot a syllable names (R104, R105, R169), with the field it stands in. -/
def State.knotFault (s : State) (c k : Nat) (u : Use) : Option Trap :=
  let t := s.strand c k
  let bad := fun (n f : Nat) => if t.knot n == .failed then some (s.sylTrap c k u 0x12 f n) else none
  match u.i with
  | .ktest f => bad (f.m 0 4) 6
  | .kwait f => bad (f.m 0 4) 6
  | _ => if u.slot == .e then (knotsOf u.f).findSome? (fun n => bad n 5) else none

/-- A result-queue source outside the window, or pops beyond it (R146); `before` are earlier pops in the bundle. -/
def State.underflow (s : State) (c k : Nat) (u : Use) (before : List (Nat × Nat)) : Option Trap :=
  (u.refs.foldl (fun (acc : Option Trap × List (Nat × Nat)) r =>
    let occ := ((s.core c).win k r.sel).occ
    let total := (acc.2.filter (fun p => p.1 == r.sel)).foldl (fun n p => n + p.2) 0 + r.pop
    (match acc.1 with
      | some t => some t
      | none =>
        if Nat.ble 16 r.sel && ((r.n != 0 && Nat.ble occ r.off) || Nat.blt occ total) then
          some (s.sylTrap c k u 0x08 (3 + r.fld) (r.sel - 16 + occ * 4))
        else none, (r.sel, r.pop) :: acc.2)) (none, before)).1

/-! ### Conditions 1 to 4 of R26 (R359) -/

/-- The AUX of R359 for a queue. -/
def qAux (sel a b extra : Nat) : Nat :=
  (if sel < 16 then sel else sel - 16 + 2 ^ 32) + a % 2 ^ 13 * 2 ^ 4 + b % 2 ^ 13 * 2 ^ 17 + extra

/-- The first slot among head offsets lo to lo + n - 1 that is absent or outside the window; `drop` counts orphans as present. -/
def Core.absent (x : Core) (k sel lo n : Nat) (drop : Bool) : Option Nat :=
  let occ := (x.win k sel).occ
  ((upto n).find? (fun j => Nat.ble occ (lo + j) ||
    (let q := x.winSlot k sel (lo + j)
     !(q.present || (drop && q.orphan))))).map (fun j => lo + j)

/-- The AUX of a block on an absent slot (R359). -/
def Core.absentAux (x : Core) (k sel o : Nat) : Nat :=
  let w := x.win k sel
  qAux sel ((w.head + o) % (2 * w.cap)) w.tail (if Nat.blt o w.occ && (x.winSlot k sel o).orphan then 2 ^ 35 else 0)

/-- Condition 1. -/
def Core.cond1 (x : Core) (k : Nat) (us : List Use) : Option Nat :=
  us.findSome? (fun u => u.refs.findSome? (fun r => (x.absent k r.sel r.off r.n false).map (x.absentAux k r.sel)))

/-- The pops of a bundle on a selector, and whether a DROP is among them (R26, R358). -/
def popsOn (us : List Use) (sel : Nat) : Nat × Bool :=
  us.foldl (fun acc u => u.refs.foldl (fun (a : Nat × Bool) r =>
    if r.sel == sel then (a.1 + r.pop, a.2 || (u.sh.a == .drop)) else a) acc) (0, false)

/-- Condition 2. -/
def Core.cond2 (x : Core) (k : Nat) (us : List Use) : Option Nat :=
  (upto 20).findSome? (fun sel =>
    let p := popsOn us sel
    (x.absent k sel 0 p.1 p.2).map (x.absentAux k sel))

/-- The slots a syllable appends to q0-q15 (R26, R64). The count of CPQ and of TFORK is a source value. -/
def State.appsOf (s : State) (c k : Nat) (u : Use) : Nat :=
  if u.sh.dst == .none || u.f.dst == 31 then 0
  else
    match u.i with
    | .cpq _ => (s.opdFor c k u.sh.b u.f.b).u
    | .tfork _ => (s.opdFor c k u.sh.a u.f.a).u % 2 ^ 7
    | _ => u.apps0

/-- The appends of a bundle on a queue. -/
def State.appsOn (s : State) (c k : Nat) (us : List Use) (q : Nat) : Nat :=
  us.foldl (fun n u => if u.f.dst.toNat == q then n + s.appsOf c k u else n) 0

/-- A bundle whose appends to one queue pass its capacity, the counts of CPQ and TFORK among them (R31): the first syllable with
which they do. A count that passes it alone is left to the syllable's own rule (R180, R204). -/
def State.appsFault (s : State) (c k : Nat) (us : List Use) : Option Trap :=
  (us.foldl (fun (acc : Option Trap × List Use) u =>
    (acc.1.or (
      let n := s.appsOf c k u
      let cap := (s.queue c k u.f.dst.toNat).cap
      if n != 0 && Nat.ble n cap && Nat.blt cap (s.appsOn c k acc.2 u.f.dst.toNat + n) then some (s.sylTrap c k u 0x04 2 0) else none),
     acc.2 ++ [u])) (none, [])).1

/-- Condition 3 for the 32 slots of MDRAIN: a read-hold on one it would reserve; want of room is an overflow (R146). -/
def Core.drainHeld (x : Core) (u : Use) : Option Nat :=
  (drainQ u.i).bind (fun sel =>
    let m := x.mq (sel - 16)
    if Nat.blt 64 (m.occ + 32) then none
    else if (upto 32).any (fun j => (m.slot ((m.tail + j) % 64)).holds != 0) then some (qAux sel m.tail m.tail (2 ^ 33)) else none)

/-- Conditions 3 and 4. Appends that pass the capacity are a fault of their own. -/
def State.cond34 (s : State) (c k : Nat) (us : List Use) : Option Nat :=
  us.findSome? (fun u => ((s.core c).drainHeld u).or (
    let sel := u.f.dst.toNat
    let n := if sel < 16 then s.appsOn c k us sel else 0
    if u.sh.dst == .none || n == 0 then none
    else
      let q := s.queue c k sel
      if Nat.blt q.cap n then none
      else if q.gsrc then (if Nat.blt q.gcred n then some (qAux sel q.gcred 0 (2 ^ 34)) else none)
      else if Nat.blt q.free n then some (qAux sel q.head q.tail 0)
      else if (upto n).any (fun j => (q.slot ((q.tail + j) % q.cap)).holds != 0) then some (qAux sel q.tail q.tail (2 ^ 33))
      else none))

/-! ### Addresses (R116) -/

/-- Whether runs of n bytes from a and m bytes from b share a byte. -/
def overlap (a n b m : Nat) : Bool := Nat.blt a (b + m) && Nat.blt b (a + n)

/-- A P range outside the strand's span, in a queue extent, or in another strand's region (R24, R259, R275). -/
def State.pForbidden (s : State) (c k a n : Nat) : Bool :=
  let p := (s.strand c k).place
  Nat.blt a (p.sbase * 2 ^ 16) || Nat.blt ((p.sbase + p.ssize) * 2 ^ 16) (a + n)
    || (s.core c).strands.any (fun (t : Nat × Strand) =>
      t.2.queues.any (fun (q : Nat × Queue) => q.2.en && overlap a n q.2.extent.1 q.2.extent.2)
        || (t.1 != k && t.2.regions.any (fun (r : Nat × Region) => overlap a n (r.2.pbase * 4096) (r.2.size * 4096))))

/-- Whether a W address lies in its vault's reserved area (R8). -/
def wReserved (a : Nat) : Bool := Nat.ble 0x01F00000 (a % 2 ^ 25)

/-- The rows of R116 for n bytes at ea: the cause and the row that fails. -/
def State.addrBad (s : State) (c k : Nat) (w : Bool) (ea : Int) (n align : Nat) : Option (Nat × Nat) :=
  let a := ea.toNat
  if decide (ea < 0) || Nat.blt (2 ^ (if w then 31 else 22)) (a + n) || (n == 0 && Nat.ble (2 ^ (if w then 31 else 22)) a) then
    some (0x0B, 1)
  else if a % align != 0 then some (0x0B, 2)
  else if w then (if wReserved a || (n != 0 && wReserved (a + n - 1)) then some (0x1A, 3) else none)
  else if s.pForbidden c k a n then some (0x0B, 3) else none

/-- The elements an access touches: lane, address and size, with the alignment and the field its faults name. A `soft` access is the
read of a completing X syllable: its own rule refuses a bad address after issue (R193, R203, R204). -/
structure Access where
  w     : Bool
  store : Bool
  elems : List (Nat × Int × Nat)
  align : Nat
  fld   : Nat := 6
  soft  : Bool := false
deriving DecidableEq, Repr

/-- `ua64(A) + sa64(B)` (R116). -/
def eaOf (o : Opds) : Int := (o.a.u : Int) + o.b.s

/-- The offsets of an index vector; a literal counts as INT32 (R121, R63). -/
def indexLanes (b : Opd) : List Int :=
  let t := if b.lit then 3 else b.tag
  (b.lanes (intBits t)).map (fun v => if tSigned t then sval (intBits t) v else ((v % 2 ^ intBits t : Nat) : Int))

/-- Pair a list with rising lane numbers. -/
def numbered {α : Type} (n : Nat) : List α → List (Nat × α)
  | [] => []
  | x :: xs => (n, x) :: numbered (n + 1) xs

/-- The length of AGSET's table at P offset a: m members of 8 bytes after a dword of count (R193). -/
def State.tableLen (s : State) (c k a : Nat) : Nat :=
  let m := ofBytes (s.viewBytes c k ((s.strand c k).flow.bno + 1) (keyP c a) 8)
  if Nat.ble 1 m && Nat.ble m 64 then 8 + 8 * m else 8

/-- The access of a P, W, MACCL, MACCS, LOOP.SP, LOOP.SW, STCFG, TSPAWN, TFORK or AGSET syllable. -/
def State.accessOf (s : State) (c k : Nat) (u : Use) (o : Opds) : Option Access :=
  let t := s.strand c k
  let tag := u.f.m 0 6
  let one := fun (w st : Bool) (n al : Nat) => some { w := w, store := st, elems := [(0, eaOf o, n)], align := al : Access }
  let vec := fun (g : Nat) => if g == 0x0D then (8, 8) else (256, 64)
  match u.i with
  | .ldp _ => one false false (tagBytes tag) (tagBytes tag)
  | .ldw _ => one true false (tagBytes tag) (tagBytes tag)
  | .stp _ => let z := if o.c.lit then 8 else tagBytes o.c.tag; one false true z z
  | .stw _ => let z := if o.c.lit then 8 else tagBytes o.c.tag; one true true z z
  | .ldpv _ => one false false (vec tag).1 (vec tag).2
  | .ldwv _ => one true false (vec tag).1 (vec tag).2
  | .stpv _ => one false true (vec o.c.tag).1 (vec o.c.tag).2
  | .stwv _ => one true true (vec o.c.tag).1 (vec o.c.tag).2
  | .ldps _ =>
    let n := Nat.min o.c.u (2048 / t.laneBits tag)
    some { w := false, store := false, align := tagBytes tag,
           elems := (upto n).map (fun j => (j, (o.a.u : Int) + (j : Int) * o.b.s, tagBytes tag)) }
  | .ldwg _ =>
    let xs := (indexLanes o.b).take (2048 / t.laneBits tag)
    some { w := true, store := false, align := tagBytes tag,
           elems := (numbered 0 xs).map (fun p => (p.1, (o.a.u : Int) + p.2, tagBytes tag)) }
  | .stwx _ =>
    let xs := (indexLanes o.b).take (2048 / t.laneBits o.c.tag)
    some { w := true, store := true, align := tagBytes o.c.tag,
           elems := (numbered 0 xs).map (fun p => (p.1, (o.a.u : Int) + p.2, tagBytes o.c.tag)) }
  | .loopSp _ => some { w := false, store := false, elems := [(0, (o.a.u : Int), 64)], align := 64, fld := 3 }
  | .loopSw _ => some { w := true, store := false, elems := [(0, (o.a.u : Int), 64)], align := 64, fld := 3 }
  | .maccl _ f =>
    some { w := true, store := false, elems := [(0, (o.a.u : Int), if f.m 6 1 == 1 then 16384 else 8192)], align := 256, fld := 3 }
  | .maccs _ _ =>
    let d := match tileOf u.i with | some (v, n) => (((s.core c).unit v).tile n).f64 | none => false
    some { w := true, store := true, elems := [(0, (o.a.u : Int), if d then 16384 else 8192)], align := 256, fld := 3 }
  | .tspawn _ => some { w := false, store := false, elems := [(0, (o.a.u : Int), 128)], align := 64, soft := true }
  | .tfork _ => some { w := false, store := false, elems := [(0, (o.b.u : Int), 128)], align := 64, soft := true }
  | .agset _ => some { w := false, store := false, elems := [(0, (o.a.u : Int), s.tableLen c k o.a.u)], align := 8, soft := true }
  | .stcfg f => some { w := f.m 0 1 == 1, store := false, elems := [(0, (o.a.u : Int), 8 * o.b.u)], align := 8, fld := 3 }
  | _ => none

/-- The first element of an access that fails R116, as the fault it raises. -/
def State.accessFault (s : State) (c k : Nat) (u : Use) (x : Access) : Option Trap :=
  x.elems.findSome? (fun (e : Nat × Int × Nat) =>
    (s.addrBad c k x.w e.2.1 e.2.2 x.align).map (fun r =>
      s.inPlace c k r.1 (wrap 64 e.2.1) (e.1 + sylAux u.slot u.op x.fld)))

/-! ### Region blocks (R273) -/

/-- Whether an access of bundle `bno` of the strand sees the region: one of a bundle after that of an unbinding MAPR does not (R275). -/
def Region.seenBy (x : Region) (bno : Nat) : Bool := match x.closing with | some b => Nat.ble bno b | none => true

/-- The blocks of a strand's regions that n bytes of P from a touch, for an access of bundle `bno`. -/
def Strand.blocksAt (t : Strand) (bno a n : Nat) : List (Nat × Nat) :=
  (t.regions.filter (fun (r : Nat × Region) => r.2.seenBy bno)).flatMap (fun (r : Nat × Region) =>
    let lo := r.2.pbase * 4096
    ((upto r.2.size).filter (fun j => overlap a n (lo + j * 4096) 4096)).map (fun j => (r.1, j)))

def Strand.block (t : Strand) (r j : Nat) : BlockState :=
  match Table.get? t.regions r with
  | some x => Table.getD x.blocks j .empty
  | none => .clean

/-- The blocks an access of bundle `bno` touches that are EMPTY or ABSENT, in the order of the elements. -/
def Strand.unfilled (t : Strand) (bno : Nat) (x : Access) : List (Nat × Nat) :=
  if x.w then []
  else x.elems.flatMap (fun (e : Nat × Int × Nat) =>
    (t.blocksAt bno e.2.1.toNat e.2.2).filter (fun b => match t.block b.1 b.2 with | .empty => true | .absent => true | _ => false))

/-- The first block that still needs a fill for the strand's next bundle. -/
def Strand.fillFor (t : Strand) (x : Access) : Option (Nat × Nat) :=
  (t.unfilled (t.flow.bno + 1) x).find? (fun b => !t.flow.fills.any (fun g => g.1 == b.1 && g.2.1 == b.2))

/-- The VA of the first byte of P from a on that lies in block j of a region. -/
def Strand.blockByte (t : Strand) (r j a : Nat) : Nat :=
  match Table.get? t.regions r with
  | some x => let lo := (x.pbase + j) * 4096; (x.va + j) * 4096 + (Nat.max a lo - lo)
  | none => 0

/-- The fault of a fill, met by an access whose first byte in the block is at VA va. -/
def faultAtVA (t : Trap) (va : Nat) : Trap := if t.cause == 0x16 then t else { t with addr := dw va }

/-- The fault a failed fill leaves, or a store meets at an ABSENT block (R273); its address is the VA of the access's first byte in the
block. -/
def Strand.fillFault (t : Strand) (x : Access) : Option Trap :=
  if x.w then none
  else x.elems.findSome? (fun (e : Nat × Int × Nat) =>
    (t.blocksAt (t.flow.bno + 1) e.2.1.toNat e.2.2).findSome? (fun b =>
      match t.block b.1 b.2 with
      | .empty | .absent =>
        (t.flow.fills.find? (fun g => g.1 == b.1 && g.2.1 == b.2)).bind (fun g =>
          if x.store || !g.2.2.1 then some (faultAtVA g.2.2.2 (t.blockByte b.1 b.2 e.2.1.toNat)) else none)
      | _ => none))

/-! ### Condition 6 -/

/-- A hold: silent, or counting towards WLIMIT with its AUX (R32). -/
abbrev HoldKind := Option Nat

/-- The holds of the matrix units (R154). -/
def MatUnit.busy (m : MatUnit) (cyc : Nat) (i : Instr) (t : Nat) : Bool :=
  let rd := (Table.get? m.reads t).isSome
  let wr := m.ops.any (fun o => o.2.tile == t)
  let ld := m.ops.any (fun o => o.2.tile == t && (match o.2.kind with | .maccl .. => true | _ => false))
  match i with
  | .mma _ _ _ | .mmaz _ _ _ => rd || ld || Nat.blt cyc m.arrayFree
  | .mzero _ _ => rd || ld
  | .maccl _ _ => rd || wr || Nat.blt cyc m.pathFree
  | .mdrain _ _ | .maccs _ _ => wr || Nat.blt cyc m.pathFree
  | _ => false

/-- The divider (R87). -/
def usesDivider : Instr → Bool
  | .div _ _ | .divu _ _ | .rem _ _ | .remu _ _ => true
  | _ => false

/-- The knot an operation produces (R65, R164). -/
def producedKnot (u : Use) : Option Nat :=
  match u.i with
  | .strun f => some (f.m 0 4)
  | _ => if u.slot == .e then some (u.f.m 0 4) else none

/-- Whether the row keeps STCFG and STRUN waiting (R165, R166). -/
def Row.busy (r : Row) (i : Instr) : Bool :=
  match i with
  | .stcfg _ | .strun _ => r.load.isSome || r.run.isSome
  | _ => false

/-- The hold of one syllable under condition 6. -/
def State.holdOf (s : State) (c k : Nat) (u : Use) (o : Opds) : Option HoldKind :=
  let x := s.core c
  let t := x.strand k
  let mat := match tileOf u.i with | some (v, n) => (x.unit v).busy x.cyc u.i n | none => false
  let knot := match producedKnot u with | some n => t.knot n == .pending | none => false
  if (usesDivider u.i && Nat.blt x.cyc x.divFree) || mat || knot || x.row.busy u.i then some none
  else match s.accessOf c k u o with
    | none => none
    | some a =>
      if (s.accessFault c k u a).isSome then none
      else match t.fillFor a with
        | some (r, _) => some (some (2 ^ 36 + 2 * 2 ^ 37 + r * 2 ^ 40))
        | none =>
          let shaped := match u.i with | .loopSp _ => true | .loopSw _ => true | _ => false
          if shaped && (match t.flow.shape with | some (n, _) => n == 0 | none => true) then some (some (2 ^ 36 + 2 ^ 37))
          else none

/-- The slots the bundle would hold, each as often as it is held (R29). -/
def Core.heldSlots (x : Core) (k : Nat) (us : List Use) : List (Nat × Nat) :=
  us.flatMap (fun u => u.held.flatMap (fun r => (upto r.n).map (fun j => (r.sel, x.winIndex k r.sel (r.off + j)))))

/-- A read-hold count that would pass 15 (R29). -/
def Core.holdsFull (x : Core) (k : Nat) (us : List Use) : Bool :=
  let hs := x.heldSlots k us
  hs.any (fun h =>
    let q := if h.1 < 16 then ((x.strand k).queue h.1).slot h.2 else (x.mq (h.1 - 16)).slot h.2
    Nat.blt 15 (q.holds + hs.count h))

/-! ### Tags (R30, R147, R148, R151) -/

/-- A tag mismatch: operand code, tag found, run offset (R341). -/
def State.tagTrap (s : State) (c k : Nat) (u : Use) (code tag run : Nat) : Trap :=
  s.sylTrap c k u 0x05 (if code < 3 then 3 + code else 6) (tag + code * 2 ^ 6 + run * 2 ^ 9)

/-- The fd index of narrow B (R148). -/
def bfdOf (mfmt atag : Nat) : Nat := if bit mfmt 4 then fld mfmt 0 4 else atag - 0x10

/-- The A run of MMA: the first slot whose tag the format refuses. -/
def State.runFault (s : State) (c k : Nat) (u : Use) (t : MFmt) (run : List Opd) : Option Trap :=
  (numbered 0 run).findSome? (fun (p : Nat × Opd) =>
    match mfTag? t with
    | some w => if p.2.tag == w then none else some (s.tagTrap c k u 0 p.2.tag p.1)
    | none =>
      if !tNarrow p.2.tag then some (s.tagTrap c k u 0 p.2.tag p.1)
      else if bit ((s.strand c k).fd (p.2.tag - 0x10)) 13 != (t == .n8) then some (s.tagTrap c k u 4 p.2.tag p.1) else none)

/-- The form that an array writer in flight gives its tile, if it sets one (R145, R151). -/
def MatKind.form : MatKind → Option Bool
  | .mma z fmt .. => if z then some (fmt == .f64) else none
  | .zero f64 => some f64
  | .maccl f64 _ => some f64

/-- The form a tile has after every array writer issued to it: writers take effect in issue order (R154). -/
def MatUnit.formOf (m : MatUnit) (t : Nat) : Bool :=
  m.ops.foldl (fun acc o => if o.2.tile == t then o.2.kind.form.getD acc else acc) (m.tile t).f64

/-- MMA and MMAZ: the run, the tile's form, B, B's descriptor. -/
def State.mmaTags (s : State) (c k : Nat) (u : Use) (t : MFmt) (zero : Bool) (o : Opds) : Option Trap :=
  let tile := match tileOf u.i with
    | some (v, n) => { ((s.core c).unit v).tile n with f64 := ((s.core c).unit v).formOf n : Tile }
    | none => {}
  let first := match o.run with | x :: _ => x.tag | [] => 0
  let n := bfdOf tile.mfmt first
  (s.runFault c k u t o.run).or
    (if !zero && tile.f64 != (t == .f64) then some (s.tagTrap c k u 3 (if tile.f64 then 0x0C else 0x0B) 0)
     else if !o.b.lit && !tAddr o.b.tag then some (s.tagTrap c k u 1 o.b.tag 0)
     else if (mfTag? t).isNone && bit ((s.strand c k).fd n) 13 != (t == .n8) then some (s.tagTrap c k u 4 (0x10 + n) 0)
     else none)

/-- The tag check of R30 for one syllable, A then B then C. -/
def State.tagFault (s : State) (c k : Nat) (u : Use) (o : Opds) : Option Trap :=
  let t := s.strand c k
  match u.i with
  | .mma _ f _ => s.mmaTags c k u f false o
  | .mmaz _ f _ => s.mmaTags c k u f true o
  | .mdrain v f =>
    if f.m 7 1 == 1 && !((s.core c).unit (match v with | .m0 => 0 | .m1 => 1)).formOf (f.m 2 4) then
      some (s.tagTrap c k u 3 0x0B 0) else none
  | i =>
    if !o.a.lit && !accA i (t.laneBits o.a.tag == 4) o.a.tag then some (s.tagTrap c k u 0 o.a.tag 0)
    else if !o.b.lit && !accB i o.a (t.laneBits o.a.tag) (u.f.b.isQ && ((s.core c).win k u.f.b.qsel.toNat).wide) o.b.tag then
      some (s.tagTrap c k u 1 o.b.tag 0)
    else if !o.c.lit && !accC i o.a o.c.tag then some (s.tagTrap c k u 2 o.c.tag 0)
    else none

/-! ### Own values -/

/-- The trip count of a LOOP (R100, R369), or the fault of its shape record. -/
def State.tripOf (s : State) (c k : Nat) (u : Use) (o : Opds) : Except Trap Nat :=
  let t := s.strand c k
  match u.i with
  | .loopTask f => .ok (if Nat.blt (f.m 5 3) t.place.ndim then t.place.extents.getD (f.m 5 3) 1 else 1)
  | .loop _ => .ok o.a.u
  | _ =>
    match t.flow.shape with
    | some (1, n) => .ok n
    | some (3, key) => .error (s.inPlace c k 0x16 (granuleAddr key) (spaceOf key))
    | _ => .error (s.sylTrap c k u 0x18 6 0)

/-- The loop checks of R100. -/
def State.loopFault (s : State) (c k : Nat) (u : Use) (o : Opds) : Option Trap :=
  let t := s.strand c k
  match s.tripOf c k u o with
  | .error e => some e
  | .ok n =>
    if Nat.ble (2 ^ 30) n || (u.f.m 2 1 == 1 && t.kernel) || (n != 0 && t.loopTop == some 3) then some (s.sylTrap c k u 0x1B 6 0)
    else none

/-- Whether SWR may write a register at a trap level (R111). -/
def sregWritable (n tl : Nat) : Bool :=
  n == 0x009 || n == 0x00C || n == 0x010 || (Nat.ble 0x18 n && Nat.ble n 0x1B)
    || (Nat.ble 0x20 n && Nat.ble n 0x43 && Nat.ble 1 tl) || (Nat.ble 0x48 n && tl == 2)

/-- The B operand of MMA (R148). -/
def State.mmaAddr (s : State) (c k : Nat) (u : Use) (t : MFmt) (o : Opds) : Option Trap :=
  let tile := match tileOf u.i with | some (v, n) => ((s.core c).unit v).tile n | none => {}
  let st := if fld tile.mfmt 8 16 == 0 then mfSlice t else 16 * fld tile.mfmt 8 16
  let eb := o.b.u
  let hi := eb + 63 * st + mfSlice t - 1
  let bad := fun (cause : Nat) => some (s.inPlace c k cause eb (sylAux u.slot u.op 4))
  if Nat.ble (2 ^ 31) eb then bad 0x0B
  else if eb / 2 ^ 25 != vaultOf c || hi / 2 ^ 25 != vaultOf c then bad 0x0B
  else if eb % 16 != 0 then bad 0x0B
  else if (upto 64).any (fun j => wReserved (eb + j * st) || wReserved (eb + j * st + mfSlice t - 1)) then bad 0x1A
  else none

/-- A queue descriptor image (R23), as QDESC takes it. -/
def Queue.ofImage (d0 d1 : Nat) : Queue :=
  { en := bit d0 27, wide := bit d0 26, logcap := fld d0 22 4, base := fld d0 0 22, head := fld d0 32 13, tail := fld d0 45 13,
    gcred := fld d1 27 13, gtlog := fld d1 20 4, gcore := fld d1 12 8, gstr := fld d1 10 2, gq := fld d1 6 4, gtgt := bit d1 1,
    gsrc := bit d1 0 }

/-- The structural rules of R23 and R24 on an image: reserved bits; with EN = 1 LOGCAP, BASE, counters, the strand's span. -/
def Place.imageBad (p : Place) (d0 d1 : Nat) : Bool :=
  let q := Queue.ofImage d0 d1
  fld d0 58 6 != 0 || fld d0 28 4 != 0 || fld d1 40 24 != 0 || fld d1 24 3 != 0 || fld d1 2 4 != 0
    || (q.en && (q.logcap == 0 || Nat.blt 12 q.logcap || q.base % q.size != 0 || Nat.ble (2 * q.cap) q.head
      || Nat.ble (2 * q.cap) q.tail || Nat.blt q.base (p.sbase * 2 ^ 16)
      || Nat.blt ((p.sbase + p.ssize) * 2 ^ 16) (q.base + q.cap * q.size)))

/-- An extent that overlaps an enabled queue of the core, but for queue n of strand k, or a bound region (R24, R199). -/
def Core.extentTaken (x : Core) (k n : Nat) (q : Queue) : Bool :=
  x.strands.any (fun (t : Nat × Strand) =>
    t.2.queues.any (fun (y : Nat × Queue) =>
      !(t.1 == k && y.1 == n) && y.2.en && overlap q.extent.1 q.extent.2 y.2.extent.1 y.2.extent.2)
      || t.2.regions.any (fun (r : Nat × Region) => overlap q.extent.1 q.extent.2 (r.2.pbase * 4096) (r.2.size * 4096)))

/-- The layout faults of QDESC (R199, R376). -/
def State.qdescBad (s : State) (c k n d0 d1 : Nat) : Bool :=
  let x := s.core c
  let old := s.queue c k n
  let q := Queue.ofImage d0 d1
  (old.en && (old.occ != 0 || old.slots.any (fun (y : Nat × QSlot) => y.2.holds != 0) || old.gsrc || old.gtgt))
    || (s.portQ c k).contains n || (s.outQ c k).contains n
    || (s.strand c k).place.imageBad d0 d1 || q.gsrc || q.gtgt || q.gcred != 0 || q.gtlog != 0 || fld d1 2 18 != 0
    || (q.en && (q.head != q.tail || x.extentTaken k n q))

/-- The queues that a STRUN's word names: its enabled ports, and OQ where the output goes to a queue. -/
def strunQueues (w : Nat) : List Nat :=
  (if bit w 35 then [fld w 30 5] else []) ++ (if bit w 41 then [fld w 36 5] else []) ++ (if fld w 42 2 == 3 then [fld w 44 4] else [])

/-- The checks of STRUN (R166). DESIGN CHOICE (log entry 24): a selector of 20 to 31, a disabled queue and a queue of the wrong class are looked
for in the ports that the word enables. -/
def State.strunFault (s : State) (c k : Nat) (u : Use) (o : Opds) : Option Trap :=
  let x := s.core c
  let w := o.a.u
  let in0 := fld w 30 5
  let in1 := fld w 36 5
  let e0 := bit w 35
  let e1 := bit w 41
  let oq := fld w 44 4
  let toQ := fld w 42 2 == 3
  let queueBad := fun (n : Nat) =>
    n < 16 && (let q := s.queue c k n; !q.en || !q.wide || q.gsrc || q.gtgt)
  let portBad := fun (n : Nat) => Nat.ble 20 n || queueBad n || (toQ && n == oq)
  let allot := fun (n : Nat) => Nat.ble 16 n && !bit (s.strand c k).place.mallot (16 + n)
  match x.row.cfg with
  | none => some (s.sylTrap c k u 0x18 6 (x.row.bad.getD 0))
  | some g =>
    if fld w 55 9 != 0 || !tagOk (fld w 49 6) then some (s.sylTrap c k u 0x18 6 0)
    else if (e0 && portBad in0) || (e1 && portBad in1) || (toQ && queueBad oq) || o.c.s % 64 != 0 || (e0 && e1 && in0 == in1) then
      some (s.sylTrap c k u 0x04 3 0)
    else if (e0 && allot in0) || (e1 && allot in1) then some (s.sylTrap c k u 0x1A 3 0)
    else
      (g.ops.find? (fun (p : Nat × Dword) => fld p.2.toNat 58 6 == 0x0F && !(if bit p.2.toNat 0 then e1 else e0))).map
        (fun p => s.sylTrap c k u 0x18 6 (Table.getD g.index p.1 0))

/-- The checks of an instruction's own rule, made after the tag check (R67). -/
def State.ownFault (s : State) (c k : Nat) (u : Use) (o : Opds) : Option Trap :=
  let t := s.strand c k
  let acc := (s.accessOf c k u o).bind (fun a =>
    if (s.accessFault c k u a).isSome && a.soft then none else (s.accessFault c k u a).or (t.fillFault a))
  match acc with
  | some e => some e
  | none =>
    match u.i with
    | .loop _ | .loopSp _ | .loopSw _ | .loopTask _ => s.loopFault c k u o
    | .lend _ => if t.loopTop.isNone then some (s.sylTrap c k u 0x1B 6 0) else none
    | .eret _ => if t.ctx.tl == 0 then some (s.sylTrap c k u 0x1A 6 0) else none
    | .swr f => if sregWritable f.mod.toNat t.ctx.tl then none else some (s.sylTrap c k u 0x1A 1 0)
    | .pack f =>
      let g := if o.a.lit then o.b.tag else o.a.tag
      if (f.m 3 1 == 1 && tIeee g) || (f.m 4 1 == 1 && g != 0x0B) then some (s.sylTrap c k u 0x02 1 0) else none
    | .mma _ g _ => s.mmaAddr c k u g o
    | .mmaz _ g _ => s.mmaAddr c k u g o
    | .mdrain _ _ =>
      (drainQ u.i).bind (fun q =>
        let occ := ((s.core c).mq (q - 16)).occ
        if Nat.blt 64 (occ + 32) then some (s.sylTrap c k u 0x07 6 (q - 16 + occ * 4)) else none)
    | .mfmt _ _ => if fld o.a.u 24 40 != 0 || fld o.a.u 5 3 != 0 then some (s.sylTrap c k u 0x18 6 0) else none
    | .cpq f =>
      if o.b.u == 0 || (f.dst != 31 && Nat.blt (s.queue c k f.dst.toNat).cap o.b.u) then some (s.sylTrap c k u 0x04 4 0) else none
    | .stcfg _ => if o.b.u == 0 || Nat.blt 1024 o.b.u then some (s.sylTrap c k u 0x18 6 0) else none
    | .strun _ => ((strunQueues o.a.u).findSome? (s.parityOf c k)).or (s.strunFault c k u o)
    | .qdesc f => if s.qdescBad c k (f.m 0 4) o.a.u o.b.u then some (s.sylTrap c k u 0x18 6 0) else none
    | .fdset _ => if Nat.ble (2 ^ 32) o.a.u || !fdValid o.a.u then some (s.sylTrap c k u 0x18 6 0) else none
    | .tfork f =>
      if f.dst != 31 && Nat.blt (s.queue c k f.dst.toNat).cap (o.a.u % 2 ^ 7) then some (s.sylTrap c k u 0x04 2 0) else none
    | .tprio _ =>
      if o.b.u == 7 && t.place.fn != 0 then some (s.sylTrap c k u 0x1A 6 0)
      else if Nat.ble 8 o.b.u then some (s.sylTrap c k u 0x18 6 0) else none
    | _ => none

end Sys2Proof.Machine
end

