-- ==== Sys2Proof/Machine/Issue.lean ====
section
/-! DEFINITION. The issue of a bundle: the checks of R67 and R26 in their order, what the issue itself does (R27, R29, R95, R261),
and how a syllable's meaning runs within it. -/

namespace Sys2Proof.Machine

/-- What the checks of a bundle say: it issues, it faults in place of issue, or it is held; a hold that counts towards WLIMIT
gives its AUX (R32). -/
inductive Verdict
  | ok
  | fault (t : Trap)
  | held (aux : Option Nat)
deriving DecidableEq, Repr

/-- The transfer-class syllables (R95). -/
def isTransfer : Instr → Bool
  | .br _ | .brc _ | .call _ | .ret _ | .loop _ | .loopSp _ | .loopSw _ | .loopTask _ | .lend _ => true
  | _ => false

/-- What may not issue as a delay bundle (R95, R353 reason 2). -/
def delayBad : Instr → Bool
  | .eret _ | .endStrand _ => true
  | i => isTransfer i

/-- The header of a bundle (R58). -/
def Bundle.header (b : Bundle) : Nat := b.syls.foldl (fun h y => h + 2 ^ y.slot.num) (if b.yield then 256 else 0)

/-- Two syllables that name one knot as a result (R66): within a bundle only E and STRUN can name the same register. -/
def knotTwice (us : List Use) : Bool :=
  let ks := us.filterMap producedKnot
  !ks.all (fun n => ks.count n == 1)

/-- Step 1 of R67 but for the header itself: reasons 1 and 2 of R353. -/
def State.step1 (s : State) (c k : Nat) (b : Bundle) (us : List Use) : Option Trap :=
  let t := s.strand c k
  let bad := fun (reason : Nat) => some (s.inPlace c k 0x03 t.ctx.pc (Bundle.header b + reason * 2 ^ 32))
  if knotTwice us then bad 1
  else if t.ctx.seq.isSome && us.any (fun u => delayBad u.i) then bad 2
  else none

/-- Step 2 of R67: each syllable whole, in slot order; `done` are the uses of earlier syllables. -/
def State.step2 (s : State) (c k n : Nat) : List Syl → List Use → Option Trap
  | [], _ => none
  | y :: ys, done =>
    match Syl.use? y with
    | none => some (s.inPlace c k 0x02 (s.strand c k).ctx.pc (sylAux y.slot (y.raw % 2 ^ 10) 0))
    | some u =>
      let before := (done.filter (fun v => v.f.dst == u.f.dst && v.sh.dst != .none)).foldl (fun m v => m + v.apps0) 0
      match s.fieldFault c k n before u with
      | some e => some e
      | none => State.step2 s c k n ys (done ++ [u])

/-- A parity error in a queue the bundle uses (R394): one that a source, a dst or a mod field names. -/
def State.parityFault (s : State) (c k : Nat) (us : List Use) : Option Trap :=
  us.findSome? (fun u =>
    ((u.refs.map SrcRef.sel) ++ (if u.sh.dst == .none then [] else [u.f.dst.toNat]) ++ u.modQueues).findSome? (s.parityOf c k))

/-- Step 3 of R67 after the allotment check, syllable by syllable. -/
def State.step3 (s : State) (c k : Nat) : List Use → List (Nat × Nat) → Option Trap
  | [], _ => none
  | u :: us, before =>
    match (s.underflow c k u before).or (s.knotFault c k u) with
    | some e => some e
    | none => State.step3 s c k us (before ++ u.refs.map (fun r => (r.sel, r.pop)))

/-- An append to a source queue whose graft is broken (R361). -/
def State.brokenFault (s : State) (c k : Nat) (us : List Use) : Option Trap :=
  us.findSome? (fun u => if s.dstBroken c k u then some (s.sylTrap c k u 0x14 2 0) else none)

/-- The checks that need no source value (R67). Steps 1 and 2 are made in the first cycle in which the bundle is the current strand's
next one, step 3 in every cycle until it issues. DESIGN CHOICE (log entry 19): R67 names no place for the parity check of R394 and
for the broken graft of R361; both are made in every cycle, after step 2 and before the allotment check, parity first. -/
def State.earlyFault (s : State) (c k : Nat) (b : Bundle) (us : List Use) : Option Trap :=
  (if (s.strand c k).flow.checked then none else (s.step1 c k b us).or (s.step2 c k b.syls.length b.syls [])).or
    ((s.parityFault c k us).or ((s.brokenFault c k us).or
      ((us.findSome? (s.allotFault c k)).or (s.step3 c k us []))))

/-- The first condition of 1 to 4 that fails, with its AUX (R26, R359). -/
def State.blockedBy (s : State) (c k : Nat) (us : List Use) : Option Nat :=
  ((s.core c).cond1 k us).or (((s.core c).cond2 k us).or (s.cond34 c k us))

/-- The first hold under condition 6. DESIGN CHOICE (log entry 19): where several hold in one cycle, R32 does not say whether the cycle
counts; the model goes by the first of them, the full hold counts before the syllables in slot order. -/
def State.heldBy (s : State) (c k : Nat) (us : List Use) : Option HoldKind :=
  if (s.core c).holdsFull k us then some none else us.findSome? (fun u => s.holdOf c k u (s.opdsOf c k u))

/-- The tag checks, then the checks of the instructions' own rules (R67). A sum of appends that only source values make pass the
capacity (R31) is refused between them (log entry 19). -/
def State.lateFault (s : State) (c k : Nat) (us : List Use) : Option Trap :=
  (us.findSome? (fun u => s.tagFault c k u (s.opdsOf c k u))).or ((s.appsFault c k us).or
    (us.findSome? (fun u => s.ownFault c k u (s.opdsOf c k u))))

/-- The uses of a bundle's syllables. -/
def Bundle.uses (b : Bundle) : List Use := b.syls.filterMap Syl.use?

/-- Whether a bundle of a strand issues in this cycle (R26, R67). -/
def State.admission (s : State) (c k : Nat) (b : Bundle) : Verdict :=
  let us := Bundle.uses b
  match s.earlyFault c k b us with
  | some e => .fault e
  | none =>
    match s.blockedBy c k us with
    | some a => .held (some a)
    | none =>
      match s.heldBy c k us with
      | some h => .held h
      | none =>
        match s.lateFault c k us with
        | some e => .fault e
        | none => .ok

/-! ### Issue -/

/-- Take up the read-holds of the bundle (R29): a run slot s is released s + 1 cycles on, other held slots in the next cycle. -/
def State.takeHolds (s : State) (c k : Nat) : List (Nat × Nat × Nat) → State
  | [] => s
  | (sel, i, d) :: hs => State.takeHolds (s.hold c k sel i ((s.core c).cyc + d)) c k hs

/-- The storage slots the bundle holds, with the cycles until each is released. -/
def Core.holdList (x : Core) (k : Nat) (us : List Use) : List (Nat × Nat × Nat) :=
  us.flatMap (fun u => u.held.flatMap (fun r => (upto r.n).map (fun j => (r.sel, x.winIndex k r.sel (r.off + j), j + 1))))

/-- What the issue does before the syllables' effects: the holds, the bundle's number, the marks of R342. -/
def State.begin (s : State) (c k : Nat) (us : List Use) : State :=
  let s1 := s.takeHolds c k ((s.core c).holdList k us)
  let s2 := s1.modFlow c k (fun f =>
    { f with blocked := 0, bno := f.bno + 1, hent := (s.strand c k).entering, handler := Table.erase f.handler (s.strand c k).ctx.tl,
             lastPc := (s.strand c k).ctx.pc, atEdge := false })
  s2.modBundle (fun b => { b with issued := true, held := false, target := none, eret := false, loaded := false, nres := none })

/-- Apply the pops of the bundle (R27). -/
def State.popAll (s : State) (c k : Nat) (us : List Use) : List Nat → State
  | [] => s
  | sel :: sels =>
    let n := (popsOn us sel).1
    State.popAll (if n == 0 then s else s.pop c k sel n) c k us sels

/-- PC and delay sequence after a bundle whose transfer, if any, has the continuation `target` (R95, R109). -/
def Ctx.advance (x : Ctx) (target : Option Nat) : Ctx :=
  match target with
  | some g => { x with pc := (x.pc + 1) % 2 ^ 30, seq := some (1, g) }
  | none =>
    match x.seq with
    | some (1, g) => { x with pc := (x.pc + 1) % 2 ^ 30, seq := some (0, g) }
    | some (_, g) => { x with pc := g, seq := none }
    | none => { x with pc := (x.pc + 1) % 2 ^ 30 }

/-- Whether the bundle is the second delay bundle of a sequence. -/
def Ctx.lastDelay (x : Ctx) : Bool :=
  match x.seq with
  | some (0, _) => true
  | _ => false

/-- The continuation point of a kernel back-edge or kernel LOOP of the strand's trap level: BUDGET is loaded (R261), the back-edge
may honour a pre-emption at the next boundary (R101). -/
def State.continuation (s : State) (c k : Nat) : State :=
  let t := s.strand c k
  let l := t.flow.load.contains t.ctx.tl
  let e := t.flow.edge.contains t.ctx.tl
  let s1 := s.modStrand c k (fun x =>
    { x with ctx := { x.ctx with budget := if l then x.place.budgetRec else x.ctx.budget },
             flow := { x.flow with load := x.flow.load.filter (fun n => n != t.ctx.tl), edge := x.flow.edge.filter (fun n => n != t.ctx.tl), atEdge := e } })
  s1.modBundle (fun b => { b with loaded := l })

/-- What the issue does after the syllables' effects: the pops, what SWR left for the next bundle (R111), then PC and the delay sequence; ERET gives PC itself (R110), and
ends the strand when the bank says so (R349). -/
def State.retireBundle (s : State) (c k : Nat) (us : List Use) : State :=
  let s1 := s.popAll c k us (upto 20)
  let s2 := s1.modStrand c k (fun t =>
    { t with flow := { t.flow with shape := none, fills := [], checked := false }, nres := s1.bundle.nres.getD t.nres })
  if s2.bundle.eret then
    let x := (s2.strand c k).ctx
    let s3 := s2.modCtx c k Ctx.eret
    if bit (x.bank x.tl).cause.toNat 23 then s3.modFlow c k (fun f => { f with life := .ending }) else s3
  else
    let last := (s2.strand c k).ctx.lastDelay && s2.bundle.target.isNone
    let s3 := s2.modCtx c k (fun x => x.advance s2.bundle.target)
    if last then s3.continuation c k else s3

/-- One more in a saturating 8-bit counter of RASCNT (R397). -/
def State.rasInc (s : State) (d lo : Nat) : State :=
  s.modDie d (fun x => { x with ras := dw (if fld x.ras.toNat lo 8 == 255 then x.ras.toNat else x.ras.toNat + 2 ^ lo) })

/-- The field of RASCNT that a finding raises. -/
def rasField (st : ScrubStore) (f : ScrubFinding) : Option Nat :=
  match st, f with
  | _, .clean => none
  | .scratchpad, .corrected => some 16
  | .vault, .corrected => some 8
  | .lpddr, .corrected => some 0
  | .scratchpad, .uncorrectable => some 56
  | .vault, .uncorrectable => some 48
  | .lpddr, .uncorrectable => some 40

/-- The die of a key. -/
def dieOfKey (k : Nat) : Nat :=
  if k < 2 ^ 34 then dieOf (k / 2 ^ 22) else if k < 2 ^ 42 then (k - 2 ^ 34) / 2 ^ 31 else (k - 2 ^ 42) / 2 ^ 39

/-- The store of a key; host memory has no counter. -/
def storeOf (k : Nat) : Option ScrubStore :=
  if k < 2 ^ 34 then some .scratchpad else if k < 2 ^ 42 then some .vault else if k < keyH 0 then some .lpddr else none

/-- An error of a unit is counted in RASCNT of its die (R397). -/
def State.rasFound (s : State) (key : Nat) (f : ScrubFinding) : State :=
  match (storeOf key).bind (fun st => rasField st f) with
  | some lo => s.rasInc (dieOfKey key) lo
  | none => s

/-- A fault in place of issue is taken: the return word is the bundle's own (R109, R339). A queue-state parity error is counted
(R394, R397). -/
def State.faultInPlace (s : State) (c k : Nat) (t : Trap) : State :=
  let x := s.strand c k
  let s0 := if t.cause == 0x16 && (t.aux.toNat % 8 == 4 || t.aux.toNat % 8 == 5) then s.rasInc (dieOf c) 24 else s
  s0.takeTrap c k t (returnWord x.ctx.pc x.ctx.seq) x.entering false

/-- The bundle that holds one instruction alone. -/
def soloBundle (i : Instr) (sl : Slot) (op : Nat) (f : Fields) : Bundle :=
  { yield := false, syls := [{ slot := sl, raw := f.toNat op, instr := some i }] }

/-- The meaning of a syllable with effect `eff`. Within an admitted bundle it is the effect; alone it is the issue of the bundle
that holds it: a fault in place of issue, a hold, or the effect between what the issue itself does. -/
def issueOne (i : Instr) (eff : State → State) (s : State) : Host.Outcome State Fault Refusal :=
  if s.bundle.admitted then .next (eff s)
  else
    match i.opcode, i.fields with
    | some (sl, op), some f =>
      let c := s.bundle.core
      let k := s.bundle.strand
      let b := soloBundle i sl op f
      match s.admission c k b with
      | .fault t => .next (s.faultInPlace c k t)
      | .held _ => .next (s.modBundle (fun x => { x with held := true }))
      | .ok => .next ((eff (s.begin c k (Bundle.uses b))).retireBundle c k (Bundle.uses b))
    | _, _ => .next s

end Sys2Proof.Machine
end

