-- ==== Sys2Proof/Machine/IssueUnit.lean ====
section
/-! DEFINITION. The issue unit's own rows: fetch (R58, R363), the next bundle's verdict, empty bundles (R59), hand-overs (R21), wait
limits and budgets (R32, R107, R261), the taking of traps and deferred faults (R339-R345, R349), kills (R346), read-holds (R29). -/

namespace Sys2Proof.Machine

/-! ### Fetch -/

/-- The text page and the W address of bundle pc of an object on a die (R284). -/
def Code.textPage (x : Code) (die pc : Nat) : Nat := (Table.getD x.pages die []).getD (64 * pc / 2 ^ 18) 0
def Code.textW (x : Code) (die pc : Nat) : Nat := textPageW (x.textPage die pc) + 64 * pc % 2 ^ 18

/-- A page is added to those found poisoned. -/
def insertPage (p : Nat) (ps : List Nat) : List Nat := if ps.contains p then ps else ps ++ [p]

/-- The words of a strand's next bundle, or the fault of its fetch (R363): of a page found poisoned every fetch faults until its repair
(R398). DESIGN CHOICE (log entry 11): a fetch from a die that has lost its copy (R413) faults as one that meets poison, with ADDR 0. -/
def State.fetch (s : State) (c k : Nat) : Except Trap (List Word) :=
  let t := s.strand c k
  let beyond := .error (s.inPlace c k 0x0B (64 * t.ctx.pc) 0)
  match Table.get? s.codes t.place.code with
  | none => beyond
  | some x =>
    if Nat.ble x.nb t.ctx.pc then beyond
    else if (Table.get? x.pages (dieOf c)).isNone then .error (s.inPlace c k 0x16 0 1)
    else
      let wa := x.textW (dieOf c) t.ctx.pc
      let key := keyW (dieOf c) wa
      if (s.die (dieOf c)).badText.contains (x.textPage (dieOf c) t.ctx.pc) || (s.firstPoison ((upto 4).map (fun i => key + 16 * i))).isSome
      then .error (s.inPlace c k 0x16 (wa / 64 * 64) 1)
      else .ok (wordsOfNat (Memory.readNat s.mem key 64))

/-- A fetch that meets poison finds its text page poisoned (R398). -/
def State.findPage (s : State) (c k : Nat) : State :=
  let t := s.strand c k
  match s.fetch c k, Table.get? s.codes t.place.code with
  | .error e, some x =>
    if e.cause == 0x16 then
      s.modDie (dieOf c) (fun d => { d with badText := insertPage (x.textPage (dieOf c) t.ctx.pc) d.badText })
    else s
  | _, _ => s

/-- The state as the checks of a strand's bundle see it: its words are the literal pool. -/
def State.withWords (s : State) (c k : Nat) (ws : List Word) : State :=
  s.modBundle (fun b => { b with core := c, strand := k, words := ws })

/-- The strand's next bundle, or the fault of its fetch or header (R59). -/
def State.nextBundle (s : State) (c k : Nat) : Except Trap (List Word × Bundle) :=
  match s.fetch c k with
  | .error t => .error t
  | .ok ws =>
    match decodeBundle ws with
    | .ok b => .ok (ws, b)
    | .error (.badHeader h) => .error (s.inPlace c k 0x03 (s.strand c k).ctx.pc h)
    | .error .short => .error (s.inPlace c k 0x03 (s.strand c k).ctx.pc 0)

/-- What the checks say of a strand's next bundle. -/
def State.verdict (s : State) (c k : Nat) : Verdict :=
  match s.nextBundle c k with
  | .error t => .fault t
  | .ok (ws, b) => (s.withWords c k ws).admission c k b

/-- Whether a strand is at its next bundle: it lives, has issued no END, does not hold, and no wait keeps it. -/
def Strand.atBundle (t : Strand) : Bool :=
  (match t.flow.life with | .running => true | _ => false) && t.flow.wait == .none && t.flow.xwait.isNone

/-! ### Hand-overs -/

def State.modIssue (s : State) (c : Nat) (f : Issue → Issue) : State := s.modCore c (fun x => { x with issue := f x.issue })

/-- An empty bundle issues (R59): PC, and the hand-over with YIELD. -/
def execEmptyBundle (yield : Bool) (s : State) : Host.Outcome State Fault Refusal :=
  let c := s.bundle.core
  let k := s.bundle.strand
  let b : Bundle := { yield := yield, syls := [] }
  match s.admission c k b with
  | .ok =>
    let s1 := (s.begin c k []).retireBundle c k []
    .next (if yield then s1.modIssue c (fun x => { x with handOver := true }) else s1)
  | .fault t => .next (s.faultInPlace c k t)
  | .held _ => .next (s.modBundle (fun x => { x with held := true }))

/-- The run limit (R21): after 256 consecutive bundles a hand-over is due. -/
def execRunLimit (core : Nat) (s : State) : Host.Outcome State Fault Refusal :=
  .next (s.modIssue core (fun x => if Nat.ble 256 x.runs then { x with handOver := true } else x))

/-- Whether a strand is ready in this cycle (R21): it is at a bundle that issues or faults, and took no wait-limit expiry in this cycle. -/
def State.readyNow (s : State) (c k : Nat) : Bool :=
  (s.strand c k).atBundle && !(s.bundle.core == c && s.bundle.barred.contains k)
    && (match s.verdict c k with | .held _ => false | _ => true)

/-- The ready strands after the current one, counting cyclically (R21). -/
def State.readyAfter (s : State) (c : Nat) : List Nat :=
  let cur := (s.core c).issue.cur
  ([1, 2, 3].map (fun d => (cur + d) % 4)).filter (s.readyNow c)

/-- Another strand becomes current (R21). -/
def Issue.switch (x : Issue) (k : Nat) : Issue := { x with cur := k, runs := 0, handOver := false }

/-- The current strand is blocked and another is ready: it becomes current, and issues from the next core cycle on (R21). -/
def execSwitchOnBlockedBundle (core : Nat) (s : State) : Host.Outcome State Fault Refusal :=
  if s.readyNow core (s.core core).issue.cur then .next s
  else match s.readyAfter core with
    | [] => .next s
    | k :: _ => .next (s.modIssue core (fun x => x.switch k))

/-! ### Traps -/

/-- The first due fault whose issuing level is at or above the strand's (R340). A strand that holds for a pre-emption takes no budget fault:
the dispatcher kills its task (R262). -/
def Strand.takeable (t : Strand) : Option (Nat × Trap) :=
  t.flow.due.find? (fun d => Nat.ble t.ctx.tl d.2.itl && !(t.flow.life == .holding && d.2.cause == 0x11))

/-- A strand in no wait stands at a boundary (R340). -/
def Strand.atBoundary (t : Strand) : Bool := t.live && t.flow.wait == .none && t.flow.xwait.isNone

/-- A trap is taken by a strand (R345): in place of issue, or after it with the marks of R342. -/
def execTakeTrap (core strand : Nat) (t : Trap) (s : State) : Host.Outcome State Fault Refusal :=
  let x := s.strand core strand
  if !x.live then .next s
  else match t.kind with
    | .inPlace => .next ((if t.cause == 0x16 then s.findPage core strand else s).faultInPlace core strand t)
    | .postIssue => .next (s.takeTrap core strand t (returnWord x.ctx.pc x.ctx.seq) x.flow.hent (x.flow.life == .ending))
    | .deferred => .next (s.takeTrap core strand t (returnWord x.ctx.pc x.ctx.seq) false (x.flow.life == .ending))

/-- Withdraw the pre-emption request of a task: the strands that hold resume (R262, R351). -/
def State.withdraw (s : State) (key : Nat) : State :=
  match s.task? key with
  | some t =>
    if t.request.isSome then
      (t.panel.foldl (fun (s1 : State) p =>
        if p.2.2 == .cast then
          s1.modFlow p.1 p.2.1 (fun f => { f with life := match f.life with | .holding => .running | l => l })
        else s1) s).setTask key { t with request := none }
    else s
  | none => s

/-- The oldest due fault the strand's level lets it take is taken (R340); a strand that holds for a pre-emption resumes (R351). A
post-issue trap that was left due keeps its bundle's return word and mark (R365). -/
def execDeferredFaultTaken (core strand : Nat) (s : State) : Host.Outcome State Fault Refusal :=
  let x := s.strand core strand
  match x.takeable with
  | some d =>
    if !x.atBoundary then .next s
    else
      let s1 := s.modFlow core strand (fun f => { f with due := f.due.erase d })
      let s2 := if x.flow.life == .holding then s1.withdraw (taskKey x.place.fn x.place.task) else s1
      .next (s2.takeTrap core strand d.2 (d.2.ret.getD (returnWord x.ctx.pc x.ctx.seq)) d.2.hent (x.flow.life == .ending))
  | none => .next s

/-- Whether an accumulator tile the strand is allotted is busy, or a result queue it is allotted holds slots (R37). -/
def State.matrixBusy (s : State) (c k : Nat) : Bool :=
  let x := s.core c
  let m := (x.strand k).place.mallot
  x.units.any (fun (u : Nat × MatUnit) => u.2.ops.any (fun o => bit m (16 * u.1 + o.2.tile)) || u.2.reads.any (fun r => bit m (16 * u.1 + r.1)))
    || (upto 4).any (fun n => bit m (32 + n) && (x.mq n).occ != 0)

/-- Whether a window of the strand holds an orphaned slot (R358). -/
def Strand.orphaned (t : Strand) : Bool :=
  t.queues.any (fun (q : Nat × Queue) => q.2.en && (upto q.2.occ).any (fun o => (q.2.slot (q.2.index o)).orphan))

/-- At the continuation of a kernel back-edge that meets the target, the strand honours a pre-emption request: it holds (R37, R262,
R349 item 5, R350). DESIGN CHOICE (log entry 30): a strand in whose window a slot is orphaned while it holds goes on at its continuation,
the request still pending, as R358 says of one that has not held yet. -/
def State.tryHold (s : State) (c k : Nat) : State :=
  let t := s.strand c k
  match s.task? (taskKey t.place.fn t.place.task) with
  | none => s
  | some g =>
    match g.request, t.loopTop with
    | some i, some n =>
      if t.flow.atEdge && t.atBundle && t.ctx.tl == 0 && lseK (t.lse n) && Nat.ble i (lseIter (t.lse n)) && !s.matrixBusy c k
          && !t.orphaned then
        s.modFlow c k (fun f => { f with life := .holding })
      else if t.flow.life == .holding && t.orphaned then s.modFlow c k (fun f => { f with life := .running })
      else s
    | _, _ => s

/-- A task is killed (R346-R348). -/
def execKill (fn task : Nat) (k : KillInfo) (s : State) : Host.Outcome State Fault Refusal := .next (s.kill fn task k)

/-- A bundle has been held for a counting reason in WLIMIT issue cycles (R32): the expiry is taken in place of its issue, and the handler's
first bundle issues in a later core cycle (R345). -/
def execWaitLimitExpiry (core strand : Nat) (s : State) : Host.Outcome State Fault Refusal :=
  let x := s.strand core strand
  if x.atBundle && x.ctx.wlimit != 0 && Nat.ble x.ctx.wlimit x.flow.blocked then
    match s.verdict core strand with
    | .held (some a) =>
      .next ((s.faultInPlace core strand (s.inPlace core strand 0x06 x.ctx.pc a)).modBundle (fun b => { b with barred := strand :: b.barred }))
    | _ => .next s
  else .next s

/-- Whether the condition of a wait holds (R105, R106); a phase ends by its own row (R112). -/
def State.waitOver (s : State) (c k : Nat) : Bool :=
  let x := s.strand c k
  match x.flow.wait with
  | .none => true
  | .start t => Nat.ble t (s.core c).cyc
  | .knot n _ => x.knot n != .pending
  | .queue q o _ => ((s.core c).absent k q 0 (o + 1) false).isNone
  | .phase => false

/-- The limit of a wait: 0 for none (R105, R107). -/
def Strand.waitLimit (t : Strand) : Nat :=
  match t.flow.wait with
  | .start _ => 0
  | .knot _ l => if l == 0 then t.ctx.wlimit else l
  | .queue _ _ l => if l == 0 then t.ctx.wlimit else l
  | _ => t.ctx.wlimit

/-- The AUX of a wait that runs out (R107, R359). -/
def State.waitAux (s : State) (c k : Nat) : Nat :=
  let x := s.strand c k
  match x.flow.wait with
  | .none => 0
  | .start _ => 0
  | .knot n _ => 2 ^ 30 + n + (x.knot n).code * 2 ^ 4
  | .phase => 2 * 2 ^ 30 + x.phaseno % 2 ^ 32 * 2 ^ 32
  | .queue q o _ =>
    let d := x.queue q
    let j := ((s.core c).absent k q 0 (o + 1) false).getD 0
    let orph := Nat.blt j d.occ && (d.slot (d.index j)).orphan
    3 * 2 ^ 30 + q + (d.head + j) % (2 * d.cap) * 2 ^ 4 + d.tail % 2 ^ 13 * 2 ^ 17 + (if orph then 2 ^ 35 else 0)

/-- The limit of a KWAIT, QWAIT or PHASE wait runs out: a post-issue trap of the waiting bundle (R107). -/
def execWaitExpiry (core strand : Nat) (s : State) : Host.Outcome State Fault Refusal :=
  let x := s.strand core strand
  if x.live && x.flow.wait != .none && x.waitLimit != 0 && Nat.ble x.waitLimit x.flow.waited && !s.waitOver core strand then
    let t := s.postTrap core strand 0x06 x.flow.lastPc (s.waitAux core strand)
    .next (s.modFlow core strand (fun f => { f with wait := .none, waited := 0, post := t :: f.post }))
  else .next s

/-- BUDGET reaches 0 at the end of an issue cycle (R261): a post-issue trap of the bundle that issued, else a due fault. -/
def execBudgetFault (core strand : Nat) (s : State) : Host.Outcome State Fault Refusal :=
  let x := s.strand core strand
  if x.live && x.ctx.budget == 1 then
    let t := s.postTrap core strand 0x11 x.flow.lastPc x.place.budgetRec
    let s1 := s.modCtx core strand (fun y => { y with budget := 0 })
    if s.bundle.issued && s.bundle.core == core && s.bundle.strand == strand then
      .next (s1.modFlow core strand (fun f => { f with post := f.post ++ [t] }))
    else .next (s1.due core strand t)
  else .next s

/-- A read of a held slot completes (R29). -/
def execReadHoldRelease (core id : Nat) (s : State) : Host.Outcome State Fault Refusal :=
  match Table.get? (s.core core).flight.holds id with
  | some h =>
    .next ((s.modFlight core (fun f => { f with holds := Table.erase f.holds id })).modSlot core h.strand h.q h.idx
      (fun x => { x with holds := x.holds - 1 }))
  | none => .next s

end Sys2Proof.Machine
end

