-- ==== Sys2Proof/Machine/Access.lean ====
section
/-! DEFINITION. Accesses in flight: vault touches with the granule tags (R384, R385), the touches and times of loads and stores (R17,
R123), shape fetches (R99, R100). -/

namespace Sys2Proof.Machine

/-- Mesh hops from a core to the vault of a W address (R15). -/
def hopsTo (c wa : Nat) : Nat := hops c (wa / 2 ^ 25 % 64)

/-- The mesh term of n cycles a hop from core c to the vault of a W address: it spans that vault's core (R15, R325). -/
def State.mesh (s : State) (c wa n : Nat) : Nat := s.slower c (dieOf c * 64 + wa / 2 ^ 25 % 64) (n * hopsTo c wa)

/-- The R17 figure of a W load and the R123 figure of a W store. -/
def State.loadTime (s : State) (c wa : Nat) : Nat := 14 + s.mesh c wa 4
def State.storeTime (s : State) (c wa : Nat) : Nat := 8 + s.mesh c wa 2

/-- An access will touch a granule of the core's die in cycle `due` (R385). -/
def State.touchAt (s : State) (c k due granule : Nat) (wrote : Bool) (what : TouchFor) : State :=
  let x := s.strand c k
  let y : Touch :=
    { strand := k, bno := x.flow.bno, tl := x.ctx.tl, die := dieOf c, granule := granule, wrote := wrote, what := what }
  let (id, s1) := s.fresh
  (s1.modFlight c (fun f => { f with touches := Table.set f.touches id y })).at_ c due false k (.vaultTouch c id)

/-! ### Granule tags -/

/-- Whether an epoch is live on a die (R384). -/
def Die.epochLive (d : Die) (e : Nat) : Bool := d.live.any (fun p => p.1 == e)

/-- What the check of R385 does to a granule's records: the entry it conflicts with, and the new records; none holds the access. -/
def tagCheck (d : Die) (recs : List GranRec) (e core strand : Nat) (wrote : Bool) : Option (Option (Nat × Nat × Bool) × List GranRec) :=
  let recs := recs.filter (fun r => d.epochLive r.epoch)
  match recs.find? (fun r => r.epoch == e) with
  | some r =>
    let hit := r.ents.find? (fun y => !(y.1 == core && y.2.1 == strand) && (wrote || y.2.2))
    let upd :=
      if r.ents.any (fun y => y.1 == core && y.2.1 == strand) then
        r.ents.map (fun y => if y.1 == core && y.2.1 == strand then (y.1, y.2.1, y.2.2 || wrote) else y)
      else if Nat.blt r.ents.length 2 then r.ents ++ [(core, strand, wrote)] else r.ents
    some (hit, recs.map (fun q => if q.epoch == e then { q with ents := if hit.isSome then r.ents else upd } else q))
  | none =>
    if Nat.blt recs.length 2 then some (none, recs ++ [{ epoch := e, ents := [(core, strand, wrote)] }]) else none

/-- A strand's access reaches a granule (R385): the check, the conflict it reports to the strand, the tag's error (R393). None: the
access is held at the vault. -/
def State.granule (s : State) (c : Nat) (t : Touch) : Option State :=
  let d := s.die t.die
  let x := s.strand c t.strand
  if d.bad.contains t.granule then
    some ((s.modDie t.die (fun y => { y with bad := y.bad.filter (fun g => g != t.granule), tags := Table.erase y.tags t.granule })).due
      c t.strand { cause := 0x16, kind := .deferred, addr := dw (t.granule * 64), aux := 1, engine := none, itl := t.tl })
  else if !d.epochLive x.epoch then some s
  else match tagCheck d (Table.getD d.tags t.granule []) x.epoch (vaultOf c) t.strand t.wrote with
    | none => none
    | some (hit, recs) =>
      let s1 := s.modDie t.die (fun y => { y with tags := Table.set y.tags t.granule recs })
      match hit with
      | none => some s1
      | some (b, st, y) =>
        some (s1.due c t.strand
          { cause := 0x0C, kind := .deferred, addr := dw (t.granule * 64), engine := none, itl := t.tl,
            aux := dw (t.die * 64 + b + st * 2 ^ 8 + bnat t.wrote * 2 ^ 10 + bnat y * 2 ^ 11 + x.phaseno % 2 ^ 32 * 2 ^ 32) })

/-! ### Loads and region blocks (R273) -/

/-- Whether a key lies in an ABSENT block of the regions that a strand's access of bundle `bno` sees (R273). -/
def State.absentKey (s : State) (c k bno key : Nat) : Bool :=
  ((s.strand c k).blocksAt bno (key % 2 ^ 22) 1).any (fun b => (s.strand c k).block b.1 b.2 == .absent)

/-- The first poisoned byte that a strand's load of bundle `bno` reads: neither its own earlier store nor an ABSENT block stands
for it. -/
def State.loadPoison (s : State) (c k bno : Nat) (w : Bool) (keys : List Nat) : Option Nat :=
  if s.poison.isEmpty then none
  else keys.find? (fun key => s.poisoned key && (overlay (s.core c).flight.stores k bno key).isNone && (w || !s.absentKey c k bno key))

/-- A byte of P or W as a load of the strand reads it: zero in an ABSENT block (R273). -/
def State.loadByte (s : State) (c k bno key : Nat) (w : Bool) : Byte :=
  if !w && s.absentKey c k bno key then 0 else s.view c k bno key

/-! ### Shape fetches -/

/-- The LOOP.SP or LOOP.SW a bundle holds, with the address of its shape record, once the slot of its address is present and the blocks of a
bound region that the record lies in are filled (R273). -/
def State.shapeUse (s : State) (c k : Nat) : Option (Use × Bool × Nat) :=
  match s.nextBundle c k with
  | .error _ => none
  | .ok (ws, b) =>
    (Bundle.uses b).findSome? (fun u =>
      let s1 := s.withWords c k ws
      let o := s1.opdsOf c k u
      let there := u.refs.all (fun r => ((s.core c).absent k r.sel r.off r.n false).isNone)
        && ((s1.accessOf c k u o).bind (s1.accessFault c k u)).isNone
        && ((s1.accessOf c k u o).bind (s.strand c k).fillFor).isNone
      match u.i with
      | .loopSp _ => if there then some (u, false, o.a.u) else none
      | .loopSw _ => if there then some (u, true, o.a.u) else none
      | _ => none)

/-- The fetch of the shape record that the next bundle waits for begins (R100): in the first cycle in which its address is there. -/
def State.startShape (s : State) (c k : Nat) : State :=
  if (s.strand c k).flow.shape.isSome then s
  else match s.shapeUse c k with
    | none => s
    | some (_, w, a) =>
      let cyc := (s.core c).cyc
      let due := cyc + (if w then s.loadTime c a else 4)
      let s1 := s.modFlow c k (fun f => { f with shape := some (0, due) })
      let s2 := if w then s1.touchAt c k (cyc + 7 + s.mesh c a 2) (a / 64) false .shape else s1
      s2.at_ c due false k (.shapeFetchReturn c k)

/-- Whether eight dwords are a shape record (R99). DESIGN CHOICE (log entry 19): R99 says of an unused extent only that `.shape` writes it
as zero; the model takes a non-zero one as a breach of the layout. -/
def shapeOk (d : List Nat) : Bool :=
  let n := d.getD 0 0
  Nat.ble 1 n && Nat.ble n 6 && (upto 6).all (fun i => Nat.blt (d.getD (i + 1) 0) (2 ^ 30) && (Nat.blt i n || d.getD (i + 1) 0 == 0))
    && d.getD 7 0 == 0

/-- The extent of dimension `dim` of a shape record (R99). -/
def shapeExtent (d : List Nat) (dim : Nat) : Nat := if Nat.blt dim (d.getD 0 0) then d.getD (dim + 1) 1 else 1

/-- Whether a strand's touch for its shape record is still to come. -/
def Flight.shapeOut (f : Flight) (k : Nat) : Bool :=
  f.touches.any (fun t => t.2.strand == k && (match t.2.what with | .shape => true | _ => false))

/-- The shape record returns (R100), not before its vault access (R385): its extent, a bad record, or a poisoned unit. -/
def execShapeFetchReturn (core strand : Nat) (s : State) : Host.Outcome State Fault Refusal :=
  let x := s.strand core strand
  match x.flow.shape, s.shapeUse core strand with
  | some (0, due), some (u, w, a) =>
    if Nat.blt (s.core core).cyc due then .next s
    else if (s.core core).flight.shapeOut strand then .next (s.again core false strand (.shapeFetchReturn core strand))
    else
      let key := if w then keyW (dieOf core) a else keyP core a
      let d := dwords ((upto 64).map (fun i => s.loadByte core strand (x.flow.bno + 1) (key + i) w)) 8
      let r := match s.loadPoison core strand (x.flow.bno + 1) w ((upto 8).map (fun i => key + 8 * i)) with
        | some p => (3, p)
        | none => if shapeOk d then (1, shapeExtent d (u.f.m 5 3)) else (2, 0)
      .next (s.modFlow core strand (fun f => { f with shape := some r }))
  | _, _ => .next s

end Sys2Proof.Machine
end

