-- ==== Sys2Proof/Machine/Gcm.lean ====
section
/-! DEFINITION. AES-256-GCM (R299; NIST SP 800-38D, FIPS 197) and CRC-32C (R296), on bytes. -/

namespace Sys2Proof.Machine

/-! ### AES-256 (FIPS 197): a block is 16 bytes in order, as numbers -/

/-- The S-box, 16 bytes a number, lowest first. -/
def sboxRows : List Nat :=
  [0x76ABD7FE2B670130C56F6BF27B777C63, 0xC072A49CAFA2D4ADF04759FA7DC982CA, 0x1531D871F1E5A534CCF73F362693FDB7,
   0x75B227EBE28012079A059618C323C704, 0x842FE329B3D63B52A05A6E1B1A2C8309, 0xCF584C4A39BECB6A5BB1FC20ED00D153,
   0xA89F3C507F02F94585334D43FBAAEFD0, 0xD2F3FF1021DAB6BCF5389D928F40A351, 0x73195D643D7EA7C41744975FEC130CCD,
   0xDB0B5EDE14B8EE4688902A22DC4F8160, 0x79E4959162ACD3C25C2406490A3A32E0, 0x08AE7A65EAF4566CA94ED58D6D37C8E7,
   0x8A8BBD4B1F74DDE8C6B4A61C2E2578BA, 0x9E1DC186B95735610EF6034866B53E70, 0xDF2855CEE9871E9B948ED9691198F8E1,
   0x16BB54B00F2D99416842E6BF0D89A18C]

def sbox (x : Nat) : Nat := fld (sboxRows.getD (x / 16) 0) (8 * (x % 16)) 8

/-- Multiplication by x in GF(2^8). -/
def xtime (a : Nat) : Nat := if Nat.blt a 128 then 2 * a else Nat.xor (2 * a - 256) 0x1B

def xorBytes (a b : List Nat) : List Nat := (a.zip b).map (fun p => Nat.xor p.1 p.2)

/-- SubBytes and ShiftRows: byte r + 4c takes byte r + 4((c + r) mod 4). -/
def subShift (s : List Nat) : List Nat := (upto 16).map (fun i => sbox (s.getD ((i + 4 * (i % 4)) % 16) 0))

/-- MixColumns of one column. -/
def mixColumn (a b c d : Nat) : List Nat :=
  let t := Nat.xor (Nat.xor a b) (Nat.xor c d)
  [Nat.xor a (Nat.xor t (xtime (Nat.xor a b))), Nat.xor b (Nat.xor t (xtime (Nat.xor b c))),
   Nat.xor c (Nat.xor t (xtime (Nat.xor c d))), Nat.xor d (Nat.xor t (xtime (Nat.xor d a)))]

def mixColumns : List Nat → List Nat
  | a :: b :: c :: d :: t => mixColumn a b c d ++ mixColumns t
  | _ => []

/-- The next eight words of the key schedule after eight. -/
def nextKeys (k : List Nat) (rcon : Nat) : List Nat :=
  let w := fun (i : Nat) => (k.drop (4 * i)).take 4
  let t0 := [Nat.xor (sbox (k.getD 29 0)) rcon, sbox (k.getD 30 0), sbox (k.getD 31 0), sbox (k.getD 28 0)]
  let w0 := xorBytes (w 0) t0
  let w1 := xorBytes (w 1) w0
  let w2 := xorBytes (w 2) w1
  let w3 := xorBytes (w 3) w2
  let w4 := xorBytes (w 4) (w3.map sbox)
  let w5 := xorBytes (w 5) w4
  let w6 := xorBytes (w 6) w5
  let w7 := xorBytes (w 7) w6
  w0 ++ w1 ++ w2 ++ w3 ++ w4 ++ w5 ++ w6 ++ w7

/-- The round keys after the first 32 bytes. -/
def moreKeys : Nat → Nat → List Nat → List Nat
  | 0, _, _ => []
  | n + 1, rcon, k => let k1 := nextKeys k rcon; k1 ++ moreKeys n (xtime rcon) k1

/-- The 15 round keys of AES-256, 16 bytes each. -/
def roundKeys (key : List Nat) : List Nat := (key ++ moreKeys 7 1 key).take 240

def aesRounds : Nat → List Nat → List Nat → List Nat
  | 0, s, k => xorBytes (subShift s) k
  | n + 1, s, k => aesRounds n (xorBytes (mixColumns (subShift s)) (k.take 16)) (k.drop 16)

/-- AES-256 of a block under round keys. -/
def aesBlock (keys s : List Nat) : List Nat := aesRounds 13 (xorBytes s (keys.take 16)) (keys.drop 16)

/-! ### GCM (SP 800-38D): GHASH reads a block as a number, its first byte highest -/

def beNat (bs : List Nat) : Nat := bs.foldl (fun n b => n * 256 + b) 0
def beBytes : Nat → Nat → List Nat
  | 0, _ => []
  | n + 1, v => v / 256 ^ n % 256 :: beBytes n v

/-- The product of GHASH, from the highest bit of x down. -/
def gfMul (x : Nat) : Nat → Nat → Nat → Nat
  | 0, z, _ => z
  | n + 1, z, v => gfMul x n (if bit x n then Nat.xor z v else z) (if v % 2 == 1 then Nat.xor (v / 2) (0xE1 * 2 ^ 120) else v / 2)

def ghash (h : Nat) : Nat → List Nat → Nat → Nat
  | 0, _, y => y
  | n + 1, bs, y =>
    let b := bs.take 16
    ghash h n (bs.drop 16) (gfMul (Nat.xor y (beNat (b ++ List.replicate (16 - b.length) 0))) 128 0 h)

/-- The keystream from counter block n on. -/
def gcmStream (keys iv : List Nat) : Nat → Nat → List Nat
  | 0, _ => []
  | k + 1, n => aesBlock keys (iv ++ beBytes 4 n) ++ gcmStream keys iv k (n + 1)

/-- What AES-256-GCM makes of a text, sealed or opened: the text exclusive-ored with the keystream. -/
def gcmCrypt (key iv text : List Nat) : List Nat := xorBytes text (gcmStream (roundKeys key) iv (ceilDiv text.length 16) 2)

/-- The tag of additional data and a ciphertext. -/
def gcmTag (key iv aad cipher : List Nat) : List Nat :=
  let keys := roundKeys key
  let h := beNat (aesBlock keys (List.replicate 16 0))
  let pad := fun (bs : List Nat) => bs ++ List.replicate (ceilDiv bs.length 16 * 16 - bs.length) 0
  let data := pad aad ++ pad cipher ++ beBytes 8 (8 * aad.length) ++ beBytes 8 (8 * cipher.length)
  xorBytes (beBytes 16 (ghash h (data.length / 16) data 0)) (aesBlock keys (iv ++ [0, 0, 0, 1]))

/-! ### CRC-32C (R296): the Castagnoli polynomial, bits of each byte from the lowest -/

def crcBits : Nat → Nat → Nat
  | 0, c => c
  | n + 1, c => crcBits n (if c % 2 == 1 then Nat.xor (c / 2) 0x82F63B78 else c / 2)

/-- CRC-32C of bytes, with the all-ones start and end that go with the polynomial (RFC 3720). -/
def crc32c (bs : List Nat) : Nat := Nat.xor (bs.foldl (fun c b => crcBits 8 (Nat.xor c b)) 0xFFFFFFFF) 0xFFFFFFFF

end Sys2Proof.Machine
end

