-- ==== Sys2Proof/Machine/Link.lean ====
section
/-! DEFINITION. The Quavos links (R295-R304): flits, sealing, ports, routes, transactions sent and flits taken from a port. What the
payload of each flit holds beside data is the model's own layout (log entry 13). -/

namespace Sys2Proof.Machine

/-! ### Flits (R296) -/

def flitType (f : Flit) : Nat := fld f.header.toNat 60 4
def flitDst (f : Flit) : Nat := fld f.header.toNat 48 12
def flitSrc (f : Flit) : Nat := fld f.header.toNat 36 12
def flitFn (f : Flit) : Nat := fld f.header.toNat 29 7
def flitE2E (f : Flit) : Bool := bit f.header.toNat 28
def flitLast (f : Flit) : Bool := bit f.header.toNat 27
def flitTid (f : Flit) : Nat := fld f.header.toNat 16 11
def flitOfs (f : Flit) : Nat := fld f.header.toNat 0 16

/-- The bytes of a flit before its CRC (R296): header, payload, tag, link word. -/
def flitBytes (f : Flit) : List Nat :=
  (bytesLE 8 f.header.toNat ++ bytesLE 96 f.payload.toNat ++ bytesLE 16 f.auth.toNat
    ++ bytesLE 4 (f.seq.toNat + f.ack.toNat * 2 ^ 12 + (if f.nak then 2 ^ 24 else 0))).map BitVec.toNat

/-- A flit with its CRC, and whether a flit passes it (R296). -/
def withCrc (f : Flit) : Flit := { f with crc := BitVec.ofNat 32 (crc32c (flitBytes f)) }
def crcPasses (f : Flit) : Bool := f.crc.toNat == crc32c (flitBytes f)

/-- A flit to send: its type, destination, function, transaction, payload units and the era of the keys it is sealed in (none: the current
one). -/
structure Letter where
  typ   : Nat
  dst   : Nat
  fn    : Nat
  tid   : Nat
  units : List (BitVec 768)
  era   : Option Nat := none
deriving DecidableEq, Repr

def flitHeader (src : Nat) (l : Letter) (e2e last : Bool) (ofs : Nat) : Dword :=
  dw (l.typ * 2 ^ 60 + l.dst % 2 ^ 12 * 2 ^ 48 + src % 2 ^ 12 * 2 ^ 36 + l.fn % 2 ^ 7 * 2 ^ 29 + (if e2e then 2 ^ 28 else 0)
    + (if last then 2 ^ 27 else 0) + l.tid % 2 ^ 11 * 2 ^ 16 + ofs % 2 ^ 16)

/-- Payload units (log entry 13): a head unit with a VA, a length and the mark of a fill for a store (R273), a status unit with a cause, a status word, whether the
page was only not resident, and a VA, data. -/
def unitHead (va len : Nat) (store : Bool := false) : BitVec 768 :=
  BitVec.ofNat 768 (va % 2 ^ 64 + len % 2 ^ 64 * 2 ^ 64 + (if store then 2 ^ 128 else 0))
def unitStatus (cause status va : Nat) (nr : Bool := false) : BitVec 768 :=
  BitVec.ofNat 768 (cause + status * 2 ^ 8 + (if nr then 2 ^ 40 else 0) + va * 2 ^ 64)

def unitsOf : Nat → List Byte → List (BitVec 768)
  | 0, _ => []
  | n + 1, bs => BitVec.ofNat 768 (ofBytes (bs.take 96)) :: unitsOf n (bs.drop 96)

/-- Bytes cut into 96-byte units. -/
def dataUnits (bs : List Byte) : List (BitVec 768) := unitsOf (ceilDiv bs.length 96) bs

/-- The bytes of a data unit that begins at byte `at_` of `len`. -/
def unitBytes (p : BitVec 768) (at_ len : Nat) : List Byte := bytesLE (Nat.min 96 (len - at_)) p.toNat

/-! ### Ports and routes (R297, R304) -/

def State.port (s : State) (p : Nat) : Port := Table.getD s.fab.ports p {}
def State.modPort (s : State) (p : Nat) (f : Port → Port) : State :=
  s.modFab (fun x => { x with ports := Table.set x.ports p (f (s.port p)) })
def State.fnFab (s : State) (v : Nat) : FnFab := Table.getD s.fab.fns v {}
def State.modFnFab (s : State) (v : Nat) (f : FnFab → FnFab) : State :=
  s.modFab (fun x => { x with fns := Table.set x.fns v (f (s.fnFab v)) })

/-- The ports of a route that are UP, ascending: none when the module is unreachable. -/
def State.upPorts (s : State) (m : Nat) : List Nat :=
  let r := (Table.getD s.fab.routes m 0).toNat
  if fld r 24 5 == 0 then [] else (setBits 24 r).filter (fun p => (s.port p).up)

/-- The port of a transaction to module m (R304). -/
def State.portFor (s : State) (m tid : Nat) : Option Nat :=
  match s.upPorts m with
  | [] => none
  | ps => ps[tid % ps.length]?

/-- The key of a function for a peer, now or as an era had it (R303). -/
def FnFab.keyOf (x : FnFab) (peer : Nat) : Option Nat → Option SealKey
  | none => Table.get? x.keys peer
  | some n =>
    match Table.get? x.keys peer with
    | some k => if Nat.ble k.born n then some k else (x.past.find? (fun q => q.peer == peer && Nat.ble q.key.born n && Nat.blt n q.till)).map PastKey.key
    | none => (x.past.find? (fun q => q.peer == peer && Nat.ble q.key.born n && Nat.blt n q.till)).map PastKey.key

/-- A key back in its place with its counters moved on. -/
def FnFab.setKey (x : FnFab) (peer : Nat) (k : SealKey) : FnFab :=
  if ((Table.get? x.keys peer).map SealKey.born) == some k.born then { x with keys := Table.set x.keys peer k }
  else { x with past := x.past.map (fun q => if q.peer == peer && q.key.born == k.born then { q with key := k } else q) }

/-- Whether the path of a function to a module is end to end (R302). -/
def State.endToEnd (s : State) (fn m : Nat) : Bool := (Table.get? (s.fnFab fn).keys m).isSome

/-! ### Sealing (R299, R300) -/

def keyLimit : Nat := 2 ^ 48

/-- Numbers as bytes and back. -/
def natsOf (n v : Nat) : List Nat := (bytesLE n v).map BitVec.toNat
def ofNats (bs : List Nat) : Nat := ofBytes (bs.map (BitVec.ofNat 8))

/-- The IV of R299: the salt, then the flit counter. DEDUCED (log entry 8): each little-endian, as R3 has every multi-byte value. -/
def SealKey.iv (k : SealKey) (count : Nat) : List Nat := natsOf 4 k.salt.toNat ++ natsOf 8 count

/-- A payload exclusive-ored with the keystream of a flit counter, and the tag of a header and a sealed payload (R299). -/
def SealKey.crypt (k : SealKey) (count : Nat) (p : BitVec 768) : BitVec 768 :=
  BitVec.ofNat 768 (ofNats (gcmCrypt (natsOf 32 k.key.toNat) (k.iv count) (natsOf 96 p.toNat)))
def SealKey.tag (k : SealKey) (count : Nat) (h : Dword) (c : BitVec 768) : BitVec 128 :=
  BitVec.ofNat 128 (ofNats (gcmTag (natsOf 32 k.key.toNat) (k.iv count) (natsOf 8 h.toNat) (natsOf 96 c.toNat)))

/-- Seal a payload: what is sent and its tag. -/
def SealKey.seal (k : SealKey) (h : Dword) (p : BitVec 768) : BitVec 768 × BitVec 128 :=
  let c := k.crypt k.tx p
  (c, k.tag k.tx h c)

/-- Open a payload, or fail its authentication. -/
def SealKey.unseal (k : SealKey) (f : Flit) : Option (BitVec 768) :=
  if k.tag k.rx f.header f.payload == f.auth then some (k.crypt k.rx f.payload) else none

/-- Put a flit into a port's retry buffer; it is sent at once while the buffer has room (R297). -/
def Port.push (p : Port) (f : Flit) : Port :=
  let g := withCrc { f with seq := BitVec.ofNat 12 p.txSeq, ack := BitVec.ofNat 12 p.rxSeq }
  { p with txSeq := (p.txSeq + 1) % 2 ^ 12, retry := p.retry ++ [g], sent := if Nat.blt p.retry.length 512 then g :: p.sent else p.sent }

/-- A flit before it is put on a link. -/
def rawFlit (h : Dword) (c : BitVec 768) (a : BitVec 128) (nak : Bool) : Flit :=
  { header := h, payload := c, auth := a, seq := 0, ack := 0, nak := nak, crc := 0 }

/-- Send a flit that is not sealed end to end on a port (R300). A port that seals hop by hop without a key for its epoch, or under a
key that has sealed 2^48 flits, sends nothing. -/
def State.emitHop (s : State) (p : Nat) (h : Dword) (u : BitVec 768) (nak : Bool := false) : State :=
  if (s.port p).hbh then
    match Table.get? (s.port p).keys (s.port p).epoch with
    | none => s
    | some k =>
      if Nat.ble keyLimit k.tx then s
      else
        let (c, a) := k.seal h u
        s.modPort p (fun x => { x.push (rawFlit h c a nak) with keys := Table.set x.keys x.epoch { k with tx := k.tx + 1 } })
  else s.modPort p (fun x => x.push (rawFlit h u 0 nak))

/-- Send one flit on a port, sealed by exactly one key (R300). A key that has sealed 2^48 flits seals no more (R299). -/
def State.emit (s : State) (p : Nat) (l : Letter) (last : Bool) (ofs : Nat) (u : BitVec 768) : State :=
  match (s.fnFab l.fn).keyOf l.dst l.era with
  | some k =>
    let h := flitHeader s.fab.modid l true last ofs
    if Nat.ble keyLimit k.tx then s
    else
      let (c, a) := k.seal h u
      (s.modFnFab l.fn (fun x => x.setKey l.dst { k with tx := k.tx + 1 })).modPort p
        (fun x => x.push (rawFlit h c a false))
  | none => s.emitHop p (flitHeader s.fab.modid l false last ofs) u

def State.emitAll (s : State) (p : Nat) (l : Letter) : Nat → List (BitVec 768) → State
  | _, [] => s
  | n, u :: us => State.emitAll (s.emit p l us.isEmpty n u) p l (n + 1) us

/-- Send a letter on a port. -/
def State.post (s : State) (p : Nat) (l : Letter) : State := s.emitAll p l 0 l.units

/-- Send a letter to a module by its route; a module with no UP port gets nothing. -/
def State.mail (s : State) (l : Letter) : State :=
  match s.portFor l.dst l.tid with
  | some p => s.post p l
  | none => s

/-! ### Transactions at their source -/

def firstFree (t : Table Txn) : Nat → Nat → Nat
  | 0, n => n
  | k + 1, n => if (Table.get? t (n % 2048)).isSome then firstFree t k (n + 1) else n % 2048

/-- Start a transaction (R305): none when no port toward the peer is UP. -/
def State.startTxn (s : State) (x : Txn) (typ : Nat) (units : List (BitVec 768)) : Option State :=
  let tid := firstFree s.fab.txns 2048 s.fab.tid
  match s.portFor x.peer tid with
  | none => none
  | some p =>
    let s1 := s.modFab (fun f => { f with tid := (tid + 1) % 2048, txns := Table.set f.txns tid { x with port := p } })
    some (s1.post p { typ := typ, dst := x.peer, fn := x.fn, tid := tid, units := units, era := x.era })

/-- The transactions of an operation. -/
def State.txnsOf (s : State) (o : Nat) : List (Nat × Txn) := s.fab.txns.filter (fun t => t.2.op == o)

def State.dropTxns (s : State) (o : Nat) : State := s.modFab (fun f => { f with txns := f.txns.filter (fun t => t.2.op != o) })

/-! ### Taking a flit from a port (R297, R299, R300) -/

/-- One more in a saturating counter. -/
def satInc (max n : Nat) : Nat := if Nat.ble max n then max else n + 1

/-- A flit is discarded (R297): it is counted, and an idle flit returns NAK with the expected SEQ in its ACK field, sealed like any other
(R300; log entry 13). -/
def State.discard (s : State) (p : Nat) : State :=
  (s.modPort p (fun x => { x with crcerr := satInc 65535 x.crcerr })).emitHop p
    (flitHeader s.fab.modid { typ := 0, dst := 0, fn := 0, tid := 0, units := [] } false true 0) 0 true

/-- Whether a flit that arrives at a port is accepted by R297: it passes its CRC, is in SEQ order and has a TYPE that is not
reserved. -/
def Port.accepts (p : Port) (f : Flit) : Bool := crcPasses f && f.seq.toNat == p.rxSeq && Nat.ble (flitType f) 9

/-- ACK releases the entries before it; entries that come within the buffer are sent (R297). -/
def Port.acked (p : Port) (ack : Nat) : Port :=
  match p.retry with
  | [] => p
  | g :: _ =>
    let n := (ack + 2 ^ 12 - g.seq.toNat) % 2 ^ 12
    if Nat.ble n (Nat.min 512 p.retry.length) then
      let more := (p.retry.drop 512).take n
      { p with retry := p.retry.drop n, sent := more.reverse ++ p.sent, naks := if n == 0 then p.naks else none }
    else p

/-- The keys a port may open a flit with: of its epoch, of a handshake under way, and of the old epoch until the handshake ends. -/
def Port.openers (p : Port) : List Nat := p.epoch :: (p.newEp.toList ++ (p.asked.toList ++ p.prev.toList))

/-- What a port makes of an accepted flit that is not sealed end to end: its payload and the port with the key's counter. -/
def Port.opened (p : Port) (f : Flit) : Option (BitVec 768 × Port) :=
  if !p.hbh then some (f.payload, p)
  else p.openers.findSome? (fun e =>
    (Table.get? p.keys e).bind (fun k => (k.unseal f).map (fun u => (u, { p with keys := Table.set p.keys e { k with rx := k.rx + 1 } }))))

/-- What taking a flit gives: nothing to do, a payload for this module, or an end-to-end flit that failed its authentication. -/
inductive Taken
  | none | payload (u : BitVec 768) | forged
deriving DecidableEq, Repr

/-- Send a flit of another module on toward its destination. -/
def State.relay (s : State) (f : Flit) (u : BitVec 768) : State :=
  match s.portFor (flitDst f) (flitTid f) with
  | none => s
  | some p =>
    if flitE2E f then s.modPort p (fun x => x.push f) else s.emitHop p f.header u

/-- The keys that may open a flit sealed end to end: the held one; for a reply or a flit of a COLL also those of operations that started
before it (R303). -/
def FnFab.openers (x : FnFab) (f : Flit) : List SealKey :=
  (Table.get? x.keys (flitSrc f)).toList
    ++ (if [2, 4, 5, 7, 8].contains (flitType f) then (x.past.filter (fun q => q.peer == flitSrc f)).map PastKey.key else [])

/-- A flit of type `typ` arrives at a port: what this module takes of it. -/
def State.takeFlit (s : State) (p : Nat) (f : Flit) (typ : Nat) : Taken × State :=
  let x := s.port p
  if !x.up then (.none, s)
  else if !x.accepts f then (.none, s.discard p)
  else if flitType f != typ then (.none, s)
  else
    let x1 := { x.acked f.ack.toNat with rxSeq := (x.rxSeq + 1) % 2 ^ 12 }
    if flitE2E f then
      let s1 := s.modPort p (fun _ => x1)
      if flitDst f != s.fab.modid then (.none, s1.relay f 0)
      else
        let miss := s1.modPort p (fun y => { y with autherr := satInc 255 y.autherr })
        let next := fun (k : SealKey) (s2 : State) =>
          s2.modFnFab (flitFn f) (fun y => y.setKey (flitSrc f) { k with rx := k.rx + 1 })
        let ks := (s.fnFab (flitFn f)).openers f
        match ks.findSome? (fun k => (k.unseal f).map (fun u => (k, u))), ks with
        | some (k, u), _ => (.payload u, next k s1)
        | none, k :: _ => (.forged, next k miss)
        | none, [] => (.forged, miss)
    else match x1.opened f with
      | none => (.none, (s.modPort p (fun y => { y with autherr := satInc 255 y.autherr })).discard p)
      | some (u, x2) =>
        let s1 := s.modPort p (fun _ => x2)
        if typ != 0 && typ != 9 && flitDst f != s.fab.modid then (.none, s1.relay f u) else (.payload u, s1)

end Sys2Proof.Machine
end

