-- ==== Sys2Proof/Machine/MemSlot.lean ====
section
/-! DEFINITION. The P and W slots (R116-R124), the writing of results into their slots (R28, R123, R127), stores performed, vault
touches (R385). -/

namespace Sys2Proof.Machine

/-! ### What a syllable of the bundle in progress touches -/

/-- The use of a P or W syllable. -/
def memUse (sl : Slot) (i : Instr) (f : Fields) : Use := { slot := sl, op := 0, i := i, f := f, sh := (shape i).getD Shape.nil }

/-- The operands and the access of a P or W syllable of the bundle in progress. -/
def State.memAccess (s : State) (sl : Slot) (i : Instr) (f : Fields) : Opds × Access :=
  let u := memUse sl i f
  let o := s.opdsOf s.bundle.core s.bundle.strand u
  (o, (s.accessOf s.bundle.core s.bundle.strand u o).getD { w := false, store := false, elems := [], align := 1 })

/-- A deferred uncorrectable error at a key (R393). -/
def State.deferPoison (s : State) (c k tl key : Nat) : State :=
  s.due c k { cause := 0x16, kind := .deferred, addr := dw (granuleAddr key), aux := dw (spaceOf key), engine := none, itl := tl }

/-! ### Loads -/

/-- The slot offset of an element of an access: its lane times the element size, 0 for the whole-slot forms (R118-R121). -/
def slotOffset (e : Nat × Int × Nat) : Nat := e.1 * e.2.2

/-- A load's result as reserved: scalar forms extend what they read (R118). -/
def State.loadFin (s : State) (i : Instr) (f : Fields) : LoadFin :=
  match i with
  | .ldp _ | .ldw _ => .scalar (s.me.laneBits (f.m 0 6) == 4)
  | _ => .whole

/-- The data of a load when its slot is written (R51, R48). -/
def LoadFin.finish (x : LoadFin) (tag : Nat) (v : SlotBits) : SlotBits :=
  match x with
  | .whole => v
  | .scalar nibble => BitVec.ofNat 2048 (extendElem (!nibble) tag v.toNat)

/-- A load that met ABSENT blocks (R277): one more in CNT; the first block when NR was 0. -/
def State.noteAbsent (s : State) (c k : Nat) (x : Access) : State :=
  let t := s.strand c k
  match (t.unfilled t.flow.bno x).find? (fun b => t.block b.1 b.2 == .absent) with
  | none => s
  | some b =>
    let v := t.nres.toNat
    let cnt := fld v 0 8
    let n := if cnt == 255 then 255 else cnt + 1
    let page := ((Table.get? t.regions b.1).map (fun (r : Region) => r.va)).getD 0 + b.2
    let v1 := if bit v 63 then setFld v 0 8 n else 2 ^ 63 + page % 2 ^ 45 * 2 ^ 12 + b.1 * 2 ^ 8 + n
    s.modStrand c k (fun y => { y with nres := dw v1 })

/-- The bytes of an access's elements as (slot offset, key). -/
def Access.cellsOf (x : Access) (base : Nat) : List (Nat × Nat) :=
  x.elems.flatMap (fun e => (upto e.2.2).map (fun j => (slotOffset e + j, base + e.2.1.toNat + j)))

/-- The slot with bytes at their offsets. -/
def slotOf (cells : List (Nat × Byte)) : SlotBits :=
  BitVec.ofNat 2048 (cells.foldl (fun acc c => acc + c.2.toNat * 2 ^ (8 * c.1)) 0)

/-- A P load (R118-R120): it reads at issue; a poisoned unit orphans its slot (R393). -/
def pLoadEff (i : Instr) (f : Fields) (lat : Opds → Access → Nat) (s : State) : State :=
  let c := s.bundle.core
  let k := s.bundle.strand
  let (o, x) := s.memAccess .p i f
  let bno := s.me.flow.bno
  let cells := x.cellsOf (keyP c 0)
  let v := (s.loadFin i f).finish (f.m 0 6) (slotOf (cells.map (fun p => (p.1, s.loadByte c k bno p.2 false))))
  let s1 := s.noteAbsent c k x
  match s.loadPoison c k bno false (cells.map Prod.snd) with
  | none => s1.appendTo f.dst.toNat (f.m 0 6) v (lat o x)
  | some key =>
    let s2 := s1.deferPoison c k s.me.ctx.tl key
    if f.dst == 31 then s2
    else
      let (id, s3) := s2.reservePend c k f.dst.toNat (f.m 0 6) 0 .whole
      s3.orphan c id

/-- The granules of a W access, ascending, each once. -/
def Access.granules (x : Access) : List Nat :=
  sortUniq (x.elems.flatMap (fun e => (upto (if e.2.2 == 0 then 0 else ceilDiv (e.2.1.toNat % 64 + e.2.2) 64)).map (fun j => e.2.1.toNat / 64 + j)))

/-- What a granule supplies to the slot: (W address, length, slot offset). -/
def Access.parts (x : Access) (g : Nat) : List (Nat × Nat × Nat) :=
  x.elems.flatMap (fun e =>
    if e.2.2 ≤ 64 then (if e.2.1.toNat / 64 == g then [(e.2.1.toNat, e.2.2, slotOffset e)] else [])
    else if Nat.ble (e.2.1.toNat / 64) g && Nat.blt g (e.2.1.toNat / 64 + ceilDiv e.2.2 64) then
      [(g * 64, 64, slotOffset e + (g * 64 - e.2.1.toNat))] else [])

/-- The touches of a W access's granules, each at the midpoint of its round trip (R385). -/
def State.touchAll (s : State) (c k : Nat) (what : Nat → TouchFor) : List Nat → State
  | [] => s
  | g :: gs => State.touchAll (s.touchAt c k ((s.core c).cyc + 7 + s.mesh c (g * 64) 2) g false (what g)) c k what gs

/-- The largest of a figure over granules, with the added term of the indexed forms (R123). -/
def slowest (fig : Nat → Nat) (gs : List Nat) : Nat := gs.foldl (fun m g => Nat.max m (fig (g * 64))) 0
def gatherTerm (gs : List Nat) : Nat := ceilDiv gs.length 8 - 1

/-- A W load (R118, R119, R121): each granule is read when the access touches it. -/
def wLoadEff (i : Instr) (f : Fields) (lat : List Nat → Nat) (s : State) : State :=
  let c := s.bundle.core
  let k := s.bundle.strand
  let (_, x) := s.memAccess .w i f
  let gs := x.granules
  let (id, s1) := if f.dst == 31 then (0, s)
    else
      let (id, s1) := s.reservePend c k f.dst.toNat (f.m 0 6) 0 (s.loadFin i f)
      (id, s1.at_ c ((s.core c).cyc + lat gs) false k (.slotWrite c id))
  s1.touchAll c k (fun g => .load id (x.parts g)) gs

/-! ### Stores -/

/-- The blocks of the strand's regions that a store of bundle `bno` touches become DIRTY (R273). -/
def State.markDirty (s : State) (c k bno a n : Nat) : State :=
  ((s.strand c k).blocksAt bno a n).foldl (fun (s1 : State) b =>
    s1.modStrand c k (fun t => { t with regions := match Table.get? t.regions b.1 with
      | some r => Table.set t.regions b.1 { r with blocks := Table.set r.blocks b.2 .dirty }
      | none => t.regions })) s

/-- The granules of W that a store touches, ascending. -/
def granulesOf (w : Bool) (cells : List (Nat × Byte)) : List Nat :=
  if w then sortUniq (cells.map (fun c => c.1 % 2 ^ 31 / 64)) else []

/-- A store issues: its cells are pending until it is performed in cycle c + lat (R123). -/
def State.issueStore (s : State) (c k : Nat) (w : Bool) (cells : List (Nat × Byte)) (lat : Nat) : State :=
  let x := s.strand c k
  let (id, s1) := s.fresh
  (s1.modFlight c (fun f =>
    { f with stores := Table.set f.stores id { strand := k, bno := x.flow.bno, w := w, tl := x.ctx.tl, cells := cells, grans := granulesOf w cells } })).at_ c
    ((s1.core c).cyc + lat) false k (.storePerformed c id)

/-- The bytes a scalar or vector store writes: bits of slot C, a 4-bit narrow element as one byte (R118, R119). -/
def State.storeBytes (s : State) (o : Opds) (n : Nat) : List Byte :=
  let v := if !o.c.lit && tNarrow o.c.tag && s.me.laneBits o.c.tag == 4 && n == 1 then o.c.val % 16 else o.c.val
  bytesLE n v

/-- STP, STW, STPV, STWV. -/
def storeEff (w : Bool) (i : Instr) (f : Fields) (s : State) : State :=
  let c := s.bundle.core
  let k := s.bundle.strand
  let (o, x) := s.memAccess (if w then .w else .p) i f
  let a := (eaOf o).toNat
  let n := ((x.elems.head?).map (fun e => e.2.2)).getD 0
  let key := if w then keyW (dieOf c) a else keyP c a
  let s1 := s.issueStore c k w (cellsAt key (s.storeBytes o n)) (if w then s.storeTime c a else 2)
  let s2 := if w then s1 else s1.markDirty c k s.me.flow.bno a n
  s2.trace c k 2 a

/-- STWX (R122): the lanes in ascending order. -/
def stwxEff (f : Fields) (s : State) : State :=
  let c := s.bundle.core
  let k := s.bundle.strand
  let (o, x) := s.memAccess .w (.stwx f) f
  let w := s.me.laneBits o.c.tag
  let cells := x.elems.flatMap (fun e =>
    cellsAt (keyW (dieOf c) e.2.1.toNat) (bytesLE e.2.2 (fld o.c.val (w * e.1) w)))
  let gs := x.granules
  (s.issueStore c k true cells (slowest (s.storeTime c) gs + gatherTerm gs)).trace c k 2 o.a.u

/-! ### Results -/

/-- Whether a touch that a pending result still waits for is outstanding. -/
def Flight.waits (f : Flight) (id : Nat) : Bool :=
  f.touches.any (fun t => match t.2.what with | .load p _ => p == id | _ => false)

/-- A result is written into its slot, or into its graft's stream (R28, R34). A load whose vault access is held waits. -/
def execSlotWrite (core id : Nat) (s : State) : Host.Outcome State Fault Refusal :=
  match Table.get? (s.core core).flight.pends id with
  | none => .next s
  | some p =>
    if (s.core core).flight.waits id then .next (s.again core false p.strand (.slotWrite core id))
    else
      let v := p.fin.finish p.tag p.val
      if p.graft then
        let s1 := s.modFlight core (fun f => { f with pends := Table.set f.pends id { p with val := v, ready := true } })
        .next (State.drainGraft s1 core p.strand p.q (s1.core core).flight.pends)
      else
        .next ((s.modFlight core (fun f => { f with pends := Table.erase f.pends id })).fillSlot core p.strand p.q p.idx p.tag v)

/-! ### Stores performed -/

/-- Whether accesses of the strand that a store's bytes must wait for are still to come: earlier ones (R124), reads of the matrix units
of its own bundle too (R153). -/
def Flight.earlier (f : Flight) (die : Nat) (st : PStore) (id : Nat) : Bool :=
  let hit := fun (g : Nat) => st.cells.any (fun c => c.1 / 64 == keyW die (g * 64) / 64)
  f.touches.any (fun t => t.2.strand == st.strand && Nat.ble t.2.bno st.bno && st.w && hit t.2.granule)
    || f.stores.any (fun y => y.2.strand == st.strand && Nat.blt y.1 id && y.2.cells.any (fun c => st.cells.any (fun d => d.1 == c.1)))

/-- The touches of a store's granules in the cycle in which it is performed (R385); none when one of them is held. -/
def State.storeTouches (s : State) (c : Nat) (st : PStore) : List Nat → Option State
  | [] => some s
  | g :: gs =>
    match s.granule c { strand := st.strand, bno := st.bno, tl := st.tl, die := dieOf c, granule := g, wrote := true, what := .store } with
    | some s1 => State.storeTouches s1 c st gs
    | none => none

/-- A stitch output that leaves a poisoned unit unwritten fails its run (R393, R344). -/
def State.rowPoison (s : State) (c : Nat) (st : PStore) (key : Nat) : State :=
  s.modCore c (fun x =>
    { x with row := { x.row with run := x.row.run.map (fun r =>
        { r with fail := r.fail.or ((s.op? r.op).map (fun e =>
            e.fault 0x16 (granuleAddr key) st.iter (poisonBits key + spaceBits (bnat st.w)))) }) } })

/-! ### Vault touches -/

/-- Take the bytes of a touched granule into a load's slot. -/
def takeParts (s : State) (c k bno : Nat) (parts : List (Nat × Nat × Nat)) : List (Nat × Byte) :=
  parts.flatMap (fun p => (upto p.2.1).map (fun j => (p.2.2 + j, s.view c k bno (keyW (dieOf c) (p.1 + j)))))

/-- Whether a B byte or MACCL byte at a W address belongs to a matrix operation (R148, R152). -/
def MatKind.needs (x : MatKind) (a : Nat) : Bool :=
  match x with
  | .mma _ _ _ _ _ _ eb st sl =>
    let d := a - eb
    Nat.ble eb a && Nat.blt (d - Nat.min 63 (d / st) * st) sl
  | .zero _ => false
  | .maccl f64 ea => Nat.ble ea a && Nat.blt a (ea + (if f64 then 16384 else 8192))

/-- A touched granule's bytes reach a matrix operation; a poisoned unit spoils it (R393). -/
def State.feedMat (s : State) (c u op : Nat) (t : Touch) : State :=
  match Table.get? ((s.core c).unit u).ops op with
  | none => s
  | some m =>
    let as := ((upto 64).map (fun j => t.granule * 64 + j)).filter m.kind.needs
    let bad := s.loadPoison c t.strand t.bno true (as.map (keyW t.die))
    let bytes := as.foldl (fun y a => Memory.write y a (s.view c t.strand t.bno (keyW t.die a))) m.bytes
    let m1 := { m with bytes := bytes, bad := m.bad.or bad }
    s.modUnit c u (fun x => { x with ops := Table.set x.ops op m1 })

/-- The dwords of a stitch image that lie in a touched granule (R165); a poisoned unit spoils the image (R393). -/
def State.feedImage (s : State) (c : Nat) (t : Touch) (base : Nat) : State :=
  match (s.core c).row.load with
  | none => s
  | some (due, ws) =>
    let mine := (upto ws.length).filter (fun i => (base + 8 * i) / 64 == t.granule)
    let keys := mine.flatMap (fun i => (upto 8).map (fun j => keyW t.die (base + 8 * i + j)))
    match s.loadPoison c t.strand t.bno true keys with
    | some key => (s.deferPoison c t.strand t.tl key).modCore c (fun y => { y with row := { y.row with load := some (due, []) } })
    | none =>
      let word := fun (i : Nat) => dw (ofBytes ((upto 8).map (fun j => s.view c t.strand t.bno (keyW t.die (base + 8 * i + j)))))
      s.modCore c (fun y => { y with row := { y.row with
        load := some (due, (numbered 0 ws).map (fun p => if mine.contains p.1 then word p.1 else p.2)) } })

/-- Whether an earlier access of the strand has still to touch the same granule: its reads of a unit are taken in issue order (R124,
R236 item 3). -/
def Flight.touchBefore (f : Flight) (id : Nat) (t : Touch) : Bool :=
  f.touches.any (fun y => Nat.blt y.1 id && y.2.strand == t.strand && y.2.die == t.die && y.2.granule == t.granule)

/-- A strand's access touches a granule (R385): the tag check, then what the access reads there. -/
def execVaultTouch (core id : Nat) (s : State) : Host.Outcome State Fault Refusal :=
  match Table.get? (s.core core).flight.touches id with
  | none => .next s
  | some t =>
    match (if (s.core core).flight.touchBefore id t then none else s.granule core t) with
    | none => .next (s.again core false t.strand (.vaultTouch core id))
    | some s0 =>
      let s1 := s0.modFlight core (fun f => { f with touches := Table.erase f.touches id })
      match t.what with
      | .load pend parts =>
        (match s1.loadPoison core t.strand t.bno true (parts.flatMap (fun p => (upto p.2.1).map (fun j => keyW t.die (p.1 + j)))) with
        | some key => .next ((s1.orphan core pend).deferPoison core t.strand t.tl key)
        | none =>
          let v := slotOf (takeParts s1 core t.strand t.bno parts)
          .next (s1.modFlight core (fun f =>
            { f with pends := match Table.get? f.pends pend with
              | some p => Table.set f.pends pend { p with val := p.val ||| v }
              | none => f.pends })))
      | .mma u op => .next (s1.feedMat core u op t)
      | .maccl u op => .next (s1.feedMat core u op t)
      | .image base => .next (s1.feedImage core t base)
      | .shape | .store => .next s1

/-! ### Meanings -/

def oneLat (n : Nat) (_ : Opds) (_ : Access) : Nat := n

/-- ⌈n/16⌉ - 1 beyond 4 (R123). DESIGN CHOICE (log entry 15): with n = 0 the formula of R123 gives 3, and R17 says that no load takes less
than 4; the model gives 4. -/
def ldpsLat (_ : Opds) (x : Access) : Nat := if x.elems.isEmpty then 4 else 4 + ceilDiv x.elems.length 16 - 1

def State.wholeLat (s : State) (gs : List Nat) : Nat := slowest (s.loadTime s.bundle.core) gs

/-- R118. -/
def execLdp (f : Fields) (s : State) : Host.Outcome State Fault Refusal := issueOne (.ldp f) (pLoadEff (.ldp f) f (oneLat 4)) s
/-- R118. -/
def execLdw (f : Fields) (s : State) : Host.Outcome State Fault Refusal :=
  issueOne (.ldw f) (fun s => wLoadEff (.ldw f) f s.wholeLat s) s
/-- R118. -/
def execStp (f : Fields) (s : State) : Host.Outcome State Fault Refusal := issueOne (.stp f) (storeEff false (.stp f) f) s
/-- R118. -/
def execStw (f : Fields) (s : State) : Host.Outcome State Fault Refusal := issueOne (.stw f) (storeEff true (.stw f) f) s
/-- R119. -/
def execLdpv (f : Fields) (s : State) : Host.Outcome State Fault Refusal := issueOne (.ldpv f) (pLoadEff (.ldpv f) f (oneLat 4)) s
/-- R119. -/
def execLdwv (f : Fields) (s : State) : Host.Outcome State Fault Refusal :=
  issueOne (.ldwv f) (fun s => wLoadEff (.ldwv f) f s.wholeLat s) s
/-- R119. -/
def execStpv (f : Fields) (s : State) : Host.Outcome State Fault Refusal := issueOne (.stpv f) (storeEff false (.stpv f) f) s
/-- R119. -/
def execStwv (f : Fields) (s : State) : Host.Outcome State Fault Refusal := issueOne (.stwv f) (storeEff true (.stwv f) f) s
/-- R120. -/
def execLdps (f : Fields) (s : State) : Host.Outcome State Fault Refusal := issueOne (.ldps f) (pLoadEff (.ldps f) f ldpsLat) s
/-- R121. -/
def execLdwg (f : Fields) (s : State) : Host.Outcome State Fault Refusal :=
  issueOne (.ldwg f) (fun s => wLoadEff (.ldwg f) f (fun gs => s.wholeLat gs + gatherTerm gs) s) s
/-- R122. -/
def execStwx (f : Fields) (s : State) : Host.Outcome State Fault Refusal := issueOne (.stwx f) (stwxEff f) s

end Sys2Proof.Machine
end

