-- ==== Sys2Proof/Machine/Engine.lean ====
section
/-! DEFINITION. Engine operations (R169-R173): their issue, their accesses in P, W and VA space (R172, R177, R271, R278, R305, R421),
the blocks of bound regions (R273, R421), the copy engine (R176-R180, R387), the scatter-accumulate engine (R181, R182). -/

namespace Sys2Proof.Machine

/-! ### Issue (R169, R170) -/

/-- An unbinding MAPR closes its region to the strand's later accesses (R275). -/
def State.closeRegion (s : State) (c k : Nat) (kind : OpKind) : State :=
  match kind with
  | .mapr w _ =>
    if fld w 22 10 == 0 && fld w 12 10 == 0 then
      s.modStrand c k (fun t =>
        { t with regions := match Table.get? t.regions (fld w 32 4) with
          | some r => Table.set t.regions (fld w 32 4) { r with closing := some (r.closing.getD t.flow.bno) }
          | none => t.regions })
    else s
  | _ => s

/-- An operation of the bundle in progress: its knot becomes pending; it starts in the next cycle, or once the operations whose
knots it consumes have ended (R169). -/
def State.launch (s : State) (engine knot : Nat) (kind : OpKind) (consumed slots : List Nat) : State :=
  let c := s.bundle.core
  let k := s.bundle.strand
  let t := s.me
  let waits := (s.ops.filter (fun p => p.2.core == c && p.2.strand == k && consumed.contains p.2.knot)).map Prod.fst
  let (o, s1) := s.fresh
  let e : EngOp :=
    { core := c, strand := k, knot := knot, engine := engine, tl := t.ctx.tl, fn := t.place.fn, task := t.place.task,
      bno := t.flow.bno, pc := t.ctx.pc, kind := kind, waits := waits, slots := slots,
      phase := if waits.isEmpty then .ready else .waiting }
  let s2 := ((s1.setOp o e).setKnot c k knot .pending).modStrand c k (fun y => { y with knotOp := Table.set y.knotOp knot o })
  let s3 := (s2.trace c k 3 (kind.opcode + knot * 2 ^ 10 + 2 ^ 14)).closeRegion c k kind
  if waits.isEmpty then s3.at_ c ((s3.core c).cyc + 1) true k (.engineStart o) else s3

/-- The issue of an E syllable without a destination. -/
def engEff (engine : Nat) (f : Fields) (kind : State → OpKind) (s : State) : State :=
  s.launch engine (f.m 0 4) (kind s) (knotsOf f) []

/-- Reserve n slots at dst for an operation (R175): their numbers. -/
def State.reserveFor (s : State) (f : Fields) (tag : Nat) : Nat → List Nat × State
  | 0 => ([], s)
  | n + 1 =>
    if f.dst == 31 then ([], s)
    else
      let (id, s1) := s.reservePend s.bundle.core s.bundle.strand f.dst.toNat tag 0 .whole
      let (ids, s2) := State.reserveFor s1 f tag n
      (id :: ids, s2)

/-- The issue of an E syllable that appends n slots. -/
def engAppend (engine : Nat) (f : Fields) (tag n : Nat) (kind : State → OpKind) (s : State) : State :=
  let (ids, s1) := s.reserveFor f tag n
  s1.launch engine (f.m 0 4) (kind s) (knotsOf f) ids

/-- A result of an operation is written into its slot, which becomes present. -/
def State.deliver (s : State) (c id tag : Nat) (v : SlotBits) : State :=
  match Table.get? (s.core c).flight.pends id with
  | some p => (s.modFlight c (fun f => { f with pends := Table.erase f.pends id })).fillSlot c p.strand p.q p.idx tag v
  | none => s

def State.modOp (s : State) (o : Nat) (f : EngOp → EngOp) : State :=
  match s.op? o with
  | some e => s.setOp o (f e)
  | none => s

/-- The operation tries again in the next cycle. -/
def State.retryOp (s : State) (e : EngOp) (late : Bool) (i : Instr) : State := s.again e.core late e.strand i

/-- The operation completes at the end of this cycle, or in a later one. -/
def State.completeIn (s : State) (o : Nat) (e : EngOp) (cycles : Nat) : State :=
  s.at_ e.core ((s.core e.core).cyc + cycles) true e.strand (.engineComplete o)

/-- The operation's slot becomes present at the start of a cycle that is so many cycles away. -/
def State.presentIn (s : State) (o : Nat) (e : EngOp) (cycles : Nat) : State :=
  s.at_ e.core ((s.core e.core).cyc + cycles) false e.strand (.engineComplete o)

/-- The operation's slot is written and present, and its knot leaves pending in the same cycle (R185, R307). -/
def State.presentNow (s : State) (o : Nat) (e : EngOp) (tag : Nat) (v : SlotBits) : State :=
  let s1 := match e.slots with
    | id :: _ => s.deliver e.core id tag v
    | [] => s
  (s1.modOp o (fun x => { x with units := 1, slots := [] })).completeIn o e 0

/-- The operation fails at the end of this cycle. -/
def State.failNow (s : State) (o : Nat) (e : EngOp) (t : Trap) : State :=
  s.at_ e.core (s.core e.core).cyc true e.strand (.engineFail o t)

/-! ### Engine accesses -/

/-- Where a byte of an engine access lies: in this module, or in another (R305). -/
inductive Spot
  | here (key : Nat)
  | far (pod va : Nat)
deriving DecidableEq, Repr

/-- What an engine access comes to: a result, a wait, or a failure with its cause, address and status word; `at_` is the byte it
failed at. -/
inductive Eng (α : Type)
  | ok (a : α)
  | wait
  | bad (cause addr status at_ : Nat)
deriving DecidableEq, Repr

/-- Whether an access of the operation to a key must wait for a vault access that its strand issued in an earlier bundle and that has not
reached its granule (R172, R234). -/
def State.opEarly (s : State) (e : EngOp) (key : Nat) : Bool :=
  Nat.ble (2 ^ 34) key && Nat.blt key (2 ^ 42) &&
    (s.core e.core).flight.touches.any (fun t =>
      t.2.strand == e.strand && Nat.blt t.2.bno e.bno && keyW t.2.die (t.2.granule * 64) / 64 == key / 64)

/-- A byte of this module for an operation, once the accesses that come before it let it have it (R172). A sketch operation reads its skein
in its start cycle (R229). -/
def State.hereSpot (s : State) (e : EngOp) (key : Nat) (write : Bool) : Eng Spot × State :=
  (if (write || e.engine != 2) && s.opEarly e key then .wait else .ok (.here key), s)

/-- Where the byte at a VA lies for an access of a strand (R14, R18, R271, R304). -/
def State.vaSpot (s : State) (e : EngOp) (va : Nat) (write : Bool) : Va Spot × State :=
  match s.domain va with
  | .remote pod v => (.ok (.far pod v), s)
  | _ =>
    match s.reach (dieOf e.core) e.fn va (if write then .write else .read) with
    | (.ok key, s1) => (.ok (.here key), s1)
    | (.wait, s1) => (.wait, s1)
    | (.bad f, s1) => (.bad f, s1)

/-! ### Blocks of a bound region (R273, R274, R421) -/

/-- Change a bound region. -/
def State.modRegion (s : State) (c k r : Nat) (f : Region → Region) : State :=
  s.modStrand c k (fun t => { t with regions := match Table.get? t.regions r with
    | some x => Table.set t.regions r (f x)
    | none => t.regions })

/-- Set the state of a block. -/
def State.setBlock (s : State) (c k r j : Nat) (b : BlockState) : State :=
  s.modRegion c k r (fun x => { x with blocks := Table.set x.blocks j b })

/-- The P key of a block. -/
def Region.blockKey (x : Region) (c j : Nat) : Nat := keyP c ((x.pbase + j) * 4096)

/-- The number under which a region has transactions with another module. -/
def State.setXfer (s : State) (c k r : Nat) (x : Option Nat) : State :=
  s.modRegion c k r (fun y => { y with xfer := x })

/-- An access of a strand that no engine operation makes: a fill for its next bundle, or a write-back at its end or at a save. It comes
after every access that the strand has issued; its knot number is no knot's. -/
def State.strandAccess (s : State) (c k : Nat) : EngOp :=
  let t := s.strand c k
  { core := c, strand := k, knot := 16, engine := 4, tl := t.ctx.tl, fn := t.place.fn, task := t.place.task, bno := t.flow.bno + 1,
    pc := t.ctx.pc, kind := .kjoin }

/-- What failed a transaction, as the failure of the access it serves. -/
def Txn.fault (t : Txn) (b : Nat × Nat × Nat × Bool) : VaFault :=
  let (cause, st, a, nr) := b
  { cause := cause, va := t.addr, addr := a, aux := if cause == 0x16 then fld st 12 3 else fld st 0 6, nr := nr,
    more := if cause == 0x16 then fld st 0 6 else st / 2 ^ 12 * 2 ^ 12 }

/-- A region's block and another module (R271, R305): one transaction of 4 KiB; its index tells a fill for a store. The transactions of a
region are made one at a time. -/
def State.farBlock (s : State) (e : EngOp) (r : Nat) (x : Region) (kind : TxnKind) (pod va there : Nat) (bs : List Byte)
    (store : Bool := false) : Va (List Byte) × State :=
  let begin_ := fun (s : State) =>
    let (o, s1) := s.fresh
    let t : Txn := { op := o, fn := e.fn, peer := pod, port := 0, kind := kind, index := bnat store, addr := va, va := there, len := 4096 }
    let write := match kind with | .write => true | _ => false
    match s1.startTxn t (if write then 3 else 1) (unitHead there 4096 store :: (if write then dataUnits bs else [])) with
    | some s2 => (Va.wait, s2.setXfer e.core e.strand r (some o))
    | none => (.bad { cause := 0x14, va := va, addr := va, aux := 0 }, s)
  match x.xfer.bind (fun o => (s.txnsOf o).head?) with
  | none => begin_ s
  | some (_, t) =>
    if !t.done then (.wait, s)
    else
      let s1 := (s.dropTxns t.op).setXfer e.core e.strand r none
      if t.kind != kind || t.addr != va || t.index != bnat store then begin_ s1
      else match t.bad with
        | some b => (.bad (t.fault b), s1)
        | none => (.ok t.bytes, s1)

/-- Whether a byte that an operation reads is poisoned: no byte of its own strand's earlier stores stands for it. -/
def State.opPoison (s : State) (e : EngOp) (key : Nat) : Bool :=
  (overlay (s.core e.core).flight.stores e.strand e.bno key).isNone &&
    (match Table.get? e.shadow key with
    | some b => b.isNone
    | none => s.poisoned key)

/-- Read the bytes of a block at their keys. -/
def State.readKeys (s : State) (e : EngOp) (va : Nat) (keys : List Nat) : Va (List Byte) × State :=
  if keys.any (s.opEarly e) then (.wait, s)
  else match s.gather e.fn (s.opView e) (s.opPoison e) keys with
    | (.wait, s1) => (.wait, s1)
    | (.fail cause aux key, s1) =>
      (.bad (if cause == 0x16 then poisonFault va key else { cause := cause, va := va, addr := va, aux := aux }), s1)
    | (.ok bs, s1) => match s1.takeBursts false keys with | (true, s2) => (.ok bs, s2) | (false, s2) => (.wait, s2)

/-- Read the 4 KiB at the VA of a block: they lie in one page. A store needs W = 1 of a vault or host page (R273). -/
def State.readBlock (s : State) (e : EngOp) (r : Nat) (x : Region) (va : Nat) (store : Bool) : Va (List Byte) × State :=
  match s.vaSpot e va false with
  | (.wait, s1) => (.wait, s1)
  | (.bad f, s1) => (.bad f, s1)
  | (.ok (.far pod v), s1) => s1.farBlock e r x .read pod va v [] store
  | (.ok (.here key), s1) =>
    match (if store then s1.storeRefused (dieOf e.core) e.fn va else (none, s1)) with
    | (some f, s2) => (.bad f, s2)
    | (none, s2) => s2.readKeys e va ((upto 4096).map (fun i => key + i))

/-- The number of an access in the line of a region's fills: the operation of a bundle and knot, or the strand's next bundle. -/
def EngOp.lineNo (e : EngOp) : Nat := e.bno * 17 + e.knot

/-- The accesses of the strand that still wait in a region's line: operations outstanding, and its next bundle. -/
def State.liveLine (s : State) (c k : Nat) (x : Region) : List Nat :=
  x.line.filter (fun n => n == (s.strandAccess c k).lineNo || s.ops.any (fun p => p.2.core == c && p.2.strand == k && p.2.lineNo == n))

/-- Whether an access is the first in the line of a region. -/
def State.firstInLine (s : State) (e : EngOp) (x : Region) : Bool :=
  match s.liveLine e.core e.strand x with
  | [] => true
  | n :: _ => n == e.lineNo

/-- An access joins the line of a region, behind those that came to need a fill before it (R273). -/
def State.joinLine (s : State) (e : EngOp) (r : Nat) : State :=
  s.modRegion e.core e.strand r (fun x =>
    let l := s.liveLine e.core e.strand x
    { x with line := if l.contains e.lineNo then l else l ++ [e.lineNo] })

def State.leaveLine (s : State) (e : EngOp) (r : Nat) : State :=
  s.modRegion e.core e.strand r (fun x => { x with line := x.line.filter (fun n => n != e.lineNo) })

/-- Fill one block for an access (R273, R421), after the fills of the accesses before it in the region's line: it becomes CLEAN, or ABSENT
where the page is only not resident. -/
def State.fillBlock (s : State) (e : EngOp) (r j : Nat) (store : Bool) : Va Unit × State :=
  match Table.get? (s.strand e.core e.strand).regions r with
  | none => (.ok (), s)
  | some x =>
    if !s.firstInLine e x then (.wait, s.joinLine e r)
    else match s.readBlock e r x (x.blockVA j) store with
    | (.wait, s1) => (.wait, s1.joinLine e r)
    | (.bad f, s1) => (.bad f, (if f.nr then s1.setBlock e.core e.strand r j .absent else s1).leaveLine e r)
    | (.ok bs, s1) => (.ok (), ((s1.putBytes (x.blockKey e.core j) bs).setBlock e.core e.strand r j .clean).leaveLine e r)

/-- The byte at an address of a space for an operation (R177, R421). An address is exact: one of 2^64 and above is no VA (R6, R14). -/
def State.spot (s : State) (e : EngOp) (sp : Nat) (a : Int) (write : Bool) : Eng Spot × State :=
  let c := e.core
  let k := e.strand
  let va := wrap 64 a
  if sp == 2 then
    if decide (a < 0) || decide ((2 ^ 64 : Int) ≤ a) then (.bad 0x0A va (spaceBits 2) 0, s)
    else match s.vaSpot e va write with
      | (.ok (.here key), s1) => s1.hereSpot e key write
      | (.ok x, s1) => (.ok x, s1)
      | (.wait, s1) => (.wait, s1)
      | (.bad f, s1) => (.bad f.cause f.addr f.status 0, s1)
  else match s.addrBad c k (sp == 1) a 1 1 with
    | some (cause, row) => (.bad cause va (row * 2 ^ 8 + spaceBits sp) 0, s)
    | none =>
      if sp == 1 then s.hereSpot e (keyW (dieOf c) va) write
      else match ((s.strand c k).blocksAt e.bno va 1).find? (fun b => match (s.strand c k).block b.1 b.2 with
          | .empty => true | .absent => true | _ => false) with
        | none => (.ok (.here (keyP c va)), s)
        | some b =>
          match s.fillBlock e b.1 b.2 write with
          | (.ok _, s1) => (.ok (.here (keyP c va)), s1)
          | (.wait, s1) => (.wait, s1)
          | (.bad f, s1) => (.bad f.cause (if f.cause == 0x16 then f.addr else (s.strand c k).blockByte b.1 b.2 va) f.status 0, s1)

/-- The bytes at a list of addresses, in order. -/
def State.spots (s : State) (e : EngOp) (sp : Nat) (write : Bool) : Nat → List Int → Eng (List Spot) × State
  | _, [] => (.ok [], s)
  | n, a :: as =>
    match s.spot e sp a write with
    | (.ok x, s1) =>
      (match State.spots s1 e sp write (n + 1) as with
      | (.ok xs, s2) => (.ok (x :: xs), s2)
      | (r, s2) => (r, s2))
    | (.wait, s1) => (.wait, s1)
    | (.bad c v st _, s1) => (.bad c v st n, s1)

/-- The runs of an access, from its last byte back. -/
def farRuns : Nat → List (Int × Spot) → List Run
  | _, [] => []
  | n, (a, x) :: xs =>
    let rest := farRuns (n + 1) xs
    match x, rest with
    | .here _, _ => rest
    | .far p v, r :: rs =>
      if r.pod == p && r.va == v + 1 && r.pos == n + 1 then { r with va := v, addr := wrap 64 a, len := r.len + 1, pos := n } :: rs
      else { pod := p, va := v, addr := wrap 64 a, len := 1, pos := n } :: r :: rs
    | .far p v, [] => [{ pod := p, va := v, addr := wrap 64 a, len := 1, pos := n }]

/-- Whether two runs write one target dword. -/
def Run.meets (x y : Run) : Bool :=
  x.pod == y.pod && Nat.ble (x.va / 8) ((y.va + y.len - 1) / 8) && Nat.ble (y.va / 8) ((x.va + x.len - 1) / 8)

/-- The runs that can be sent together, and those that must wait for them: one that writes a target dword of a run before it is sent
after that run's acknowledgement, and with it every run behind it (R177, R305). -/
def splitRuns : List Run → List Run → List Run × List Run
  | now, [] => (now, [])
  | now, r :: rs => if now.any r.meets then (now, r :: rs) else splitRuns (now ++ [r]) rs

/-- Start a transaction for each run; none when a peer has no UP port (R405), with the run's VA. -/
def State.startTxns (s : State) (o : Nat) (e : EngOp) (kind : TxnKind) (bs : List Byte) : Nat → List Run → Except Nat State
  | _, [] => .ok s
  | n, r :: rs =>
    let x : Txn :=
      { op := o, fn := e.fn, peer := r.pod, port := 0, kind := kind, index := n, addr := r.addr, va := r.va, len := r.len, era := e.era }
    let units := unitHead r.va r.len :: (match kind with | .write => dataUnits ((bs.drop r.pos).take r.len) | _ => [])
    match s.startTxn x (match kind with | .write => 3 | _ => 1) units with
    | none => .error r.addr
    | some s1 => State.startTxns s1 o e kind bs (n + 1) rs

/-- Start the runs of an access: reads all at once; writes as far as their order lets them, the rest kept for later. -/
def State.startRuns (s : State) (o : Nat) (e : EngOp) (kind : TxnKind) (bs : List Byte) (rs : List Run) : Except Nat State :=
  match kind with
  | .write =>
    let (now, later) := splitRuns [] rs
    (s.startTxns o e kind bs 0 now).map (fun s1 => s1.modOp o (fun x => { x with runs := later }))
  | _ => s.startTxns o e kind bs 0 rs

/-- The bytes of the runs that have returned, with their places. -/
def runBytes (ts : List (Nat × Txn)) (rs : List Run) : List (Nat × Byte) :=
  (numbered 0 rs).flatMap (fun p => match ts.find? (fun t => t.2.index == p.1) with
    | some t => (numbered 0 t.2.bytes).map (fun b => (p.2.pos + b.1, b.2))
    | none => [])

/-- The local bytes of an access with their places. -/
def hereKeys : Nat → List Spot → List (Nat × Nat)
  | _, [] => []
  | n, .here k :: xs => (n, k) :: hereKeys (n + 1) xs
  | n, .far _ _ :: xs => hereKeys (n + 1) xs

/-- Read the bytes at addresses whose spots are known (R172, R305, R393). -/
def State.readSpots (s : State) (o : Nat) (e : EngOp) (sp : Nat) (as : List Int) (xs : List Spot) : Eng (List Byte) × State :=
  let rs := farRuns 0 (as.zip xs)
  let ts := s.txnsOf o
  if !rs.isEmpty && ts.isEmpty then
    match s.startRuns o e .read [] rs with
    | .ok s1 => (.wait, s1)
    | .error a => (.bad 0x14 a (spaceBits 2) 0, s)
  else if ts.any (fun t => !t.2.done) then (.wait, s)
  else
    let here := hereKeys 0 xs
    match s.gather e.fn (s.opView e) (s.opPoison e) (here.map Prod.snd) with
    | (.wait, s1) => (.wait, s1)
    | (.fail cause aux key, s1) =>
      let n := ((here.find? (fun p => p.2 == key || (p.2 - 2 ^ 64) / 64 * 64 + 2 ^ 64 == key)).map Prod.fst).getD 0
      if cause == 0x16 then (.bad cause (granuleAddr key) (poisonBits key + spaceBits sp) n, s1)
      else (.bad cause (wrap 64 (as.getD n 0)) (aux + spaceBits sp) n, s1)
    | (.ok bs, s1) =>
      let all := (here.map Prod.fst).zip bs ++ runBytes ts rs
      match s1.takeBursts false (here.map Prod.snd) with
      | (false, s2) => (.wait, s2)
      | (true, s2) => (.ok ((upto as.length).map (fun n => ((all.find? (fun p => p.1 == n)).map Prod.snd).getD 0)), s2.dropTxns o)

/-- Read the bytes at addresses of a space. -/
def State.engRead (s : State) (o : Nat) (e : EngOp) (sp : Nat) (as : List Int) : Eng (List Byte) × State :=
  match s.spots e sp false 0 as with
  | (.ok xs, s1) => s1.readSpots o e sp as xs
  | (.wait, s1) => (.wait, s1)
  | (.bad c a st n, s1) => (.bad c a st n, s1)

/-- A store issued before the operation loses the bytes that the operation writes after it (R172). -/
def absorb (strand bno : Nat) (keys : List Nat) (p : Nat × PStore) : Nat × PStore :=
  if p.2.strand == strand && Nat.blt p.2.bno bno then
    (p.1, { p.2 with cells := p.2.cells.filter (fun c => !keys.contains c.1) })
  else p

/-- The blocks of the strand's regions that hold keys of its scratchpad become DIRTY (R421). -/
def State.dirtyKeys (s : State) (c k bno : Nat) : List Nat → State
  | [] => s
  | key :: ks => State.dirtyKeys (if key / 2 ^ 22 == c && key < 2 ^ 34 then s.markDirty c k bno (key % 2 ^ 22) 1 else s) c k bno ks

/-- The operations that wait for operation o, through any chain of knots (R169), and o itself. -/
def State.behind (s : State) : Nat → List Nat → List Nat
  | 0, os => os
  | n + 1, os => State.behind s n (os ++ (s.ops.filter (fun p => !os.contains p.1 && p.2.waits.any os.contains)).map Prod.fst)

/-- A shadow after a write that its operation sees. -/
def shadowWrite (m : Table (Option Byte)) : List (Nat × Byte) → Table (Option Byte)
  | [] => m
  | c :: cs => shadowWrite (if (Table.get? m c.1).isSome then Table.set m c.1 (some c.2) else m) cs

/-- The operations of a list see cells that are written now, though a later store of their strand has written to the granule. -/
def reshadow (os : List Nat) (cells : List (Nat × Byte)) (p : Nat × EngOp) : Nat × EngOp :=
  if os.contains p.1 then (p.1, { p.2 with shadow := shadowWrite p.2.shadow cells }) else p

/-- What operation o writes is read by it and by the operations that a chain of knots orders after it (R234). -/
def State.showBehind (s : State) (o : Nat) (cells : List (Nat × Byte)) : State :=
  if s.ops.any (fun p => !p.2.shadow.isEmpty) then { s with ops := s.ops.map (reshadow (s.behind s.ops.length [o]) cells) } else s

/-- Write cells for an operation: the first key in a poisoned unit that they do not cover whole (R393). -/
def State.engCells (s : State) (o : Nat) (e : EngOp) (cells : List (Nat × Byte)) : State × Option Nat :=
  let keys := cells.map Prod.fst
  let s1 := s.modFlight e.core (fun f => { f with stores := f.stores.map (absorb e.strand e.bno keys) })
  let s2 := s1.showBehind o cells
  let s3 := if (s.strand e.core e.strand).regions.isEmpty then s2 else s2.dirtyKeys e.core e.strand e.bno keys
  s3.putCells cells

/-- Write bytes at the spots of this module, once their channels have taken them (R221): none while they wait, else the first key left in
a poisoned unit. -/
def State.writeHere (s : State) (o : Nat) (e : EngOp) (xs : List Spot) (bs : List Byte) : Option (Option Nat) × State :=
  let cells := (hereKeys 0 xs).map (fun p => (p.2, bs.getD p.1 0))
  match s.takeBursts true (cells.map Prod.fst) with
  | (true, s1) => let r := s1.engCells o e cells; (some r.2, r.1)
  | (false, s1) => (none, s1)

/-- The writes to other modules that an access still has to make (R305): the next are sent once those before them are acknowledged. -/
def State.farDone (s : State) (o : Nat) (e : EngOp) (bs : List Byte) : Eng Unit × State :=
  if (s.txnsOf o).any (fun t => !t.2.done) then (.wait, s)
  else
    let s1 := s.dropTxns o
    if e.runs.isEmpty then (.ok (), s1)
    else match s1.startRuns o e .write bs e.runs with
      | .ok s2 => (.wait, s2)
      | .error a => (.bad 0x14 a (spaceBits 2) 0, s1)

/-- Read n bytes of P from an offset. -/
def State.engReadP (s : State) (o : Nat) (e : EngOp) (a n : Nat) : Eng (List Byte) × State :=
  s.engRead o e 0 ((upto n).map (fun i => ((a + i : Nat) : Int)))

/-! ### Copies (R176-R180) -/

def CopyPlan.total (p : CopyPlan) : Nat := p.exts.foldl (fun n x => n * x) 1
def CopyPlan.chunks (p : CopyPlan) : Nat := ceilDiv p.total 256

/-- The displacement of a linear index by extents and strides, the first dimension by one byte. -/
def strideSum : List Nat → List Int → Nat → Int
  | [], _, _ => 0
  | _, [], _ => 0
  | x :: xs, d :: ds, n => (n % x : Nat) * d + strideSum xs ds (n / x)

def CopyPlan.src (p : CopyPlan) (n : Nat) : Int := p.sb + strideSum p.exts (1 :: p.sstr) n
def CopyPlan.dst (p : CopyPlan) (n : Nat) : Int := p.db + strideSum p.exts (1 :: p.dstr) n

/-- Whether strides are dense (R178). -/
def dense : Nat → List Nat → List Int → Bool
  | _, [], _ => true
  | _, _ :: _, [] => true
  | n, x :: xs, d :: ds => d == (n : Int) && dense (n * x) xs ds

def CopyPlan.contiguous (p : CopyPlan) : Bool := dense 1 p.exts (1 :: p.sstr) && dense 1 p.exts (1 :: p.dstr)

/-- The runs of e0 bytes that one side of a plan touches, as first addresses. -/
def CopyPlan.runs (p : CopyPlan) (f : Nat → Int) : List Int :=
  let e0 := p.exts.headD 1
  (upto (p.total / e0)).map (fun i => f (i * e0))

def minInt? : List Int → Option Int
  | [] => none
  | x :: xs => match minInt? xs with | none => some x | some y => some (if y < x then y else x)

/-- The lowest address in both the source range and the destination range (R178, R387). -/
def CopyPlan.shared (p : CopyPlan) : Option Int :=
  if p.ssp != p.dsp then none
  else
    let n : Int := ((if p.contiguous then p.total else p.exts.headD 1 : Nat) : Int)
    let ss := if p.contiguous then [p.sb] else p.runs p.src
    let ds := if p.contiguous then [p.db] else p.runs p.dst
    minInt? (ss.flatMap (fun a => (ds.filter (fun b => decide (a < b + n) && decide (b < a + n))).map (fun b => if a < b then b else a)))

/-- Which operation of the copy engine reads a descriptor. -/
inductive CopyUse
  | copy | fill (esz : Nat) | queue
deriving DecidableEq, Repr

/-- The plan of a descriptor, when it keeps R176, R179 and R180. -/
def copyPlan (use : CopyUse) (disp : Nat) (d : List Nat) : Option CopyPlan :=
  let ctl := d.getD 2 0
  let ndim := fld ctl 10 3
  let ext := fun (i : Nat) => fld (d.getD (3 + i / 2) 0) (32 * (i % 2)) 32
  let ss := (upto 5).map (fun i => d.getD (6 + i) 0)
  let ds := (upto 5).map (fun i => d.getD (11 + i) 0)
  let tag := fld ctl 16 6
  let srcNil := fld ctl 0 2 == 0 && d.getD 0 0 == 0 && ss.all (fun x => x == 0)
  let dstNil := fld ctl 2 2 == 0 && d.getD 1 0 == 0 && ds.all (fun x => x == 0)
  let ok := fld ctl 22 42 == 0 && fld ctl 13 3 == 0 && fld ctl 4 6 == 0 && Nat.ble 1 ndim && Nat.ble ndim 6
    && fld ctl 0 2 != 3 && fld ctl 2 2 != 3
    && (upto 6).all (fun i => (ext i != 0) == Nat.blt i ndim)
    && (upto 5).all (fun i => Nat.blt (i + 1) ndim || ((ss.getD i 0) == 0 && (ds.getD i 0) == 0))
    && (match use with
      | .copy => tag == 0
      | .fill z => tag == 0 && srcNil && ext 0 % 2 ^ z == 0
      | .queue => tagOk tag && dstNil)
  let sd := match use with | .copy => sval 32 disp | _ => 0
  let dd := match use with | .copy => sval 32 (disp / 2 ^ 32) | _ => 0
  if ok then
    some { sb := (d.getD 0 0 : Nat) + sd, db := (d.getD 1 0 : Nat) + dd, ssp := fld ctl 0 2, dsp := fld ctl 2 2, tag := tag,
           exts := (upto ndim).map ext, sstr := (ss.take (ndim - 1)).map (fun x => sval 64 x),
           dstr := (ds.take (ndim - 1)).map (fun x => sval 64 x) }
  else none

/-- Lr and Lw of R173: of P, of the vault of the first byte, and 0 for a VA, whose figure is only a bound (R422). -/
def State.readLag (s : State) (c sp : Nat) (a : Int) : Nat := if sp == 0 then 4 else if sp == 1 then s.loadTime c a.toNat else 0
def State.writeLag (s : State) (c sp : Nat) (a : Int) : Nat := if sp == 0 then 2 else if sp == 1 then s.storeTime c a.toNat else 0

/-- What a start comes to: it waits, it fails with its fault, or the operation is under way. -/
inductive Began
  | wait (s : State)
  | fail (s : State) (t : Trap)
  | go (s : State)

/-- The start of a copy (R176, R178): its descriptor is read, and its first chunk falls due. -/
def State.startCopy (s : State) (o : Nat) (e : EngOp) (use : CopyUse) (desc disp : Nat) : Began :=
  if desc % 64 != 0 then .fail s (e.fault 0x18 desc 0 0)
  else match s.engReadP o e desc 128 with
    | (.wait, s1) => .wait s1
    | (.bad c a st _, s1) => .fail s1 (e.fault c a 0 st)
    | (.ok bs, s1) =>
      match copyPlan use disp (dwords bs 16) with
      | none => .fail s1 (e.fault 0x18 desc 0 0)
      | some p =>
        let clash := match use with | .copy => if p.contiguous then none else p.shared | _ => none
        match clash with
        | some a => .fail s1 (e.fault 0x10 (wrap 64 a) 0 (spaceBits p.ssp))
        | none =>
          let lr := match use with | .fill _ => 0 | _ => s1.readLag e.core p.ssp p.sb
          let lw := match use with | .queue => 0 | _ => s1.writeLag e.core p.dsp p.db
          .go ((s1.modOp o (fun x => { x with plan := some p })).at_ e.core ((s1.core e.core).cyc + 4 + lr + lw) true e.strand
            (.copyChunk o))

/-- The n-th chunk in lin order to be moved next: an overlapping contiguous copy upwards runs from the last (R178). -/
def CopyPlan.chunkAt (p : CopyPlan) (n : Nat) : Nat :=
  if p.contiguous && p.shared.isSome && decide (p.sb < p.db) then p.chunks - 1 - n else n

/-- The bytes of one unit of a CPQ (R180): 256, or an element of the tag. -/
def cpqBytes (wide : Bool) (tag : Nat) : Nat := if wide then 256 else tagBytes tag

/-- The units of a CPQ: all that its source is cut into, and those that a number of source bytes completes. -/
def CopyPlan.units (p : CopyPlan) (wide : Bool) : Nat := ceilDiv p.total (cpqBytes wide p.tag)
def CopyPlan.unitsIn (p : CopyPlan) (wide : Bool) (m : Nat) : Nat :=
  if Nat.ble p.total m then p.units wide else m / cpqBytes wide p.tag

/-- Whether a CPQ whose first m source bytes are read overruns: its announced slots get their units, and more would follow (R387). -/
def EngOp.overruns (e : EngOp) (p : CopyPlan) (m : Nat) : Bool :=
  match e.kind with
  | .cpq _ count wide _ => Nat.ble count (p.unitsIn wide m) && Nat.blt count (p.units wide)
  | _ => false

/-- A chunk has been moved: the next falls due, or the operation completes; a CPQ that overruns moves no more. -/
def State.nextChunk (s : State) (o : Nat) (e : EngOp) (p : CopyPlan) : State :=
  let s1 := s.modOp o (fun x => { x with next := e.next + 1 })
  if Nat.blt (e.next + 1) p.chunks && !e.overruns p ((e.next + 1) * 256) then s1.at_ e.core ((s1.core e.core).cyc + 1) true e.strand (.copyChunk o)
  else s1.completeIn o e (match e.kind with | .cpq .. => 1 | _ => 0)

def State.unitsAt (s : State) (o : Nat) (e : EngOp) : Nat → State
  | 0 => s
  | n + 1 => State.unitsAt (s.at_ e.core ((s.core e.core).cyc + 1) false e.strand (.cpqUnit o)) o e n

/-- A chunk of a copy's destination is written (R177): what lies in other modules is sent, and the copy waits for its
acknowledgements (R306). -/
def State.writeChunk (s : State) (o : Nat) (e : EngOp) (p : CopyPlan) (chunk : Nat) (as : List Int) (xs : List Spot)
    (bs : List Byte) : State :=
  match s.writeHere o e xs bs with
  | (none, s1) => s1.retryOp e true (.copyChunk o)
  | (some (some key), s1) => s1.failOp o (e.fault 0x16 (granuleAddr key) chunk (poisonBits key + spaceBits p.dsp))
  | (some none, s1) =>
    match farRuns 0 (as.zip xs) with
    | [] => s1.nextChunk o e p
    | rs =>
      match s1.startRuns o e .write bs rs with
      | .ok s2 => (s2.modOp o (fun x => { x with data := bs })).retryOp e true (.copyChunk o)
      | .error a => s1.failOp o (e.fault 0x14 a chunk (spaceBits 2))

/-- The fill bytes of a COPYF chunk (R179). -/
def fillBytes (esz fill : Nat) (lin n : Nat) : List Byte :=
  (upto n).map (fun i => BitVec.ofNat 8 (fill / 2 ^ (8 * ((lin + i) % 2 ^ esz))))

/-- One chunk (R177): every address is checked, then every byte is read, then every byte is written. -/
def State.copyChunk (s : State) (o : Nat) (e : EngOp) (p : CopyPlan) : State :=
  let chunk := p.chunkAt e.next
  let lin := chunk * 256
  let n := Nat.min 256 (p.total - lin)
  let src := (upto n).map (fun i => p.src (lin + i))
  let dst := (upto n).map (fun i => p.dst (lin + i))
  let later := fun (s : State) => s.retryOp e true (.copyChunk o)
  let fail := fun (s : State) (c a st : Nat) => s.failOp o (e.fault c a chunk st)
  let isFill := match e.kind with | .copyf .. => true | _ => false
  let isQueue := match e.kind with | .cpq .. => true | _ => false
  match (if isFill then (Eng.ok [], s) else s.spots e p.ssp false 0 src) with
  | (.wait, s1) => later s1
  | (.bad c a st _, s1) => fail s1 c a st
  | (.ok xs, s1) =>
    match (if isQueue then (Eng.ok [], s1) else s1.spots e p.dsp true 0 dst) with
    | (.wait, s2) => later s2
    | (.bad c a st _, s2) => fail s2 c a st
    | (.ok ys, s2) =>
      match e.kind with
      | .copyf esz _ v => s2.writeChunk o e p chunk dst ys (fillBytes esz v lin n)
      | _ =>
        match s2.readSpots o e p.ssp src xs with
        | (.wait, s3) => later s3
        | (.bad c a st _, s3) => fail s3 c a st
        | (.ok bs, s3) =>
          match e.kind with
          | .cpq _ count wide _ =>
            let whole := fun (m : Nat) => Nat.min count (p.unitsIn wide m)
            ((s3.modOp o (fun x => { x with data := x.data ++ bs })).unitsAt o e (whole (lin + n) - whole lin)).nextChunk o e p
          | _ => s3.writeChunk o e p chunk dst ys bs

/-- A chunk of a COPY, COPYF or CPQ. -/
def execCopyChunk (op : Nat) (s : State) : Host.Outcome State Fault Refusal :=
  match s.op? op with
  | none => .next s
  | some e =>
    match e.plan, e.kind with
    | none, _ => .next s
    | some p, .cpq .. => .next (if Nat.blt e.next p.chunks then s.copyChunk op e p else s)
    | some p, _ =>
      if !Nat.blt e.next p.chunks then .next s
      else if e.data.isEmpty then .next (s.copyChunk op e p)
      else match s.farDone op e e.data with
        | (.ok _, s1) => .next ((s1.modOp op (fun x => { x with data := [] })).nextChunk op e p)
        | (.wait, s1) => .next (s1.retryOp e true (.copyChunk op))
        | (.bad c a st _, s1) => .next (s1.failOp op (e.fault c a (p.chunkAt e.next) st))

/-- The slot of a CPQ unit (R180): zero-padded, and laid out by R51. -/
def cpqSlot (wide : Bool) (nibble : Nat) (tag : Nat) (bs : List Byte) : SlotBits := slotLayout wide (!bit nibble (tag - 0x10)) tag (ofBytes bs)

/-- One unit of a CPQ fills the next reserved slot; an excess unit is discarded (R180). -/
def execCpqUnit (op : Nat) (s : State) : Host.Outcome State Fault Refusal :=
  match s.op? op with
  | none => .next s
  | some e =>
    match e.kind, e.plan with
    | .cpq _ _ wide nib, some p =>
      let z := cpqBytes wide p.tag
      if e.data.isEmpty then .next s
      else
        let s1 := s.modOp op (fun x => { x with data := x.data.drop z, units := x.units + 1, slots := x.slots.drop 1 })
        (match e.slots with
        | id :: _ => .next (s1.deliver e.core id p.tag (cpqSlot wide nib p.tag (e.data.take z)))
        | [] => .next s1)
    | _, _ => .next s

/-- Whether a CPQ has yet to deliver a unit of its source to an announced slot. -/
def EngOp.undelivered (e : EngOp) (p : CopyPlan) : Bool :=
  match e.kind with
  | .cpq _ count wide _ => Nat.blt e.units (Nat.min count (p.units wide))
  | _ => false

/-- The end of a CPQ, once its announced units are delivered (R180, R387): an overrun fails it; slots that got no unit are orphaned (R358). -/
def State.endCpq (s : State) (o : Nat) (e : EngOp) (count : Nat) : State :=
  match e.plan with
  | some p =>
    if e.undelivered p then s.retryOp e true (.engineComplete o)
    else if e.overruns p p.total then s.failOp o (e.fault 0x1B e.pc count (spaceBits p.ssp))
    else (s.endOp o true).orphans e.core e.slots
  | none => s.endOp o true

/-! ### Scatter-accumulate (R181, R182) -/

/-- The lanes of a SCATA that are not skipped: lane and byte offset. -/
def scataLanes (tagA : Nat) (a : SlotBits) : List (Nat × Int) :=
  (numbered 0 (lanes 32 a.toNat)).filterMap (fun p =>
    if p.2 == 0xFFFFFFFF then none
    else some (p.1, if tagA == 3 then sval 32 p.2 else ((p.2 : Nat) : Int)))

/-- v combined with the lanes of one offset (R181). -/
def scataValue (op rm tagB v : Nat) (ls : List Nat) : Nat :=
  let sum : Int := ls.foldl (fun x l => x + sval 32 l) (sval 32 v)
  match op with
  | 0 =>
    if tagB == 0x0B then fp32.round (RM.ofMod rm) (sumX (RM.ofMod rm) ((v :: ls).map fp32.value))
    else if tagB == 0x0E then wrap 32 (satCtr sum) else wrap 32 sum
  | 1 =>
    if tagB == 0x0B then ls.foldl (maxBits fp32) v
    else if tagB == 7 then ls.foldl Nat.max v
    else wrap 32 (ls.foldl (fun x l => if x < sval 32 l then sval 32 l else x) (sval 32 v))
  | _ =>
    if tagB == 0x0B then ls.foldl (minBits fp32) v
    else if tagB == 7 then ls.foldl Nat.min v
    else wrap 32 (ls.foldl (fun x l => if sval 32 l < x then sval 32 l else x) (sval 32 v))

/-- The spots of every offset, or the first lane that fails a row of R116. -/
def State.scataSpots (s : State) (e : EngOp) : List (Nat × Int) → Eng (List (Nat × Nat)) × State
  | [] => (.ok [], s)
  | (lane, a) :: xs =>
    match s.addrBad e.core e.strand false a 4 4 with
    | some (cause, row) => (.bad cause (wrap 64 a) (row * 2 ^ 8) lane, s)
    | none =>
      match s.spot e 0 a true with
      | (.wait, s1) => (.wait, s1)
      | (.bad c v st _, s1) => (.bad c v st lane, s1)
      | (.ok _, s1) =>
        match State.scataSpots s1 e xs with
        | (.ok ys, s2) => (.ok ((lane, a.toNat) :: ys), s2)
        | (r, s2) => (r, s2)

/-- Whether a byte that an operation reads, changes and writes in one update is poisoned. -/
def State.bumpPoison (s : State) (e : EngOp) (key : Nat) : Bool :=
  s.poisoned key && (overlay (s.core e.core).flight.stores e.strand e.bno key).isNone

/-- Update one offset with its lanes: one indivisible read, change and write (R182), before any later store of the strand to it, which
waits for it (State.updating). -/
def State.scataOne (s : State) (o : Nat) (e : EngOp) (op rm tagB : Nat) (ls : List Nat) (a : Nat) : State × Option Nat :=
  let key := keyP e.core a
  let v := ofBytes ((upto 4).map (fun i => s.view e.core e.strand e.bno (key + i)))
  s.engCells o e (cellsAt key (bytesLE 4 (scataValue op rm tagB v ls)))

/-- Update every offset, each once, in ascending order. -/
def State.scataAll (s : State) (o : Nat) (e : EngOp) (op rm tagB : Nat) (b : List Nat) (xs : List (Nat × Nat)) :
    List Nat → State × Option (Nat × Nat)
  | [] => (s, none)
  | a :: as =>
    let mine := xs.filter (fun p => p.2 == a)
    match s.scataOne o e op rm tagB (mine.map (fun p => b.getD p.1 0)) a with
    | (s1, some key) => (s1, some (key, (mine.map Prod.fst).headD 0))
    | (s1, none) => State.scataAll s1 o e op rm tagB b xs as

/-- The scatter-accumulate engine applies its next operation, 14 cycles after its start or after the operation before it has ended
(R173, R182): no byte changes when an offset fails, or lies in a poisoned unit. -/
def execScataUpdate (op : Nat) (s : State) : Host.Outcome State Fault Refusal :=
  match s.op? op with
  | none => .next s
  | some e =>
    match e.kind with
    | .scata x rm tagA tagB a b =>
      if (s.core e.core).scaOrder.head? != some op then
        .next ((s.modOp op (fun y => { y with at_ := (s.core e.core).cyc })).retryOp e true (.scataUpdate op))
      else if Nat.blt (s.core e.core).cyc (e.at_ + 14) then .next (s.retryOp e true (.scataUpdate op))
      else match s.scataSpots e (scataLanes tagA a) with
        | (.wait, s1) => .next (s1.retryOp e true (.scataUpdate op))
        | (.bad c v st lane, s1) => .next (s1.failOp op (e.fault c v lane st))
        | (.ok xs, s1) =>
          let bad := if s1.poison.isEmpty then none else xs.findSome? (fun p =>
            ((upto 4).map (fun i => keyP e.core (p.2 + i))).findSome? (fun k => if s1.bumpPoison e k then some (k, p.1) else none))
          match bad with
          | some (key, lane) => .next (s1.failOp op (e.fault 0x16 (granuleAddr key) lane (poisonBits key)))
          | none =>
            match s1.scataAll op e x rm tagB (lanes 32 b.toNat) xs (sortUniq (xs.map Prod.snd)) with
            | (s2, some (key, lane)) => .next (s2.failOp op (e.fault 0x16 (granuleAddr key) lane (poisonBits key)))
            | (s2, none) => .next (s2.completeIn op e 0)
    | _ => .next s

end Sys2Proof.Machine
end

