-- ==== Sys2Proof/Machine/Mldr.lean ====
section
/-! DEFINITION. Block-exponent reductions (R56, R57) and multicast load-and-reduce (R194, R307, R308, R407). -/

namespace Sys2Proof.Machine

/-- The common-form index of an operation that another module fails (R344): the chunk of a copy, the rank of a COLL, else 0. -/
def EngOp.index (e : EngOp) : Nat :=
  match e.kind with
  | .coll .. => e.next
  | _ => match e.plan with | some p => p.chunkAt e.next | none => 0

/-! ### Reductions (R56, R57) -/

/-- Elements of z bytes. -/
def elemsOf (z : Nat) : Nat → List Byte → List Nat
  | 0, _ => []
  | n + 1, bs => ofBytes (bs.take z) :: elemsOf z n (bs.drop z)

/-- One block: contributions as (rank, elements), ascending. -/
def reduceBlock (fi fo : IEEE) (n : Nat) (xs : List (Nat × List Nat)) : List Nat :=
  let E := blockExp fi (xs.flatMap Prod.snd)
  (upto n).map (fun j => reduceElem fo E (xs.map (fun x => (x.1, fi.value (x.2.getD j 0)))))

/-- A reduction in blocks of 32 elements. -/
def reduceAll (fi fo : IEEE) : Nat → Nat → List (Nat × List Nat) → List Nat
  | 0, _, _ => []
  | k + 1, n, xs =>
    let m := Nat.min 32 n
    reduceBlock fi fo m (xs.map (fun x => (x.1, x.2.take m))) ++ reduceAll fi fo k (n - m) (xs.map (fun x => (x.1, x.2.drop m)))

/-! ### MLDR -/

def mldrFmt (n : Nat) : IEEE := FFmt.ieee (FFmt.ofCode n)
def mldrTag (n : Nat) : Nat := match FFmt.ofCode n with | .f32 => 0x0B | .f64 => 0x0C | .f16 => 9 | .bf16 => 0x0A

/-- L of R194 and the bytes a member supplies. -/
def mldrLanes (ofmt : Nat) : Nat := 2048 / (mldrFmt ofmt).width
def mldrBytes (ifmt ofmt : Nat) : Nat := mldrLanes ofmt * ((mldrFmt ifmt).width / 8)

/-- The VA a member is read at, on its own module, and the address its faults give. -/
def memberVA (m : Dword) (b : Nat) : Nat := (m.toNat % 2 ^ 50 + b) % 2 ^ 64
def memberAddr (m : Dword) (b : Nat) : Nat := (m.toNat + b) % 2 ^ 64

/-- The module of a member (R18), none when its index names none. -/
def State.memberPod (s : State) (m : Dword) : Option Nat :=
  let e := (Table.getD s.fab.dom (fld m.toNat 50 6) 0).toNat
  if bit e 63 then some (e % 2 ^ 12) else none

/-- Whether a member has a route (R407): its own module, or one with an UP port. -/
def State.reachable (s : State) (pod : Nat) : Bool := pod == s.fab.modid || !(s.upPorts pod).isEmpty

/-- The least rank of members that satisfy p. -/
def lowRank (p : Dword → Bool) (ms : List Dword) : Option (Nat × Dword) := (numbered 0 ms).find? (fun x => p x.2)

/-- Read this module's own member (R308): an engine access of the strand to the local VA that the domain window names (R18). -/
def State.readMember (s : State) (o : Nat) (e : EngOp) (n b : Nat) (m : Dword) : Eng (List Byte) × State :=
  let v := memberVA m b
  if Nat.blt (2 ^ 56) (v + n) then (.bad 0x0A (memberAddr m b) (spaceBits 2) 0, s)
  else match s.engRead o e 2 ((upto n).map (fun i => ((v + i : Nat) : Int))) with
    | (.bad c a st x, s1) => (.bad c (if c == 0x16 then a else memberAddr m b + (a - v)) st x, s1)
    | r => r

/-- The members of this module are read, each once; a failure names its rank. -/
def State.readMembers (s : State) (o : Nat) (e : EngOp) (n b : Nat) : List (Nat × Dword) → Eng (Table (List Byte)) × State
  | [] => (.ok [], s)
  | (t, m) :: ms =>
    if s.memberPod m == some s.fab.modid then
      match s.readMember o e n b m with
      | (.wait, s1) => (.wait, s1)
      | (.bad c a st _, s1) => (.bad c a st t, s1)
      | (.ok bs, s1) =>
        match State.readMembers s1 o e n b ms with
        | (.ok xs, s2) => (.ok (Table.set xs t bs), s2)
        | (r, s2) => (r, s2)
    else State.readMembers s o e n b ms

/-- Send the requests of an MLDR to the members on other modules (R307). -/
def State.askMembers (s : State) (o : Nat) (e : EngOp) (n b : Nat) : List (Nat × Dword) → State
  | [] => s
  | (t, m) :: ms =>
    let s1 := match s.memberPod m with
      | some pod =>
        if pod == s.fab.modid then s
        else (s.startTxn { op := o, fn := e.fn, peer := pod, port := 0, kind := .member, index := t, addr := memberAddr m b,
                           va := memberVA m b, len := n } 6 [unitHead (memberVA m b) n]).getD s
      | none => s
    State.askMembers s1 o e n b ms

/-- When every member has replied the operation completes (R307). -/
def State.mldrReady (s : State) (o : Nat) : State :=
  match Table.get? s.fab.mldrs o, s.op? o with
  | some x, some e => if x.replies.length == x.members.length then s.presentIn o e 1 else s
  | _, _ => s

/-- The start of an MLDR (R194, R307, R308, R407): a free place in the cistern, the checks, the requests. -/
def State.startMldr (s : State) (o : Nat) (e : EngOp) (ifmt ofmt group b : Nat) : Began :=
  let s0 := if s.fab.mwait.contains o then s else s.modFab (fun f => { f with mwait := f.mwait ++ [o] })
  if s0.fab.mwait.head? != some o || Nat.ble 256 s0.fab.mldrs.length then .wait s0
  else
    let s1 := s0.modFab (fun f => { f with mwait := f.mwait.drop 1 })
    match Table.get? (s1.fnFab e.fn).groups (group % 64) with
    | none => .fail s1 (e.fault 0x18 e.pc 0 (spaceBits 2))
    | some ms =>
      let z := (mldrFmt ifmt).width / 8
      let n := mldrBytes ifmt ofmt
      let bad := fun (cause : Nat) (x : Nat × Dword) => Began.fail s1 (e.fault cause (memberAddr x.2 b) x.1 (spaceBits 2))
      match lowRank (fun m => memberVA m b % z != 0) ms with
      | some x => bad 0x18 x
      | none =>
        match lowRank (fun m => match s1.memberPod m with | some p => !s1.reachable p | none => true) ms with
        | some x => bad 0x14 x
        | none =>
          match lowRank (fun m => match s1.memberPod m with | some p => s1.endToEnd e.fn p | none => false) ms with
          | some x => bad 0x15 x
          | none =>
            match s1.readMembers o e n b (numbered 0 ms) with
            | (.wait, s2) => .wait (s2.modFab (fun f => { f with mwait := o :: f.mwait }))
            | (.bad c a st t, s2) => .fail s2 (e.fault c a t st)
            | (.ok rs, s2) =>
              let x : Mldr := { op := o, fn := e.fn, base := b, members := ms, sent := s2.env.ns, replies := rs }
              .go (((s2.modFab (fun f => { f with mldrs := Table.set f.mldrs o x })).askMembers o e n b (numbered 0 ms)).mldrReady o)

/-- The fault of an operation that reads a poisoned unit of the cistern (R391, R393): space 3, counted in RASCNT of die 0. The spec gives
the cistern no addresses: ADDR is the granule of the byte's place in what the operation holds there (log entry 13). -/
def State.cisternBad (s : State) (o : Nat) (e : EngOp) (place index : Nat) : State :=
  (s.rasInc 0 56).failOp o (e.fault 0x16 (place / 64 * 64) index (3 * 2 ^ 12 + spaceBits 2))

/-- The end of an MLDR: the reduced slot is written, and its place in the cistern is free (R307). -/
def State.endMldr (s : State) (o : Nat) (e : EngOp) (ifmt ofmt : Nat) : State :=
  match Table.get? s.fab.mldrs o with
  | none => s
  | some x =>
    let fi := mldrFmt ifmt
    match x.bad with
    | some place => s.cisternBad o e place (place / mldrBytes ifmt ofmt)
    | none =>
    let l := mldrLanes ofmt
    let ys := reduceAll fi (mldrFmt ofmt) (ceilDiv l 32) l (x.replies.map (fun (r : Nat × List Byte) => (r.1, elemsOf (fi.width / 8) l r.2)))
    let v := ofBytes (ys.flatMap (fun y => bytesLE ((mldrFmt ofmt).width / 8) y))
    s.presentNow o e (mldrTag ofmt) (BitVec.ofNat 2048 v)

/-- The members of an MLDR that have not replied: the lowest makes it fail (R407). -/
def State.failMldr (s : State) (o : Nat) (lost : Nat → Bool) (link : Bool) : State :=
  match Table.get? s.fab.mldrs o, s.op? o with
  | some x, some e =>
    (match (numbered 0 x.members).find? (fun m => (Table.get? x.replies m.1).isNone && lost m.1) with
    | some (t, m) => s.failOp o (e.fault 0x14 (memberAddr m x.base) t (spaceBits 2 + (if link then linkBit else 0)))
    | none => s)
  | _, _ => s

/-- MLDR_MEMBER_TIMEOUT: a reply has not arrived 1 ms after its request (R407). -/
def execMldrMemberTimeout (op member : Nat) (s : State) : Host.Outcome State Fault Refusal :=
  match Table.get? s.fab.mldrs op with
  | some x =>
    if Nat.blt member x.members.length && (Table.get? x.replies member).isNone && Nat.ble (x.sent + 1000000) s.env.ns then
      .next (s.failMldr op (fun _ => true) false)
    else .next s
  | none => .next s

end Sys2Proof.Machine
end

