-- ==== Sys2Proof/Machine/Ring.lean ====
section
/-! DEFINITION. Layout-pair collectives as functions of the descriptor: the checks of R195 and R309, the values of R310, the steps, rings
and chunks of R311 and R312. -/

namespace Sys2Proof.Machine

/-! ### Collective descriptors (R195, R309) -/

def cNd (d : List Nat) : Nat := fld (d.getD 2 0) 17 2 + 1
def cPsum (d : List Nat) (a : Nat) : Bool := bit (fld (d.getD 2 0) 14 3) a
def cOtag (d : List Nat) : Nat := fld (d.getD 2 0) 6 6
def cEtag (d : List Nat) : Nat := fld (d.getD 2 0) 0 6
def cSize (d : List Nat) (a : Nat) : Nat := fld (d.getD 3 0) (13 * a) 13
def cExt (d : List Nat) (i : Nat) : Nat := fld (d.getD (5 + i / 2) 0) (32 * (i % 2)) 32
def cMy (d : List Nat) : Nat := fld (d.getD 2 0) 35 12

/-- The layout code of dimension i: in the source layout, or the destination's. -/
def cLay (d : List Nat) (dst : Bool) (i : Nat) : Nat := fld (d.getD 2 0) ((if dst then 27 else 19) + 2 * i) 2
def cRanks (d : List Nat) : Nat := cSize d 0 * cSize d 1 * cSize d 2

/-- The dimension that a layout shards over axis a. -/
def cDim (d : List Nat) (dst : Bool) (a : Nat) : Option Nat := (upto (cNd d)).find? (fun i => cLay d dst i == a + 1)

/-- Whether a descriptor keeps R195, R196, R309 and R311. DESIGN CHOICE (log entry 13): an extent of 0 within NDIM, a MYRANK that is no rank,
and a PSUM bit or layout code of an axis beyond NAX or a dimension beyond NDIM are refused like a reserved value. -/
def collOk (d : List Nat) : Bool :=
  let ctl := d.getD 2 0
  let nax := fld ctl 12 2
  let ieee := fun (t : Nat) => Nat.ble 9 t && Nat.ble t 0x0C
  fld ctl 47 17 == 0 && nax != 3 && fld (d.getD 3 0) 39 25 == 0 && d.getD 7 0 == 0
    && (if cEtag d == 0x0E then cOtag d == 0x0E else ieee (cEtag d) && ieee (cOtag d))
    && (upto 3).all (fun a => Nat.ble 1 (cSize d a) && Nat.ble (cSize d a) 4096 && (Nat.ble a nax || cSize d a == 1) && (Nat.ble a nax || !cPsum d a))
    && Nat.ble (cRanks d) 4096 && Nat.blt (cMy d) (cRanks d)
    && (upto 4).all (fun i => (cExt d i != 0) == Nat.blt i (cNd d))
    && [false, true].all (fun dst =>
        (upto 4).all (fun i => cLay d dst i == 0
          || (Nat.blt i (cNd d) && Nat.ble (cLay d dst i) (nax + 1) && cExt d i % cSize d (cLay d dst i - 1) == 0
              && (upto i).all (fun j => cLay d dst j != cLay d dst i))))
    && (upto 3).all (fun a => !cPsum d a || (cDim d false a).isNone)

/-- A rank's coordinate on an axis (R309). -/
def cCoord (d : List Nat) (r a : Nat) : Nat :=
  match a with
  | 0 => r / (cSize d 1 * cSize d 2)
  | 1 => r / cSize d 2 % cSize d 1
  | _ => r % cSize d 2

def cRank (d : List Nat) (c : List Nat) : Nat := (c.getD 0 0 * cSize d 1 + c.getD 1 0) * cSize d 2 + c.getD 2 0

/-- A rank's block: first index and length of each dimension. -/
def cBlock (d : List Nat) (dst : Bool) (r : Nat) : List (Nat × Nat) :=
  (upto (cNd d)).map (fun i =>
    match cLay d dst i with
    | 0 => (0, cExt d i)
    | a + 1 => let n := cExt d i / cSize d a; (cCoord d r a * n, n))

def cCount (b : List (Nat × Nat)) : Nat := b.foldl (fun n x => n * x.2) 1

/-- The element numbered n of a block, as global indices. -/
def cIndices (b : List (Nat × Nat)) (n : Nat) : List Nat :=
  (b.foldr (fun x (acc : List Nat × Nat) => ((x.1 + acc.2 % x.2) :: acc.1, acc.2 / x.2)) ([], n)).1

/-- The number of global indices in a block. -/
def cNumber (b : List (Nat × Nat)) (g : List Nat) : Nat := (b.zip g).foldl (fun n x => n * x.1.2 + (x.2 - x.1.1)) 0

/-- The ranks that contribute to element g of rank q's destination, ascending (R310). -/
def cContrib (d : List Nat) (q : Nat) (g : List Nat) : List Nat :=
  let co := fun (a : Nat) =>
    if cPsum d a then upto (cSize d a)
    else match cDim d false a with
      | some i => [g.getD i 0 / (cExt d i / cSize d a)]
      | none => [cCoord d q a]
  (co 0).flatMap (fun x => (co 1).flatMap (fun y => (co 2).map (fun z => cRank d [x, y, z])))

/-- The bytes of an element of a tag. -/
def cBytes (t : Nat) : Nat := if t == 9 || t == 0x0A then 2 else if t == 0x0C then 8 else 4

def cSrcBytes (d : List Nat) (r : Nat) : Nat := cCount (cBlock d false r) * cBytes (cEtag d)
def cDstBytes (d : List Nat) (r : Nat) : Nat := cCount (cBlock d true r) * cBytes (cOtag d)

/-- One destination element of rank q (R310): `el` gives element n of a rank's source block. -/
def cValue (d : List Nat) (q : Nat) (el : Nat → Nat → Nat) (g : List Nat) : Nat :=
  let xs := cContrib d q g
  let r0 := xs.headD 0
  let sb := cBlock d false r0
  let n := cNumber sb g
  if !(upto 3).any (cPsum d) then convert 0 (cEtag d) (cOtag d) .rne true (el r0 n)
  else if cEtag d == 0x0E then
    wrap 32 (satCtr (xs.foldl (fun acc r => acc + (if el r n == 2 ^ 31 then -ctrMax else sval 32 (el r n))) (0 : Int)))
  else
    let lo := n / 32 * 32
    let len := Nat.min 32 (cCount sb - lo)
    let fi := ieeeOf (cEtag d)
    let E := blockExp fi (xs.flatMap (fun r => (upto len).map (fun j => el r (lo + j))))
    reduceElem (ieeeOf (cOtag d)) E (xs.map (fun r => (r, fi.value (el r n))))

/-- CHLOG and NCH of a destination of n bytes (R410). -/
def chLog (n : Nat) : Nat := ((upto 52).map (fun i => i + 12)).find? (fun k => Nat.ble (ceilDiv n (2 ^ k)) 4096) |>.getD 12

/-! ### Steps (R311) -/

/-- A step of the exchange: phase A of the reduction over an axis for the low byte of the exponents, or for what lies above it, which FP64
has (log entry 13); phase B, with or without the scatter onto a dimension; a permute of two axes; an all-to-all; an all-gather. -/
inductive CStep
  | exps (a : Nat) (high : Bool)
  | sum (a : Nat) (scatter : Bool)
  | permute (a b : Nat)
  | toAll (a : Nat)
  | gather (a : Nat)
deriving DecidableEq, Repr

/-- Whether the dimension that SLAY shards over axis a moves to axis b by a permute (R311). -/
def cPermutes (d : List Nat) (a b : Nat) : Bool :=
  a != b && cSize d a == cSize d b && (cDim d false a).isSome && cDim d false a == cDim d true b && (cDim d true a).isNone
    && (cDim d false b).isNone && !cPsum d a && !cPsum d b

/-- The steps in their order (R311): the reduction over all PSUM axes with one phase A, the permutes, the all-to-alls, the all-gathers. -/
def cSteps (d : List Nat) : List CStep :=
  let moved := fun (a : Nat) => (upto 3).any (fun b => cPermutes d a b)
  let sums := (upto 3).filter (cPsum d)
  let shards := (upto 3).filter (fun a => !cPsum d a && (cDim d false a).isSome && !moved a)
  (if cEtag d == 0x0E then [] else sums.flatMap (fun a => (if cEtag d == 0x0C then [.exps a true] else []) ++ [.exps a false])) ++ sums.map (fun a => .sum a (cDim d true a).isSome)
    ++ (upto 3).flatMap (fun a => ((upto 3).filter (cPermutes d a)).map (.permute a))
    ++ (shards.filter (fun a => (cDim d true a).isSome && cDim d true a != cDim d false a)).map .toAll
    ++ (shards.filter (fun a => (cDim d true a).isNone)).map .gather

/-- What binds the elements a rank holds, for each axis: the source layout, the destination layout, or nothing. -/
abbrev CBound := List (Option Bool)

/-- What binds them after a step. -/
def CStep.after (b : CBound) : CStep → CBound
  | .exps .. => b
  | .sum a scatter => if scatter then b.set a (some true) else b
  | .permute a c => (b.set a none).set c (some true)
  | .toAll a => b.set a (some true)
  | .gather a => b.set a none

/-- What binds them before step i. -/
def cBound (d : List Nat) (i : Nat) : CBound := ((cSteps d).take i).foldl CStep.after [some false, some false, some false]

/-- Whether rank r holds element g. -/
def cHolds (d : List Nat) (b : CBound) (r : Nat) (g : List Nat) : Bool :=
  (upto 3).all (fun a =>
    match b.getD a none with
    | none => true
    | some dst => match cDim d dst a with
      | some i => g.getD i 0 / (cExt d i / cSize d a) == cCoord d r a
      | none => true)

/-- The whole tensor, and the indices of its element n. -/
def cWhole (d : List Nat) : List (Nat × Nat) := (upto (cNd d)).map (fun i => (0, cExt d i))
def cAt (d : List Nat) (n : Nat) : List Nat := cIndices (cWhole d) n

/-- The number of destination chunks in a piece (R312), and of pieces. -/
def cPieceChunks (d : List Nat) : Nat := Nat.max 1 (Config.cisternShare / 2 ^ chLog (cDstBytes d 0))
def cPieceBytes (d : List Nat) : Nat := cPieceChunks d * 2 ^ chLog (cDstBytes d 0)
def cPieces (d : List Nat) : Nat := ceilDiv (cDstBytes d 0) (cPieceBytes d)

/-- The piece that element g belongs to: by its offset in the destination blocks that hold it. -/
def cPieceOf (d : List Nat) (g : List Nat) : Nat :=
  let ls := (cBlock d true 0).map Prod.snd
  (ls.zip g).foldl (fun n x => n * x.1 + x.2 % x.1) 0 * cBytes (cOtag d) / cPieceBytes d

/-- The elements of a piece that a rank holds, ascending. -/
def cElems (d : List Nat) (b : CBound) (piece r : Nat) : List Nat :=
  (upto (cCount (cWhole d))).filter (fun n => cHolds d b r (cAt d n) && cPieceOf d (cAt d n) == piece)

/-- The rank at coordinate y of a rank's ring on axis a, and the next rank on it (R312). -/
def cPeer (d : List Nat) (r a y : Nat) : Nat := cRank d ((upto 3).map (fun b => if b == a then y else cCoord d r b))
def cNext (d : List Nat) (r a : Nat) : Nat := cPeer d r a ((cCoord d r a + 1) % cSize d a)

/-- The rank a permute sends to: coordinates a and b exchanged. -/
def cSwap (d : List Nat) (r a b : Nat) : Nat :=
  cRank d ((upto 3).map (fun x => if x == a then cCoord d r b else if x == b then cCoord d r a else cCoord d r x))

/-- The rank a step's chunks go to from rank r. -/
def CStep.next (d : List Nat) (r : Nat) : CStep → Nat
  | .exps a _ => cNext d r a
  | .sum a _ => cNext d r a
  | .permute a b => cSwap d r a b
  | .toAll a => cNext d r a
  | .gather a => cNext d r a

/-- The next ranks of the steps. -/
def cNexts (d : List Nat) (r : Nat) : List Nat := ((cSteps d).map (CStep.next d r)).filter (fun q => q != r)

/-- The bytes of one value of a step's chunks (R312): one for an exponent, 9 for partial sums. -/
def CStep.width (d : List Nat) : CStep → Nat
  | .exps .. => 1
  | .sum _ _ => 9
  | _ => cBytes (cOtag d)

/-- How many chunks a rank takes in a step. -/
def CStep.count (d : List Nat) (r : Nat) : CStep → Nat
  | .exps a _ => if Nat.blt 1 (cSize d a) then 1 else 0
  | .sum a scatter => if scatter then cSize d a - 1 else if Nat.blt 1 (cSize d a) then 1 else 0
  | .permute a b => if cSwap d r a b == r then 0 else 2
  | .toAll a => cSize d a - 1
  | .gather a => cSize d a - 1

/-! ### Partial sums (R56, R57, R231): 66 bits of a sum and above them a kind: 0 a sum, 1 a NaN with its rank, 2 infinities with the
lowest ranks that supplied +∞ and -∞, each plus 1. The layout is the model's (log entry 13). -/

def partKind (p : Nat) : Nat := fld p 66 2

/-- The lower of two ranks plus 1, where 0 is none. -/
def lowerRank (a b : Nat) : Nat := if a == 0 then b else if b == 0 then a else Nat.min a b

/-- A rank's contribution to an element, on the grid of its block's exponent. -/
def partOf (f : IEEE) (E : Int) (rank v : Nat) : Nat :=
  match f.value v with
  | .nan => 2 ^ 66 + rank
  | .inf neg => 2 * 2 ^ 66 + (if neg then (rank + 1) * 2 ^ 13 else rank + 1)
  | x => wrap 66 (gridInt E x)

/-- Two partial sums added. -/
def partAdd (p q : Nat) : Nat :=
  if partKind p == 1 && partKind q == 1 then 2 ^ 66 + Nat.min (fld p 0 12) (fld q 0 12)
  else if partKind p == 1 then p
  else if partKind q == 1 then q
  else if partKind p == 2 && partKind q == 2 then
    2 * 2 ^ 66 + lowerRank (fld p 0 13) (fld q 0 13) + lowerRank (fld p 13 13) (fld q 13 13) * 2 ^ 13
  else if partKind p == 2 then p
  else if partKind q == 2 then q
  else (p + q) % 2 ^ 66

/-- The element of a whole sum, rounded once. -/
def partEnd (fo : IEEE) (E : Int) (p : Nat) : Nat :=
  match partKind p with
  | 1 => fo.rankNan (fld p 0 12)
  | 2 =>
    let pos := fld p 0 13
    let neg := fld p 13 13
    if pos != 0 && neg != 0 then fo.rankNan (Nat.min pos neg - 1) else fo.infBits (pos == 0)
  | _ =>
    let n := sval 66 p
    IEEE.roundFin fo .rne (decide (n < 0)) n.natAbs (E - 50) false

/-- The number of element n of the tensor in a rank's source block, and the block of R56 it lies in. -/
def cSrcNumber (d : List Nat) (r n : Nat) : Nat := cNumber (cBlock d false r) (cAt d n)

/-- The blocks of R56 that some elements of a rank lie in, ascending. -/
def cBlocks (d : List Nat) (r : Nat) (ns : List Nat) : List Nat := sortUniq (ns.map (fun n => cSrcNumber d r n / 32))

/-- A rank's exponent of a block, as an exponent field (R56). -/
def cBlockExp (d : List Nat) (r : Nat) (el : Nat → Nat) (blk : Nat) : Nat :=
  let fi := ieeeOf (cEtag d)
  let lo := blk * 32
  let len := Nat.min 32 (cCount (cBlock d false r) - lo)
  (blockExp fi ((upto len).map (fun j => el (lo + j))) + fi.bias).toNat

/-- The value of CTR32 (R226). -/
def cCtr (v : Nat) : Int := if v == 2 ^ 31 then -ctrMax else sval 32 v

end Sys2Proof.Machine
end

