-- ==== Sys2Proof/Machine/Collect.lean ====
section
/-! DEFINITION. Collectives as they run on this module (R196, R309-R314, R391, R408-R411), and what a port that goes down takes with it
(R405, R406). The payloads of the flits are the model's own layout (log entry 13). -/

namespace Sys2Proof.Machine

/-! ### The exchange of descriptors (R313, R408) -/

/-- A control unit: its kind (1 start, 2 done, 3 failed), the sequence number, the rank, the axes on whose rings it has an end-to-end path,
and words. -/
def collUnit (kind seq rank ends : Nat) (ws : List Dword) : BitVec 768 :=
  BitVec.ofNat 768 (kind + seq * 2 ^ 8 + rank * 2 ^ 40 + ends * 2 ^ 52
    + (numbered 0 ws).foldl (fun n w => n + w.2.toNat * 2 ^ (64 * (w.1 + 1))) 0)

/-- What a rank exchanges: its descriptor without MYRANK and VA bases, and the digest of its rank table. -/
def collWords (d ranks : List Nat) : List Dword :=
  let ctl := d.getD 2 0
  [dw (ctl - cMy d * 2 ^ 35), dw (d.getD 3 0), dw (d.getD 5 0), dw (d.getD 6 0), Config.digest ranks]

/-- Send one control unit of a COLL to other modules. -/
def State.collMail (s : State) (x : Coll) (kind : Nat) (ws : List Dword) : List Nat → State
  | [] => s
  | pod :: ps =>
    let s1 := if pod == s.fab.modid then s
      else s.mail { typ := 8, dst := pod, fn := x.fn, tid := x.seq % 2048, era := some x.era,
                    units := [collUnit kind x.seq x.my (Table.getD x.ends x.my 0) ws] }
    State.collMail s1 x kind ws ps

/-- Send one control unit to every other rank. A rank that does not know the others, because it could not read its descriptor or rank table or
its descriptor is malformed, tells every module it has a route to (R408, R409; log entry 13). -/
def State.collTell (s : State) (x : Coll) (kind : Nat) (ws : List Dword) : State :=
  s.collMail x kind ws (if x.ranks.isEmpty then s.fab.routes.map Prod.fst else x.ranks)

/-- The word of a failure: its reason, and the rank where it is known. -/
def failWord (reason : Nat) (lrank : Option Nat) : Dword :=
  dw (reason + (match lrank with | some r => r * 2 ^ 4 + 2 ^ 16 | none => 0))

/-- The rank that a module is in a rank table. -/
def rankOf? (ranks : List Nat) (pod : Nat) : Option Nat := ((numbered 0 ranks).find? (fun r => r.2 == pod)).map Prod.fst

/-- What a module has told is taken in: the words of a start under its rank, or under 4096 and the rank it gives itself where this rank's
table does not name it; a failure as a collective fault to report. -/
def Coll.hear (x : Coll) (q : Heard) : Coll :=
  let r := (rankOf? x.ranks q.pod).getD (4096 + q.rank)
  if q.words.length == 5 then { x with saw := Table.set x.saw r q.words, ends := Table.set x.ends r q.ends }
  else
    let w := (q.words.headD 0).toNat
    { x with fail := x.fail.or (some (fld w 0 4, if bit w 16 then some (fld w 4 12) else none)) }

/-! ### Chunks on the rings (R312) -/

/-- The most bytes of one ring-chunk letter. -/
def letterBytes : Nat := 96 * 32768

/-- What names a chunk of a collective, and the chunk of a name. -/
def RChunk.name (q : RChunk) : Nat :=
  q.lap + 2 * bnat q.direct + 2 ^ 2 * q.seg + 2 ^ 16 * q.step + 2 ^ 24 * q.orig + 2 ^ 36 * q.piece
def chunkOf (name : Nat) (vals : List Nat) : RChunk :=
  { piece := name / 2 ^ 36, step := fld name 16 8, lap := fld name 0 1, seg := fld name 2 13, orig := fld name 24 12, direct := bit name 1,
    vals := vals }

/-- The head of a ring-chunk letter: the sequence number, the chunk's name, the bytes of the whole chunk. -/
def unitRing (seq name len : Nat) : BitVec 768 := BitVec.ofNat 768 (seq + name * 2 ^ 32 + len * 2 ^ 128)

/-- Send a chunk's bytes to a module, a letter at a time. -/
def State.sendLetters (s : State) (fn era seq name len pod : Nat) : Nat → List Byte → State
  | 0, _ => s
  | n + 1, bs =>
    let s1 := s.mail { typ := 5, dst := pod, fn := fn, tid := seq % 2048, era := some era,
                       units := unitRing seq name len :: dataUnits (bs.take letterBytes) }
    State.sendLetters s1 fn era seq name len pod n (bs.drop letterBytes)

/-- The step of a chunk or of the exchange. -/
def cStep (d : List Nat) (i : Nat) : Option CStep := (cSteps d)[i]?

/-- Send a chunk to a rank. -/
def State.sendChunk (s : State) (x : Coll) (dest : Nat) (q : RChunk) : State :=
  let w := ((cStep x.desc q.step).map (CStep.width x.desc)).getD 1
  let bs := q.vals.flatMap (bytesLE w)
  s.sendLetters x.fn x.era x.seq q.name bs.length (x.ranks.getD dest 0) (Nat.max 1 (ceilDiv bs.length letterBytes)) bs

def State.sendChunks (s : State) (x : Coll) : List (Nat × RChunk) → State
  | [] => s
  | (dest, q) :: qs => State.sendChunks (s.sendChunk x dest q) x qs

def State.coll? (s : State) (o : Nat) : Option Coll := Table.get? s.fab.colls o
def State.modColl (s : State) (o : Nat) (f : Coll → Coll) : State :=
  match s.coll? o with
  | some x => s.modFab (fun y => { y with colls := Table.set y.colls o (f x) })
  | none => s

/-! ### A rank's part in a step (R311, R312) -/

/-- Element number n of this rank's source block, as its tag's pattern. -/
def Coll.elem (x : Coll) (n : Nat) : Nat :=
  let z := cBytes (cEtag x.desc)
  ofBytes ((x.src.drop (z * n)).take z)

/-- The elements held at the beginning of the step under way. -/
def Coll.mine (x : Coll) : List Nat := cElems x.desc (cBound x.desc x.step) x.piece x.my

/-- Of some elements, those that DLAY gives to coordinate y of axis a. -/
def cSlice (d : List Nat) (a y : Nat) (ns : List Nat) : List Nat :=
  ns.filter (fun n => match cDim d true a with
    | some i => (cAt d n).getD i 0 / (cExt d i / cSize d a) == y
    | none => true)

def Coll.vals (x : Coll) (ns : List Nat) : List Nat := ns.map (fun n => Table.getD x.held n 0)

/-- The blocks of R56 of this piece and their exponent fields, ascending. -/
def Coll.blocks (x : Coll) : List Nat := cBlocks x.desc x.my (cElems x.desc (cBound x.desc 0) x.piece x.my)

/-- Of the exponent fields, the byte that a part of phase A exchanges. -/
def expByte (high : Bool) (e : Nat) : Nat := if high then e / 256 else e % 256
def Coll.expList (x : Coll) (high : Bool) : List Nat := x.blocks.map (fun b => expByte high (Table.getD x.exps b 1))

def Coll.setVals (x : Coll) (ns vs : List Nat) : Coll := { x with held := (ns.zip vs).foldl (fun t p => Table.set t p.1 p.2) x.held }

/-- The greatest byte of all contributors is known: above the low byte it leaves the low byte of those that have it in the running. -/
def expWith (high : Bool) (e v : Nat) : Nat := if high then v * 256 + (if e / 256 == v then e % 256 else 0) else e / 256 * 256 + v
def Coll.setExps (x : Coll) (high : Bool) (vs : List Nat) : Coll :=
  { x with exps := (x.blocks.zip vs).foldl (fun t p => Table.set t p.1 (expWith high (Table.getD t p.1 1) p.2)) x.exps }

/-- A chunk of the step under way. -/
def Coll.chunk (x : Coll) (lap seg orig : Nat) (direct : Bool) (vals : List Nat) : RChunk :=
  { piece := x.piece, step := x.step, lap := lap, seg := seg, orig := orig, direct := direct, vals := vals }

/-- Whether a path between ranks of this rank's ring on an axis is end to end, as each of them told at its start (R302, R312). -/
def Coll.sealedRing (x : Coll) (a : Nat) : Bool :=
  (upto (cSize x.desc a)).any (fun y => bit (Table.getD x.ends (cPeer x.desc x.my a y) 0) a)

/-- The chunks with which this rank begins a step, with the ranks they go to. Where a path of the ring is end to end, a chunk of a step
that does not reduce goes straight to its destination (R312). -/
def Coll.firstChunks (x : Coll) (st : CStep) : List (Nat × RChunk) :=
  let d := x.desc
  let dest := st.next d x.my
  let ns := x.mine
  let others := fun (a : Nat) => (upto (cSize d a)).filter (fun y => y != cCoord d x.my a)
  match st with
  | .exps a high => if Nat.blt 1 (cSize d a) && cCoord d x.my a == 0 then [(dest, x.chunk 0 0 x.my false (x.expList high))] else []
  | .sum a false => if Nat.blt 1 (cSize d a) && cCoord d x.my a == 0 then [(dest, x.chunk 0 0 x.my false (x.vals ns))] else []
  | .sum a true =>
    if Nat.blt 1 (cSize d a) then
      let j := (cCoord d x.my a + cSize d a - 1) % cSize d a
      [(dest, x.chunk 0 j x.my false (x.vals (cSlice d a j ns)))]
    else []
  | .permute a _ =>
    if dest == x.my then (others a).map (fun y => (cPeer d x.my a y, x.chunk 0 0 x.my true (x.vals ns)))
    else [(dest, x.chunk 0 0 x.my true (x.vals ns))]
  | .toAll a =>
    let far := x.sealedRing a
    (others a).map (fun y => (if far then cPeer d x.my a y else dest, x.chunk 0 y x.my far (x.vals (cSlice d a y ns))))
  | .gather a =>
    if x.sealedRing a then (others a).map (fun y => (cPeer d x.my a y, x.chunk 0 0 x.my true (x.vals ns)))
    else if Nat.blt 1 (cSize d a) then [(dest, x.chunk 0 0 x.my false (x.vals ns))] else []

/-- What a chunk of the step under way does: what this rank holds then, and the chunks it sends on. A reduction's chunk goes round the
ring once and gathers; where nothing is scattered the last rank sends the whole sums round again. A permute brings the block of the rank
whose coordinates are exchanged (R311) and that of the rank that R310 names as the contributor, which differ only where ranks disagree on
what their layout replicates; the value is R310's (log entry 13). -/
def Coll.takeChunk (x : Coll) (st : CStep) (q : RChunk) : Coll × List (Nat × RChunk) :=
  let d := x.desc
  let dest := st.next d x.my
  let ns := x.mine
  let from_ := cElems d (cBound d x.step) x.piece q.orig
  let y := { x with got := x.got + 1 }
  match st with
  | .exps a high =>
    let n := cSize d a
    let c := cCoord d x.my a
    if q.lap == 0 then
      let vs := ((x.expList high).zip q.vals).map (fun p => Nat.max p.1 p.2)
      if c == n - 1 then (y.setExps high vs, [(dest, x.chunk 1 0 x.my false vs)]) else (x, [(dest, x.chunk 0 0 x.my false vs)])
    else (y.setExps high q.vals, if c + 2 == n then [] else [(dest, x.chunk 1 0 x.my false q.vals)])
  | .sum a false =>
    let n := cSize d a
    let c := cCoord d x.my a
    if q.lap == 0 then
      let vs := ((x.vals ns).zip q.vals).map (fun p => partAdd p.1 p.2)
      if c == n - 1 then (y.setVals ns vs, [(dest, x.chunk 1 0 x.my false vs)]) else (x, [(dest, x.chunk 0 0 x.my false vs)])
    else (y.setVals ns q.vals, if c + 2 == n then [] else [(dest, x.chunk 1 0 x.my false q.vals)])
  | .sum a true =>
    let part := cSlice d a q.seg ns
    let vs := ((x.vals part).zip q.vals).map (fun p => partAdd p.1 p.2)
    if cCoord d x.my a == q.seg then (y.setVals part vs, []) else (y, [(dest, x.chunk 0 q.seg x.my false vs)])
  | .permute a b => (if cSwap d q.orig a b == q.orig then y.setVals from_ q.vals else y, [])
  | .toAll a => (y.setVals (cSlice d a (cCoord d x.my a) from_) q.vals, [])
  | .gather _ => (y.setVals from_ q.vals, [])

/-- Where a chunk is only passed on, or passed on as well: an all-to-all's chunk up to its destination, an all-gather's up to the rank
before the one it comes from. -/
def Coll.passOn (x : Coll) (q : RChunk) : Bool × Option Nat :=
  match cStep x.desc q.step with
  | some (.toAll a) => if q.direct || cCoord x.desc x.my a == q.seg then (true, none) else (false, some (cNext x.desc x.my a))
  | some (.gather a) => (true, if q.direct || cNext x.desc x.my a == q.orig then none else some (cNext x.desc x.my a))
  | _ => (true, none)

/-- The grid of an element's block. -/
def Coll.grid (x : Coll) (n : Nat) : Int :=
  ((Table.getD x.exps (cSrcNumber x.desc x.my n / 32) 1 : Nat) : Int) - (ieeeOf (cEtag x.desc)).bias

def CStep.sums : CStep → Bool
  | .sum _ _ => true
  | _ => false

/-- A piece begins: its elements are read from the source; where nothing is summed they take OTAG at once (R310, R312). -/
def Coll.load (x : Coll) : Coll :=
  let d := x.desc
  let ns := cElems d (cBound d 0) x.piece x.my
  let el := fun (n : Nat) => x.elem (cSrcNumber d x.my n)
  let y := { x with held := ns.map (fun n => (n, if (upto 3).any (cPsum d) then el n else convert 0 (cEtag d) (cOtag d) .rne true (el n))) }
  if (cSteps d).any (fun st => match st with | .exps .. => true | _ => false) then
    { y with exps := (cBlocks d x.my ns).map (fun b => (b, cBlockExp d x.my x.elem b)) }
  else y

/-- Before the first sum the elements become partial sums. -/
def Coll.toParts (x : Coll) : Coll :=
  let before := Nat.blt 0 x.step && ((cStep x.desc (x.step - 1)).map CStep.sums).getD false
  if ((cStep x.desc x.step).map CStep.sums).getD false && !before then
    { x with held := x.held.map (fun (p : Nat × Nat) =>
        (p.1, if cEtag x.desc == 0x0E then wrap 66 (cCtr p.2) else partOf (ieeeOf (cEtag x.desc)) (x.grid p.1) x.my p.2)) }
  else x

/-- After the last sum the partial sums become elements of OTAG. -/
def Coll.fromParts (x : Coll) : Coll :=
  let next := ((cStep x.desc (x.step + 1)).map CStep.sums).getD false
  if ((cStep x.desc x.step).map CStep.sums).getD false && !next then
    { x with held := x.held.map (fun (p : Nat × Nat) =>
        (p.1, if cEtag x.desc == 0x0E then wrap 32 (satCtr (sval 66 p.2)) else partEnd (ieeeOf (cOtag x.desc)) (x.grid p.1) p.2)) }
  else x

/-- A step ends: this rank holds what the step leaves it. -/
def Coll.leave (x : Coll) (st : CStep) : Coll :=
  let b := st.after (cBound x.desc x.step)
  let y := x.fromParts
  { y with held := y.held.filter (fun (p : Nat × Nat) => cHolds x.desc b x.my (cAt x.desc p.1)), step := x.step + 1, begun := false, got := 0 }

/-- A piece ends: its elements of the destination block are final, in the order of the block. -/
def Coll.finish (x : Coll) : Coll :=
  let d := x.desc
  let b := cBlock d true x.my
  let lo := x.piece * cPieceBytes d / cBytes (cOtag d)
  let n := Nat.min (cPieceBytes d / cBytes (cOtag d)) (cCount b - lo)
  let vs := (upto n).map (fun i => Table.getD x.held (cNumber (cWhole d) (cIndices b (lo + i))) 0)
  { x with result := x.result ++ vs.flatMap (bytesLE (cBytes (cOtag d))), piece := x.piece + 1, step := 0, begun := false, held := [], exps := [] }

/-! ### Collectives that fail (R409-R411) -/

/-- The collective fault record of R410. -/
def collRecord (x : Coll) (reason : Nat) (lrank : Option Nat) : List Byte :=
  let n := cDstBytes x.desc x.my
  let w0 := x.seq + reason * 2 ^ 32 + (match lrank with | some r => r * 2 ^ 36 + 2 ^ 48 | none => 0)
  let w1 := x.ranks.length + ceilDiv n (2 ^ chLog n) * 2 ^ 13 + chLog n * 2 ^ 26
  let inc := ofBits ((x.saw.filter (fun r => r.2.length == 5)).map Prod.fst)
  bytesLE 8 w0 ++ bytesLE 8 w1 ++ bytesLE 48 0 ++ bytesLE 512 inc ++ bytesLE 512 (2 ^ x.chunks - 1)

/-- A COLL fails with a collective fault: the record, once the block it lies in is filled (R273), then the knot (R410). A fill that fails
gives the operation its own cause (R421). -/
def State.collFault (s : State) (o : Nat) (e : EngOp) (x : Coll) (reason : Nat) (lrank : Option Nat) : State :=
  let a := x.addr + 0x40
  let link := if reason == 2 then linkBit else 0
  let fault := fun (st : Nat) => e.fault 0x13 x.addr x.my (spaceBits 2 + link + st)
  if (s.addrBad e.core e.strand false (a : Int) 1088 1).isSome then s.failOp o (fault norecBit)
  else match s.spots e 0 true 0 ((upto 1088).map (fun i => ((a + i : Nat) : Int))) with
    | (.ok ys, s1) =>
      (match s1.writeHere o e ys (collRecord x reason lrank) with
      | (some none, s2) => s2.failOp o (fault 0)
      | (some (some key), s2) => s2.failOp o (e.fault 0x16 (granuleAddr key) x.my (poisonBits key + spaceBits 0))
      | (none, s2) => s2.retryOp e true (.engineStart o))
    | (.wait, s1) => s1.retryOp e true (.engineStart o)
    | (.bad c v st _, s1) => s1.failOp o (e.fault c v x.my st)

/-- A COLL fails with a cause of its own: the other ranks are told (R408, R409). -/
def State.collOwn (s : State) (o : Nat) (x : Coll) (t : Trap) : State :=
  (s.collTell x 3 [failWord 3 (some x.my)]).failOp o t

/-- A COLL at its start, as far as it is known: what its operation has read of the descriptor (R195) and of the rank table. -/
def State.collAt (s : State) (o : Nat) (e : EngOp) (a seq : Nat) (d ranks : List Nat) : Coll :=
  { op := o, fn := e.fn, seq := seq, addr := a, first := s.env.ns, since := s.env.ns, my := cMy d, desc := d, ranks := ranks
    era := (s.fnFab e.fn).era }

/-- An operation fails because of a remote transaction of its own: a COLL tells the other ranks (R409). -/
def State.failTold (s : State) (o : Nat) (e : EngOp) (t : Trap) : State :=
  match s.coll? o, e.kind with
  | some x, _ => s.collOwn o x t
  | none, .coll a seq => s.collOwn o { s.collAt o e a seq [] (elemsOf 2 (e.data.length / 2) e.data) with my := e.next } t
  | none, _ => s.failOp o t

/-! ### The course of a COLL -/

/-- Whether every rank below r, and whether every rank, has told its start. -/
def Coll.heardBelow (x : Coll) (r : Nat) : Bool := (upto r).all (fun i => (Table.get? x.saw i).isSome)
def Coll.heardAll (x : Coll) : Bool := x.heardBelow x.ranks.length

/-- The index of the lowest rank whose exchange differs from rank 0's, once every rank below it has told its start (R408). -/
def Coll.differs (x : Coll) : Option Nat :=
  match Table.get? x.saw 0 with
  | none => none
  | some w =>
    match ((x.saw.filter (fun (r : Nat × List Dword) => r.2 != w)).map (fun (r : Nat × List Dword) => r.1 % 4096)).min? with
    | some r => if x.heardBelow (Nat.min r x.ranks.length) then some r else none
    | none => none

/-- The destination chunk to be written next: its bytes and their addresses. -/
def Coll.part (x : Coll) : List Byte × List Int :=
  let log := chLog (cDstBytes x.desc x.my)
  let bs := (x.result.drop (x.chunks * 2 ^ log)).take (2 ^ log)
  (bs, (upto bs.length).map (fun i => ((x.desc.getD 1 0 + x.chunks * 2 ^ log + i : Nat) : Int)))

/-- Write the next destination chunk (R411): the translations first, then what lies here, then what lies in other modules. -/
def State.collChunk (s : State) (o : Nat) (e : EngOp) (x : Coll) : Eng Unit × State :=
  let (bs, as) := x.part
  let done := fun (s : State) => s.modColl o (fun y => { y with chunks := y.chunks + 1, writing := false })
  if x.writing then
    match s.farDone o e bs with
    | (.ok _, s1) => (.ok (), done s1)
    | r => r
  else match s.spots e 2 true 0 as with
    | (.wait, s1) => (.wait, s1)
    | (.bad c a st m, s1) => (.bad c a st m, s1)
    | (.ok xs, s1) =>
      match s1.writeHere o e xs bs with
      | (none, s2) => (.wait, s2)
      | (some (some key), s2) => (.bad 0x16 (granuleAddr key) (poisonBits key + spaceBits 2) 0, s2)
      | (some none, s2) =>
        match farRuns 0 (as.zip xs) with
        | [] => (.ok (), done s2)
        | rs => match s2.startRuns o e .write bs rs with
          | .ok s3 => (.wait, s3.modColl o (fun y => { y with writing := true }))
          | .error a => (.bad 0x14 a (spaceBits 2) 0, s2)

/-- This rank has written its destination: it tells the others (R314); with all of them done the operation completes. -/
def State.collDone (s : State) (o : Nat) (e : EngOp) (x : Coll) : State :=
  if x.dones.contains x.my then (if x.dones.length == x.ranks.length then s.completeIn o e 0 else s)
  else
    let s1 := (s.collTell x 2 []).modColl o (fun y => { y with dones := x.my :: y.dones })
    if x.dones.length + 1 == x.ranks.length then s1.completeIn o e 0 else s1

/-- The rings run on as far as the chunks that have come let them (R311, R312): pieces in order, the steps of each in order, the
destination chunks of a piece written before the next begins. -/
def State.collRun (s : State) (o : Nat) : Nat → State
  | 0 => s
  | n + 1 =>
    match s.coll? o, s.op? o with
    | some x, some e =>
      let d := x.desc
      let log := chLog (cDstBytes d x.my)
      if Nat.blt x.chunks (ceilDiv x.result.length (2 ^ log)) then
        match s.collChunk o e x with
        | (.ok _, s1) =>
          (match s1.coll? o with
          | some y => (match y.fail with
            | some (reason, r) => s1.collFault o e y reason r
            | none => State.collRun s1 o n)
          | none => s1)
        | (.wait, s1) => s1.retryOp e true (.engineStart o)
        | (.bad c a st _, s1) => s1.collOwn o x (e.fault c a x.my st)
      else if x.piece == cPieces d then s.collDone o e x
      else match cStep d x.step with
        | none =>
          (match x.bad with
          | some place => (s.collTell x 3 [failWord 3 (some x.my)]).cisternBad o e place x.my
          | none => State.collRun (s.modColl o (fun y => (if y.step == 0 then y.load else y).finish)) o n)
        | some st =>
          if !x.begun then
            let y := (if x.step == 0 then x.load else x).toParts
            State.collRun ((s.sendChunks y (y.firstChunks st)).modColl o (fun _ => { y with begun := true, since := s.env.ns })) o n
          else match x.mail.find? (fun q => q.piece == x.piece && q.step == x.step) with
            | some q =>
              let (y, out) := ({ x with mail := x.mail.erase q }).takeChunk st q
              State.collRun ((s.sendChunks y out).modColl o (fun _ => y)) o n
            | none => if x.got == st.count d x.my then State.collRun (s.modColl o (fun _ => x.leave st)) o n else s
    | _, _ => s

/-- Fuel enough for everything that can happen without another chunk. -/
def Coll.fuel (x : Coll) : Nat :=
  (cPieces x.desc + 1) * (2 * (cSteps x.desc).length + 4) + x.mail.length + ceilDiv (cDstBytes x.desc x.my) (2 ^ chLog (cDstBytes x.desc x.my)) + 4

/-- A COLL goes on as far as what it has heard lets it; a destination chunk whose writing has begun is finished first (R411). -/
def State.collGo (s : State) (o : Nat) : State :=
  match s.coll? o, s.op? o with
  | some x, some e =>
    (match (if x.writing then none else x.fail), x.differs with
    | some (reason, r), _ => s.collFault o e x reason r
    | none, some r => if x.writing then s.collRun o x.fuel else s.failOp o (e.fault 0x18 x.addr r (spaceBits 2))
    | none, none => if x.heardAll then s.collRun o x.fuel else s)
  | _, _ => s

/-- A COLL fails with reason 1 or 2: the other ranks are told; it fails once the chunk being written is finished. -/
def State.collLost (s : State) (o : Nat) (x : Coll) (reason : Nat) (lrank : Option Nat) : State :=
  ((s.collTell x 3 [failWord reason lrank]).modColl o
    (fun y => { y with fail := y.fail.or (some (reason, lrank)) })).collGo o

/-- A module that starts the same COLL, but that this rank's table does not name, is told this rank's start too: its ranks cannot agree with
this one's (R408; log entry 13). -/
def State.tellStrangers (s : State) (x : Coll) (qs : List Heard) : State :=
  s.collMail x 1 (collWords x.desc x.ranks) ((qs.filter (fun q => q.words.length == 5 && (rankOf? x.ranks q.pod).isNone)).map Heard.pod)

/-- What other modules told before this module's COLL started is taken over; the earliest of it is when the first rank started (R313). -/
def State.takeEarly (s : State) (o : Nat) (x : Coll) : State :=
  let mine := s.fab.early.filter (fun q => q.fn == x.fn && q.seq == x.seq)
  let s1 := s.modFab (fun f => { f with early := f.early.filter (fun q => !(q.fn == x.fn && q.seq == x.seq)) })
  (s1.tellStrangers x mine).modColl o (fun y => mine.foldl (fun z q => { z.hear q with first := Nat.min z.first q.at_ }) y)

/-- The lowest byte two ranges share. -/
def sharedByte (a n b m : Nat) : Option Nat := if Nat.blt (Nat.max a b) (Nat.min (a + n) (b + m)) then some (Nat.max a b) else none

/-- The ranks of a rank's ring on an axis but itself. -/
def cRing (d : List Nat) (r a : Nat) : List Nat := ((upto (cSize d a)).map (cPeer d r a)).filter (fun q => q != r)

/-- The axes on whose ring this rank has a path that is end to end (R302, R312). -/
def State.sealedAxes (s : State) (fn : Nat) (d ranks : List Nat) : List Nat :=
  (upto 3).filter (fun a => (cRing d (cMy d) a).any (fun r => s.endToEnd fn (ranks.getD r 0)))

/-- The checks of a rank at its start, once its rank table is read (R309, R312, R405, R408, R412): none lets it go on. DEDUCED (log entry
13): a reduction crosses the paths of this rank to the other ranks of its ring on a PSUM axis. -/
def State.collRefuse (s : State) (e : EngOp) (a : Nat) (d ranks : List Nat) : Option Trap :=
  let my := cMy d
  let bad := fun (cause addr : Nat) => some (e.fault cause addr my (spaceBits 2))
  if ranks.any (fun r => Nat.ble (2 ^ 12) r) || ranks.getD my 0 != s.fab.modid || !ranks.all (fun r => ranks.count r == 1) then bad 0x18 a
  else match (numbered 0 ranks).find? (fun r => r.2 != s.fab.modid && fld (Table.getD s.fab.routes r.2 0).toNat 24 5 == 0) with
    | some (i, _) => bad 0x14 (d.getD 4 0 + 2 * i)
    | none =>
      match sharedByte (d.getD 0 0) (cSrcBytes d my) (d.getD 1 0) (cDstBytes d my) with
      | some b => bad 0x10 b
      | none =>
        if (s.sealedAxes e.fn d ranks).any (cPsum d) then bad 0x15 a else none

/-- A COLL whose rank table is read starts (R309, R312, R405, R408, R410): its checks, its source, and the exchange with the other ranks. A
failure of its own it tells them (R409). -/
def State.joinRanks (s : State) (o : Nat) (e : EngOp) (x : Coll) (wait : State → Began) : Began :=
  let d := x.desc
  let own := fun (s1 : State) (t : Trap) => Began.fail (s1.collTell x 3 [failWord 3 (some x.my)]) t
  match s.collRefuse e x.addr d x.ranks with
  | some t => own s t
  | none =>
    match s.spots e 2 true 0 ((upto (cDstBytes d x.my)).map (fun i => ((d.getD 1 0 + i : Nat) : Int))) with
    | (.wait, s1) => wait s1
    | (.bad c v st _, s1) => own s1 (e.fault c v x.my st)
    | (.ok _, s1) =>
      match s1.engRead o e 2 ((upto (cSrcBytes d x.my)).map (fun i => ((d.getD 0 0 + i : Nat) : Int))) with
      | (.wait, s2) => wait s2
      | (.bad c v st _, s2) => own s2 (e.fault c v x.my st)
      | (.ok src, s2) =>
        let ws := collWords d x.ranks
        let y := { x with saw := [(x.my, ws)], ends := [(x.my, ofBits (s2.sealedAxes x.fn d x.ranks))], src := src }
        let s3 := s2.modFab (fun f => { f with colls := Table.set f.colls o y })
        match (cNexts d x.my).find? (fun r => !s3.reachable (x.ranks.getD r 0)) with
        | some r => .go (s3.collLost o y 2 (some r))
        | none => .go (((s3.collTell y 1 ws).takeEarly o y).collGo o)

/-- The start of a COLL (R195, R196, R309, R313, R408): its descriptor and its rank table are read, and then it joins the other ranks. A
sequence number that is none, or is in use, and a descriptor out of line fail it with the rank that the descriptor names; of the first two
no rank is told, for the number is another COLL's or none's (log entry 13). -/
def State.startColl (s : State) (o : Nat) (e : EngOp) (a seq : Nat) : Began :=
  let mine := s.fab.colls.filter (fun (x : Nat × Coll) => x.2.fn == e.fn)
  let s0 := if s.fab.cwait.contains o then s else s.modFab (fun f => { f with cwait := f.cwait ++ [o] })
  let first := s0.fab.cwait.find? (fun w => match s0.op? w with | some y => y.fn == e.fn | none => false)
  if first != some o || Nat.ble 64 mine.length then .wait s0
  else
    let s1 := s0.modFab (fun f => { f with cwait := f.cwait.filter (fun w => w != o) })
    let wait := fun (s2 : State) => Began.wait (s2.modFab (fun f => { f with cwait := o :: f.cwait }))
    let unmatched := seq / 2 ^ 32 != 0 || mine.any (fun x => x.2.seq == seq)
    let layout := fun (r : Nat) => e.fault 0x18 a r (spaceBits 2)
    match s1.engReadP o e a 64 with
    | (.wait, s2) => wait s2
    | (.bad c v st _, s2) =>
      if unmatched then .fail s2 (layout 0)
      else .fail (s2.collTell (s2.collAt o e a seq [] []) 3 [failWord 3 none]) (if a % 64 != 0 then layout 0 else e.fault c v 0 st)
    | (.ok bs, s2) =>
      let d := dwords bs 8
      let my := cMy d
      let own := fun (s3 : State) (t : Trap) => Began.fail (s3.collTell (s3.collAt o e a seq d []) 3 [failWord 3 (some my)]) t
      if unmatched then .fail s2 (layout my)
      else if a % 64 != 0 || !collOk d then own s2 (layout my)
      else match (if e.data.length == 2 * cRanks d then (Eng.ok e.data, s2)
          else (s2.modOp o (fun y => { y with next := my })).engRead o e 2 ((upto (2 * cRanks d)).map (fun i => ((d.getD 4 0 + i : Nat) : Int)))) with
        | (.wait, s3) => wait s3
        | (.bad c v st _, s3) => own s3 (e.fault c v my st)
        | (.ok rb, s3) =>
          let s4 := s3.modOp o (fun y => { y with data := rb, next := my })
          s4.joinRanks o e (s4.collAt o e a seq d (elemsOf 2 (cRanks d) rb)) wait

/-- Whether a rank on this rank's ring of axis a has still to bring its chunk of the step. -/
def Coll.waitsFor (x : Coll) (a r : Nat) : Bool :=
  let d := x.desc
  let ns := cElems d (cBound d x.step) x.piece r
  let part := match cStep d x.step with | some (.toAll b) => cSlice d b (cCoord d x.my b) ns | _ => ns
  (upto (cSize d a)).any (fun y => cPeer d x.my a y == r) && r != x.my && part.any (fun n => (Table.get? x.held n).isNone)

/-- The lowest rank a COLL has not heard from (R409): one that has not told its start, then one that a step waits for, then one that is
not done. -/
def Coll.silent (x : Coll) : Option Nat :=
  let d := x.desc
  if !x.heardAll then (upto x.ranks.length).find? (fun r => (Table.get? x.saw r).isNone)
  else if x.dones.contains x.my then (upto x.ranks.length).find? (fun r => !x.dones.contains r)
  else match cStep d x.step with
    | some (.permute a b) => some (Nat.min (cSwap d x.my a b) (cPeer d x.my a (cCoord d x.my b)))
    | some (.exps a _) => some (cPeer d x.my a ((cCoord d x.my a + cSize d a - 1) % cSize d a))
    | some (.sum a _) => some (cPeer d x.my a ((cCoord d x.my a + cSize d a - 1) % cSize d a))
    | some (.toAll a) => (upto x.ranks.length).find? (fun r => x.waitsFor a r)
    | some (.gather a) => (upto x.ranks.length).find? (fun r => x.waitsFor a r)
    | none => none

/-- The time from which CTMO counts (R313, R409): the first rank's start until every rank has started, then the last progress. -/
def Coll.clock (x : Coll) : Nat := if x.heardAll then x.since else x.first

/-- COLLECTIVE_TIMEOUT: a matched rank had not started, or nothing was heard on the ring, for CTMO (R313, R409). DEDUCED (log entry 13):
a rank that has told the same collective under another sequence number is the one of R196 whose number differs. -/
def execCollectiveTimeout (op : Nat) (lrank : Nat) (s : State) : Host.Outcome State Fault Refusal :=
  match s.coll? op, s.op? op with
  | some x, some e =>
    if Nat.ble (x.clock + s.fab.ctmo * 1000) s.env.ns && x.silent == some lrank && !x.writing then
      let other := !x.heardAll
        && s.fab.early.any (fun q => q.fn == x.fn && q.seq != x.seq && rankOf? x.ranks q.pod == some lrank && q.words == collWords x.desc x.ranks)
      .next (if other then s.collOwn op x (e.fault 0x18 x.addr x.my (spaceBits 2)) else s.collLost op x 1 (some lrank))
    else .next s
  | _, _ => .next s

/-! ### A port goes down (R405) -/

/-- Whether a region has its transactions under a number. -/
def State.xferOf (s : State) (o : Nat) : Bool :=
  s.cores.any (fun c => c.2.strands.any (fun t => t.2.regions.any (fun r => r.2.xfer == some o)))

def State.setTxn (s : State) (tid : Nat) (t : Txn) : State := s.modFab (fun y => { y with txns := Table.set y.txns tid t })
def State.eraseTxn (s : State) (tid : Nat) : State := s.modFab (fun y => { y with txns := Table.erase y.txns tid })

/-- A transaction fails: its operation with it, or the block of a region that waits for it. -/
def State.failTxn (s : State) (tid : Nat) (t : Txn) (cause va status : Nat) (nr : Bool) : State :=
  match s.op? t.op with
  | some e => s.failTold t.op e (e.fault cause va (match t.kind with | .member => t.index | _ => e.index) status)
  | none =>
    if s.xferOf t.op then s.setTxn tid { t with done := true, bad := some (cause, status, va, nr) } else s.eraseTxn tid

/-- The operations of transactions on a port fail; the block of a region learns it (R273, R274). -/
def State.failTxns (s : State) : List (Nat × Txn) → State
  | [] => s
  | (n, t) :: ts =>
    let s1 := match t.kind with
      | .member => s
      | _ => s.failTxn n t 0x14 t.addr (spaceBits 2 + linkBit) false
    State.failTxns s1 ts

/-- The MLDRs with members on a port fail, each with its lowest absent rank. -/
def State.failMembers (s : State) (lost : List (Nat × Txn)) : List Nat → State
  | [] => s
  | o :: os => State.failMembers (s.failMldr o (fun t => lost.any (fun x => x.2.op == o && x.2.index == t)) true) lost os

/-- The COLLs that no longer reach a next rank of theirs fail with reason 2. -/
def State.failRings (s : State) : List (Nat × Coll) → State
  | [] => s
  | (o, x) :: xs =>
    let s1 := match (cNexts x.desc x.my).find? (fun r => !s.reachable (x.ranks.getD r 0)), s.op? o with
      | some r, some _ => if (s.coll? o).isSome && x.dones.length != x.ranks.length then s.collLost o x 2 (some r) else s
      | _, _ => s
    State.failRings s1 xs

/-- The COLLs that lose a flit of theirs with a port fail with reason 2 (R405, R409); the rank beyond is the one it was sent to. -/
def State.failChunks (s : State) (lost : List Flit) : List (Nat × Coll) → State
  | [] => s
  | (o, x) :: xs =>
    let s1 := match lost.find? (fun f => flitFn f == x.fn && flitTid f == x.seq % 2048 && x.ranks.contains (flitDst f)) with
      | some f => if (s.coll? o).isSome then s.collLost o x 2 (rankOf? x.ranks (flitDst f)) else s
      | none => s
    State.failChunks s1 lost xs

/-- A port goes down (R405): its retry buffer is discarded, and its transactions meet their fate. -/
def State.portDown (s : State) (p : Nat) : State :=
  let lost := s.fab.txns.filter (fun (t : Nat × Txn) => t.2.port == p && !t.2.done)
  let flits := (s.port p).retry.filter (fun f => (flitType f == 5 || flitType f == 8) && flitSrc f == s.fab.modid)
  let s1 := s.modPort p (fun x =>
    { x with
      up := false, down := true, retry := [], naks := none, newEp := none, asked := none, prev := none, train := false
      downAt := s.env.ns })
  let s2 := s1.modFab (fun f => { f with txns := f.txns.filter (fun (t : Nat × Txn) => t.2.port != p || t.2.done) })
  let s3 := (s2.failTxns lost).failMembers lost (s2.fab.mldrs.map Prod.fst)
  let s4 := s3.failChunks flits s3.fab.colls
  s4.failRings s4.fab.colls

end Sys2Proof.Machine
end

