-- ==== Sys2Proof/Machine/LinkRows.lean ====
section
/-! DEFINITION. What a flit does on arrival (R296, R305-R308, R313, R314, R406), the key handshake (R300, R301), NAKs and the life of
a port (R297, R299, R405). -/

namespace Sys2Proof.Machine

/-! ### Requests of other modules (R305) -/

/-- Answer a request: to its source, under its transaction number. -/
def State.answer (s : State) (f : Flit) (typ : Nat) (units : List (BitVec 768)) : State :=
  s.mail { typ := typ, dst := flitSrc f, fn := flitFn f, tid := flitTid f, units := units }

/-- The status unit of a failure at this module, AUX[5] set but for a shared page, which is no fault of the translation (R271, R279,
R344). -/
def faultUnit (f : VaFault) : BitVec 768 := unitStatus f.cause (f.status + (if f.cause == 0x0F then 0 else 32)) f.addr f.nr

/-- The key of a transfer that arrives in parts. -/
def inbKey (f : Flit) : Nat := flitSrc f * 2 ^ 11 + flitTid f

def State.setInb (s : State) (k : Nat) (x : Inbound) : State := s.modFab (fun y => { y with inb := Table.set y.inb k x })
def State.dropInb (s : State) (k : Nat) : State := s.modFab (fun y => { y with inb := Table.erase y.inb k })

/-- The end of a write's unit: the last brings the acknowledgement, with the first failure of the write. -/
def State.wrote (s : State) (x : Served) (bad : Option (BitVec 768)) : State :=
  let y := Table.getD s.fab.inb (inbKey x.flit) { va := 0, len := 0 }
  let b := y.bad.or bad
  if x.last then (s.dropInb (inbKey x.flit)).answer x.flit 4 [b.getD (unitStatus 0 0 0)] else s.setInb (inbKey x.flit) { y with bad := b }

/-- Serve a request of another module (R271, R305, R307): done, or waiting for a host page (R272) or a channel (R221). A write whose
earlier unit failed writes no more. -/
def State.serveOne (s : State) (x : Served) : Bool × State :=
  let fn := flitFn x.flit
  if x.reply != 0 then
    match s.readVA fn x.va x.len with
    | (.ok bs, s1) =>
      (match (if x.store then s1.storeRefused 0 fn x.va else (none, s1)) with
      | (some f, s2) => (true, s2.answer x.flit x.reply [faultUnit f])
      | (none, s2) => (true, s2.answer x.flit x.reply (unitStatus 0 0 0 :: dataUnits bs)))
    | (.wait, s1) => (false, s1)
    | (.bad f, s1) => (true, s1.answer x.flit x.reply [faultUnit f])
  else if ((Table.get? s.fab.inb (inbKey x.flit)).bind Inbound.bad).isSome then (true, s.wrote x none)
  else match s.writeVA fn x.va x.bytes with
    | (.ok _, s1) => (true, s1.wrote x none)
    | (.wait, s1) => (false, s1)
    | (.bad f, s1) => (true, s1.wrote x (some (faultUnit f)))

/-- Serve the requests that wait, those of one transaction in their order: what still waits. -/
def State.serveAll (s : State) (held : List Nat) : List Served → List Served × State
  | [] => ([], s)
  | x :: xs =>
    match (if held.contains (inbKey x.flit) then (false, s) else s.serveOne x) with
    | (true, s1) => State.serveAll s1 held xs
    | (false, s1) =>
      let (ys, s2) := State.serveAll s1 (inbKey x.flit :: held) xs
      (x :: ys, s2)

/-- The requests of other modules go on as far as they can. -/
def State.serveInq (s : State) : State :=
  let (q, s1) := s.serveAll [] s.fab.inq
  s1.modFab (fun y => { y with inq := q })

/-- A request arrives, behind those that wait. -/
def State.enqueue (s : State) (x : Served) : State := (s.modFab (fun y => { y with inq := y.inq ++ [x] })).serveInq

/-- Serve a read of this module for another (R271, R305, R307). A request that fails its authentication gets no completion (R406). -/
def State.serveRead (s : State) (port : Nat) (f : Flit) (typ reply : Nat) : State :=
  match s.takeFlit port f typ with
  | (.none, s1) => s1
  | (.forged, s1) => s1
  | (.payload u, s1) =>
    s1.enqueue { flit := f, reply := reply, va := fld u.toNat 0 64, len := fld u.toNat 64 64, bytes := [], last := true,
                 store := bit u.toNat 128 }

/-- READ_REQUEST (R305). -/
def execReadRequest (port : Nat) (fl : Flit) (s : State) : Host.Outcome State Fault Refusal := .next (s.serveRead port fl 1 2)

/-- MLDR_REQUEST (R307). -/
def execMldrRequest (port : Nat) (fl : Flit) (s : State) : Host.Outcome State Fault Refusal := .next (s.serveRead port fl 6 7)

/-- WRITE_DATA (R305, R306): the head, then the data unit by unit; the last brings the acknowledgement. With a flit that fails its
authentication the rest of the transaction is discarded, and it gets no completion (R406). -/
def execWriteData (port : Nat) (fl : Flit) (s : State) : Host.Outcome State Fault Refusal :=
  match s.takeFlit port fl 3 with
  | (.none, s1) => .next s1
  | (.forged, s1) =>
    .next ((s1.dropInb (inbKey fl)).modFab (fun y => { y with inq := y.inq.filter (fun x => inbKey x.flit != inbKey fl) }))
  | (.payload u, s1) =>
    if flitOfs fl == 0 then .next (s1.setInb (inbKey fl) { va := fld u.toNat 0 64, len := fld u.toNat 64 64 })
    else match Table.get? s1.fab.inb (inbKey fl) with
      | none => .next s1
      | some x =>
        let at_ := (flitOfs fl - 1) * 96
        .next (s1.enqueue { flit := fl, reply := 0, va := x.va + at_, len := 0, bytes := unitBytes u at_ x.len, last := flitLast fl })

/-! ### Replies -/

/-- The transaction a reply belongs to. -/
def State.txnOf (s : State) (f : Flit) (kind : TxnKind) : Option Txn :=
  match Table.get? s.fab.txns (flitTid f) with
  | some t => if t.peer == flitSrc f && t.kind == kind && t.fn == flitFn f then some t else none
  | none => none

/-- The fault address of what a peer answers: the VA as it was issued, or a granule of the peer. -/
def Txn.vaOf (t : Txn) (cause va : Nat) : Nat :=
  if cause == 0x14 then t.addr else if cause == 0x16 then va else (t.addr + 2 ^ 64 - t.va + va) % 2 ^ 64

/-- What a status unit says of a transaction: nothing failed, or it fails as the peer answers (R271). -/
def State.heed (s : State) (f : Flit) (t : Txn) (u : BitVec 768) (ok : State → State) : State :=
  let c := fld u.toNat 0 8
  if c == 0 then ok s else s.failTxn (flitTid f) t c (t.vaOf c (fld u.toNat 64 64)) (fld u.toNat 8 32) (bit u.toNat 40)

/-- A flit of a reply: an authentication failure (R406), or a unit for the transaction. -/
def State.takeReply (s : State) (port : Nat) (f : Flit) (typ : Nat) (kind : TxnKind) (unit : State → Txn → BitVec 768 → State) : State :=
  match s.takeFlit port f typ with
  | (.none, s1) => s1
  | (.forged, s1) =>
    (match s1.txnOf f kind with
    | some t => s1.failTxn (flitTid f) t 0x14 t.addr (spaceBits 2 + authBit) false
    | none => s1)
  | (.payload u, s1) =>
    match s1.txnOf f kind with
    | none => s1
    | some t => unit s1 t u

/-- A unit of a reply that brings data: its status, then the data. -/
def State.takeData (s : State) (port : Nat) (f : Flit) (typ : Nat) (kind : TxnKind) (last : State → Nat → Txn → State) : State :=
  s.takeReply port f typ kind (fun s1 t u =>
    if flitOfs f == 0 then s1.heed f t u id
    else
      let t1 := { t with bytes := t.bytes ++ unitBytes u t.bytes.length t.len }
      if flitLast f then last s1 (flitTid f) t1 else s1.setTxn (flitTid f) t1)

/-- A transaction is done; one that nothing waits for any more is forgotten. -/
def State.doneTxn (s : State) (tid : Nat) (t : Txn) : State :=
  if (s.op? t.op).isSome || s.xferOf t.op then s.setTxn tid { t with done := true } else s.eraseTxn tid

/-- READ_DATA (R305). -/
def execReadData (port : Nat) (fl : Flit) (s : State) : Host.Outcome State Fault Refusal :=
  .next (s.takeData port fl 2 .read State.doneTxn)

/-- A member's elements have arrived (R307). -/
def State.memberReply (s : State) (n : Nat) (t : Txn) : State :=
  (s.modFab (fun y =>
    { y with
      txns := Table.erase y.txns n
      mldrs := match Table.get? y.mldrs t.op with
        | some x => Table.set y.mldrs t.op { x with replies := Table.set x.replies t.index t.bytes }
        | none => y.mldrs })).mldrReady t.op

/-- MLDR_DATA (R307). -/
def execMldrData (port : Nat) (fl : Flit) (s : State) : Host.Outcome State Fault Refusal :=
  .next (s.takeData port fl 7 .member State.memberReply)

/-- WRITE_ACKNOWLEDGEMENT (R306). -/
def execWriteAcknowledgement (port : Nat) (fl : Flit) (s : State) : Host.Outcome State Fault Refusal :=
  .next (s.takeReply port fl 4 .write (fun s1 t u => s1.heed fl t u (fun s2 => s2.doneTxn (flitTid fl) t)))

/-! ### Collectives -/

/-- The COLL of a function and sequence number. -/
def State.collOf (s : State) (fn seq : Nat) : Option (Nat × Coll) := s.fab.colls.find? (fun x => x.2.fn == fn && x.2.seq == seq)

/-- A chunk has come whole (R312): it is passed on, and kept for this rank's part in its step. -/
def State.collChunkIn (s : State) (o : Nat) (x : Coll) (name : Nat) (bs : List Byte) : State :=
  let w := ((cStep x.desc (fld name 16 8)).map (CStep.width x.desc)).getD 1
  let q := chunkOf name (elemsOf w (bs.length / w) bs)
  let (keep, on) := x.passOn q
  let s1 := match on with | some dest => s.sendChunk x dest q | none => s
  (s1.modColl o (fun y =>
    { y with mail := if keep then y.mail ++ [q] else y.mail, parts := Table.erase y.parts name, since := s.env.ns })).collGo o

/-- RING_CHUNK (R312): a chunk of a step, unit by unit and letter by letter; a flit that fails its authentication takes the rest of its letter
with it (R406). -/
def execRingChunk (port : Nat) (fl : Flit) (s : State) : Host.Outcome State Fault Refusal :=
  match s.takeFlit port fl 5 with
  | (.none, s1) => .next s1
  | (.forged, s1) => .next (s1.dropInb (2 ^ 23 + inbKey fl))
  | (.payload u, s1) =>
    let key := 2 ^ 23 + inbKey fl
    let h := if flitOfs fl == 0 then some { va := fld u.toNat 0 128, len := fld u.toNat 128 64 } else Table.get? s1.fab.inb key
    match h with
    | none => .next s1
    | some h =>
      let s2 := if flitLast fl then s1.dropInb key else if flitOfs fl == 0 then s1.setInb key h else s1
      match s2.collOf (flitFn fl) (h.va % 2 ^ 32) with
      | none => .next s2
      | some (o, x) =>
        let name := h.va / 2 ^ 32
        let old := Table.getD x.parts name []
        let bs := if flitOfs fl == 0 then old else old ++ unitBytes u old.length h.len
        if flitLast fl && bs.length == h.len then .next (s2.collChunkIn o x name bs)
        else .next (s2.modColl o (fun y => { y with parts := Table.set y.parts name bs, since := s1.env.ns }))

/-- COLLECTIVE_CONTROL (R313, R314, R408): a rank has started, has written its destination, or has failed. -/
def execCollectiveControl (port : Nat) (fl : Flit) (s : State) : Host.Outcome State Fault Refusal :=
  match s.takeFlit port fl 8 with
  | (.none, s1) => .next s1
  | (.forged, s1) => .next s1
  | (.payload u, s1) =>
    let kind := fld u.toNat 0 8
    let r := fld u.toNat 40 12
    let q : Heard :=
      { fn := flitFn fl, seq := fld u.toNat 8 32, pod := flitSrc fl, rank := r, ends := fld u.toNat 52 3, at_ := s1.env.ns
        words := (upto (if kind == 1 then 5 else 1)).map (fun i => dw (fld u.toNat (64 * (i + 1)) 64)) }
    match s1.collOf q.fn q.seq with
    | some (o, x) =>
      if kind == 2 then
        .next ((s1.modColl o (fun y =>
          { y with dones := if y.dones.contains r then y.dones else r :: y.dones, since := s1.env.ns })).collGo o)
      else .next (((s1.tellStrangers x [q]).modColl o (fun y => { y.hear q with since := s1.env.ns })).collGo o)
    | none => .next (if kind == 2 then s1 else s1.modFab (fun y => { y with early := y.early ++ [q] }))

/-! ### Idle flits and keys -/

/-- IDLE (R296): received and checked. -/
def execIdle (port : Nat) (fl : Flit) (s : State) : Host.Outcome State Fault Refusal := .next (s.takeFlit port fl 0).2

/-- A key-control flit: its kind (0 asks for an epoch, 1 agrees, 2 completes) and the epoch (log entry 13). -/
def State.tellKey (s : State) (p kind epoch : Nat) : State :=
  s.emitHop p (flitHeader s.fab.modid { typ := 9, dst := 0, fn := 0, tid := 0, units := [] } false true 0)
    (BitVec.ofNat 768 (epoch + kind * 2 ^ 8))

/-- A port seals under another epoch from now on; its counters start at zero (R301). -/
def Port.turn (x : Port) (e : Nat) (prev : Option Nat) : Port :=
  { x with
    epoch := e, prev := prev, newEp := none, asked := none
    keys := match Table.get? x.keys e with
      | some k => Table.set x.keys e { k with tx := 0, rx := 0 }
      | none => x.keys }

/-- This end agrees to an epoch it holds the key of. -/
def State.agree (s : State) (p e : Nat) : State := (s.tellKey p 1 e).modPort p (fun x => x.turn e (some x.epoch))

/-- KEY_CONTROL (R300, R301): the far end asks for an epoch, agrees to one, or completes the handshake. Where both ends have asked, each
agrees, and the far end's agreement completes the handshake. -/
def execKeyControl (port : Nat) (fl : Flit) (s : State) : Host.Outcome State Fault Refusal :=
  match s.takeFlit port fl 9 with
  | (.payload u, s1) =>
    let e := fld u.toNat 0 8
    (match fld u.toNat 8 8 with
    | 0 => .next (if (Table.get? (s1.port port).keys e).isSome then s1.agree port e else s1.modPort port (fun x => { x with asked := some e }))
    | 1 => .next (
      let x := s1.port port
      if x.newEp == some e && (Table.get? x.keys e).isSome then (s1.modPort port (fun x => x.turn e none)).tellKey port 2 e
      else if x.epoch == e && x.prev.isSome then (s1.modPort port (fun x => { x with prev := none })).tellKey port 2 e
      else s1)
    | _ => .next (s1.modPort port (fun x => { x with prev := none })))
  | (_, s1) => .next s1

/-! ### NAKs and the life of a port -/

/-- FLIT_DISCARDED (R297). -/
def execFlitDiscarded (port : Nat) (fl : Flit) (s : State) : Host.Outcome State Fault Refusal :=
  .next (if (s.port port).up && !(s.port port).accepts fl then s.discard port else s)

/-- The flits of the retry buffer from a SEQ on. -/
def resendFrom (q : BitVec 12) (fs : List Flit) : List Flit := fs.dropWhile (fun f => f.seq != q)

/-- A flit sent again: it no longer returns a NAK. -/
def resent (f : Flit) : Flit := withCrc { f with nak := false }

/-- The replay counter after n more flits. -/
def addReplay (r n : Nat) : Nat := Nat.min 65535 (r + n)

/-- NAK (R297): the sender resends from the expected SEQ; after 16 of one SEQ the port goes down. -/
def execNak (port : Nat) (seq : BitVec 12) (s : State) : Host.Outcome State Fault Refusal :=
  let x := s.port port
  if !x.up then .next s
  else
    let n := match x.naks with | some (q, k) => if q == seq.toNat then k + 1 else 1 | none => 1
    if Nat.ble 16 n then .next (s.portDown port)
    else
      let again := resendFrom seq (x.retry.take 512)
      .next (s.modPort port (fun y =>
        { y with naks := some (seq.toNat, n), sent := (again.map resent).reverse ++ y.sent, replay := addReplay y.replay again.length }))

/-- PORT_RETRAIN (R405): 1 ms after going down a port whose EN is 1 starts training. -/
def execPortRetrain (port : Nat) (s : State) : Host.Outcome State Fault Refusal :=
  let x := s.port port
  .next (if x.en && !x.up && Nat.ble (x.downAt + 1000000) s.env.ns then s.modPort port (fun y => { y with train := true }) else s)

/-- PORT_TRAINED (R405): UP sets, the counters of the port clear, SEQ restarts at zero; a handshake under way is asked for again. -/
def execPortTrained (port : Nat) (s : State) : Host.Outcome State Fault Refusal :=
  let x := s.port port
  if x.en && x.train && !x.up then
    let s1 := s.modPort port (fun y =>
      { y with up := true, train := false, replay := 0, crcerr := 0, autherr := 0, txSeq := 0, rxSeq := 0, retry := [], naks := none })
    .next (match x.newEp with
      | some e => s1.tellKey port 0 e
      | none => s1)
  else .next s

/-- SEAL_COUNT_EXHAUSTED (R299): a key the port seals under has sealed 2^48 flits; the port goes down. -/
def execSealCountExhausted (port : Nat) (s : State) : Host.Outcome State Fault Refusal :=
  let x := s.port port
  let hop := x.hbh && (match Table.get? x.keys x.epoch with | some k => Nat.ble keyLimit k.tx | none => false)
  let ends := s.fab.fns.any (fun (f : Nat × FnFab) => f.2.keys.any (fun k =>
    Nat.ble keyLimit k.2.tx && bit (fld (Table.getD s.fab.routes k.1 0).toNat 0 24) port))
  .next (if x.up && (hop || ends) then s.portDown port else s)

/-! ### What another module discards (R406) -/

/-- A transaction sealed end to end failed its authentication at its destination: the operation it serves fails (R406). -/
def State.forgedTxn (s : State) (tid : Nat) : State :=
  match Table.get? s.fab.txns tid with
  | some t =>
    if t.done || ((s.fnFab t.fn).keyOf t.peer t.era).isNone then s else s.failTxn tid t 0x14 t.addr (spaceBits 2 + authBit) false
  | none => s

/-- A flit of a COLL sealed end to end failed its authentication at another rank: the COLL fails (R406). -/
def State.forgedColl (s : State) (o : Nat) : State :=
  match s.coll? o, s.op? o with
  | some x, some e =>
    if x.ranks.any (fun r => ((s.fnFab x.fn).keyOf r (some x.era)).isSome) && !x.writing then
      s.collOwn o x (e.fault 0x14 x.addr x.my (spaceBits 2 + authBit))
    else s
  | _, _ => s

end Sys2Proof.Machine
end

