-- ==== Sys2Proof/Machine/Cycle.lean ====
section
/-! DEFINITION. What a core cycle decides between the rows it runs: what is due, the counts of R32, R107 and R261, the cases of R21, the
order of R365. -/

namespace Sys2Proof.Machine

/-- The most items that one cycle's start or end can hold. -/
def dueFuel : Nat := 1048576

/-- The first item due on a core at this cycle's start or end, taken off the list. -/
def State.takeDueItem (s : State) (c : Nat) (late : Bool) : Option (Instr × State) :=
  let x := s.core c
  match x.todo.find? (fun t => t.late == late && Nat.ble t.due x.cyc) with
  | some t => some (t.act, s.setCore c { x with todo := x.todo.erase t })
  | none => none

/-- A strand's next bundle is held in this cycle: steps 1 and 2 of R67 are behind it if the strand is the current one, and the shape
record it waits for is fetched (R100). -/
def State.heldCycle (s : State) (c k : Nat) : State :=
  (s.modFlow c k (fun f => { f with checked := f.checked || (s.core c).issue.cur == k })).startShape c k

/-- The strand's next bundle stands in the line of the region whose fill it waits for, and of no other (R273). -/
def State.lineUp (s : State) (c k : Nat) (want : Option Nat) : State :=
  let e := s.strandAccess c k
  let s1 := (s.strand c k).regions.foldl (fun (x : State) r => if want != some r.1 && r.2.line.contains e.lineNo then x.leaveLine e r.1 else x) s
  match want with
  | some r => s1.joinLine e r
  | none => s1

/-- The region whose fill an AUX of R32 names. -/
def fillAux (a : Nat) : Option Nat := if bit a 36 && fld a 37 3 == 2 then some (fld a 40 4) else none

/-- Count an issue cycle in which a strand's next bundle is held for a counting reason (R32): whether WLIMIT is reached. -/
def State.countBlock (s : State) (c k : Nat) : State × Bool :=
  let t := s.strand c k
  if t.atBundle then
    match s.verdict c k with
    | .held (some a) =>
      (((s.heldCycle c k).lineUp c k (fillAux a)).modFlow c k (fun f => { f with blocked := f.blocked + 1 }),
        t.ctx.wlimit != 0 && Nat.ble t.ctx.wlimit (t.flow.blocked + 1))
    | .held none => ((s.heldCycle c k).lineUp c k none, false)
    | _ => (s.lineUp c k none, false)
  else (s, false)

/-- The cases of R21. -/
inductive IssueCase
  | issue (k : Nat) (s : State)
  | switch (s : State)
  | idle (s : State)

/-- Whether a switch away from a strand costs no cycle (R21): it can issue no more. -/
def Strand.gone (t : Strand) : Bool := !(match t.flow.life with | .running => true | _ => false)

/-- The case of R21 that applies in this cycle. -/
def State.issueCase (s : State) (c : Nat) : IssueCase :=
  let x := (s.core c).issue
  let others := s.readyAfter c
  let take := fun (k : Nat) => IssueCase.issue k (s.modIssue c (fun y => y.switch k))
  let s1 := if x.handOver then s.modIssue c (fun y => { y with handOver := false, runs := 0 }) else s
  match others with
  | [] => if s.readyNow c x.cur then .issue x.cur s1 else .idle s1
  | k :: _ =>
    if x.handOver then take k
    else if s.readyNow c x.cur then .issue x.cur s
    else if (s.strand c x.cur).gone then take k else .switch s

/-- The end of an issue cycle of a waiting strand (R105-R107): the wait ends, or its limit is reached, or it counts. DESIGN CHOICE (log entry
19): R107 does not say whether the issue cycle of the KWAIT, QWAIT or PHASE counts towards the limit; the model counts from the next. -/
def State.waitCase (s : State) (c k : Nat) : State × Bool :=
  let t := s.strand c k
  if t.flow.wait == .none then (s, false)
  else if s.waitOver c k then (s.modFlow c k (fun f => { f with wait := .none, waited := 0 }), false)
  else if t.waitLimit != 0 && Nat.ble t.waitLimit t.flow.waited then (s, true)
  else (s.modFlow c k (fun f => { f with waited := f.waited + 1 }), false)

/-- BUDGET at the end of an issue cycle (R261): it falls by one while a kernel loop exists, but for the cycle of a load. -/
def State.budgetCase (s : State) (c k : Nat) (kern : Bool) : State × Bool :=
  let t := s.strand c k
  let loaded := s.bundle.loaded && s.bundle.core == c && s.bundle.strand == k
  if !kern || loaded || t.ctx.budget == 0 then (s, false)
  else if t.ctx.budget == 1 then (s, true)
  else (s.modCtx c k (fun x => { x with budget := x.budget - 1 }), false)

/-- The first post-issue trap of a strand at its boundary; the rest become due at its level with the same return word (R365). -/
def State.takePost (s : State) (c k : Nat) : Option (Trap × State) :=
  let t := s.strand c k
  if !t.atBoundary then none
  else match t.flow.post with
    | [] => none
    | p :: ps => some (p, s.modFlow c k (fun f =>
        { f with post := [], due := f.due ++ ps.map (fun q =>
            ((s.core c).cyc, { q with ret := some (returnWord t.ctx.pc t.ctx.seq), hent := t.flow.hent })) }))

/-- The end of a core cycle: live strands have one more issue cycle (R22), the core one more cycle; the trace records the cycle's
entries (R326). -/
def State.endCycle (s : State) (c : Nat) : State :=
  s.modCore c (fun x =>
    { x with cyc := x.cyc + 1,
             trace := x.trace.flush,
             strands := x.strands.map (fun (t : Nat × Strand) =>
               (t.1, if t.2.live then { t.2 with icyc := t.2.icyc + 1 } else t.2)) })

/-- An uncorrectable error in a task's entry kills it (R416). -/
def State.taskError (s : State) (fn task : Nat) : State :=
  match s.task? (taskKey fn task) with
  | none => s
  | some t => s.kill fn task
      { reason := if t.first then 6 else 5, cause := 0x16, pos := 0,
        words := if t.first then none else some (0x16, 0, 0, 7) }

/-- A strand that was cast on and has not issued a bundle waits some cycles more for its first (R260, R422). -/
def State.startDelay (s : State) (c k n : Nat) : State :=
  s.modFlow c k (fun f =>
    if f.life == .running && f.bno == 0 && f.wait == .none then { f with wait := .start ((s.core c).cyc + n) } else f)

/-- What sensors, soft errors and other agents do between steps (R324, R391, R394, R395, R416, R422). -/
def State.upset (s : State) (u : Upset) : State :=
  match u with
  | .poison key => if s.poisoned key then s else { s.rasFound key .uncorrectable with poison := s.poison ++ [unitOf key] }
  | .corrected key => s.rasFound key .corrected
  | .tagError d g => if (s.die d).bad.contains g then s else (s.rasInc d 48).modDie d (fun x => { x with bad := x.bad ++ [g] })
  | .queueParity c k q slot => s.modQueue c k q (fun x => { x with parity := some slot })
  | .residue c op => { s with cores := Table.set s.cores c { s.core c with
      todo := (s.core c).todo.map (fun t => match t.act with
        | .tileWrite c' o _ => if c' == c && o == op then { t with act := .tileWrite c o true } else t
        | _ => t) } }
  | .refcountError p => ((s.setRefs p 65535).modDisp (fun x => { x with stuck := if x.stuck.contains p then x.stuck else p :: x.stuck })).rasInc
      (p / 2 ^ 21 % 4) 40
  | .cistern o place => s.modFab (fun x =>
      { x with mldrs := x.mldrs.map (fun m => if m.1 == o then (m.1, { m.2 with bad := m.2.bad.or (some place) }) else m),
               colls := x.colls.map (fun m => if m.2.op == o then (m.1, { m.2 with bad := m.2.bad.or (some place) }) else m) })
  | .taskError fn task => s.taskError fn task
  | .codeError i => { s with codes := match Table.get? s.codes i with
      | some x => Table.set s.codes i { x with st := .closing }
      | none => s.codes }
  | .keyError fn peer => s.modFnFab fn (fun x => { x with keys := Table.erase x.keys peer })
  | .startDelay c k n => s.startDelay c k n
  | .delay c i n => s.modCore c (fun x =>
      match x.todo[i]? with
      | some t => { x with todo := insertTodo { t with due := t.due + n } (x.todo.eraseIdx i) }
      | none => x)
  | .dieState d st => s.turnDie d st
  | .evict d fn => s.modDie d (fun x => { x with tlb := Table.erase x.tlb fn })
  | .prAllocation fn n => s.modFnHost fn (fun h => { h with prAlloc := n })
  | .forged tid => s.forgedTxn tid
  | .forgedChunk o => s.forgedColl o
  | .hostMemory a b => { s with mem := Memory.write s.mem (keyH a) b }

/-- One CK cycle more. -/
def State.nextCk (s : State) : State := s.modEnv (fun e => { e with ck := e.ck + 1 })

end Sys2Proof.Machine
end

