-- ==== Sys2Proof/Machine/Scalar.lean ====
section
/-! DEFINITION. The S-slot arithmetic, queue moves, compare and select (R87-R94). -/

namespace Sys2Proof.Machine

/-- A scalar result: its tag and its 64 bits. -/
abbrev SRes := Nat × Nat

/-- Append a scalar result with a latency (R28, R87). -/
def State.appendScalar (s : State) (f : Fields) (r : SRes) (lat : Nat) : State :=
  s.appendTo f.dst.toNat r.1 (BitVec.ofNat 2048 (r.2 % 2 ^ 64)) lat

/-- The effect of a syllable that computes one result from A and B. -/
def scalarEff (f : Fields) (lat : Nat) (g : Opd → Opd → SRes) (s : State) : State :=
  s.appendScalar f (g (s.opd f.a) (s.opd f.b)) lat

/-- n of R90. -/
def opBits (w64 : Bool) : Nat := if w64 then 64 else 32

/-- The tags INT32 and INT64, UINT32 and UINT64 (R89). -/
def intTag (w64 : Bool) : Nat := if w64 then 4 else 3
def uintTag (w64 : Bool) : Nat := if w64 then 8 else 7

/-- Wrap, or with SAT saturate, an exact n-bit result (R90, R42). -/
def narrowTo (n : Nat) (sat : Bool) (x : Int) : Nat :=
  if sat then wrap 64 (satInt x (-((2 ^ (n - 1) : Nat) : Int)) ((2 ^ (n - 1) - 1 : Nat) : Int)) else sx n (wrap 64 x)

/-- An operation on the two operands read as signed n-bit numbers (R90). -/
def signedOp (w64 sat : Bool) (g : Int → Int → Int) (a b : Opd) : SRes :=
  let n := opBits w64
  (intTag w64, narrowTo n sat (g (sval n a.val) (sval n b.val)))

def addRes (w64 : Bool) (f : Fields) : Opd → Opd → SRes := signedOp w64 (f.m 2 1 == 1) (· + ·)
def subRes (w64 : Bool) (f : Fields) : Opd → Opd → SRes := signedOp w64 (f.m 2 1 == 1) (· - ·)
def mulRes (w64 : Bool) (f : Fields) : Opd → Opd → SRes := signedOp w64 (f.m 2 1 == 1) (· * ·)

/-- The high half of the signed product (R90). -/
def mulhsRes (w64 : Bool) : Opd → Opd → SRes :=
  signedOp w64 false (fun x y => x * y / ((2 ^ opBits w64 : Nat) : Int))

/-- The high half of the unsigned product (R90). -/
def mulhuRes (w64 : Bool) (a b : Opd) : SRes :=
  let n := opBits w64
  (uintTag w64, zx n (zx n a.val * zx n b.val / 2 ^ n))

/-- The tag of a shift: RAW when A is RAW (R89). -/
def shiftTag (a : Opd) (t : Nat) : Nat := if !a.lit && a.tag == 0 then 0 else t

def shlRes (w64 : Bool) (a b : Opd) : SRes :=
  let n := opBits w64
  (shiftTag a (intTag w64), sx n (zx n a.val * 2 ^ (zx n b.val % n)))

def shrRes (w64 : Bool) (a b : Opd) : SRes :=
  let n := opBits w64
  (shiftTag a (uintTag w64), zx n (zx n a.val / 2 ^ (zx n b.val % n)))

def sarRes (w64 : Bool) (a b : Opd) : SRes :=
  let n := opBits w64
  (shiftTag a (intTag w64), wrap 64 (sval n a.val / ((2 ^ (zx n b.val % n) : Nat) : Int)))

/-- Quotient and remainder of R91; by zero all ones, and the dividend. -/
def divRes (w64 : Bool) (a b : Opd) : SRes :=
  let n := opBits w64
  let x := sval n a.val
  let y := sval n b.val
  (intTag w64, if y == 0 then sx n (2 ^ n - 1) else sx n (wrap 64 (x.tdiv y)))

def remRes (w64 : Bool) (a b : Opd) : SRes :=
  let n := opBits w64
  let x := sval n a.val
  let y := sval n b.val
  (intTag w64, if y == 0 then sx n a.val else sx n (wrap 64 (x - y * x.tdiv y)))

def divuRes (w64 : Bool) (a b : Opd) : SRes :=
  let n := opBits w64
  let y := zx n b.val
  (uintTag w64, if y == 0 then 2 ^ n - 1 else zx n (zx n a.val / y))

def remuRes (w64 : Bool) (a b : Opd) : SRes :=
  let n := opBits w64
  let y := zx n b.val
  (uintTag w64, if y == 0 then zx n a.val else zx n (zx n a.val % y))

/-- Add a post-issue trap of the bundle in progress (R339, R365). -/
def State.postIssue (s : State) (cause addr aux : Nat) : State :=
  let c := s.bundle.core
  let k := s.bundle.strand
  s.modFlow c k (fun f => { f with post := f.post ++ [s.postTrap c k cause addr aux] })

/-- The effect of a divide: the divider is taken until the result is written (R87); by zero a post-issue trap (R91). -/
def divideEff (w64 : Bool) (op : Nat) (f : Fields) (g : Opd → Opd → SRes) (s : State) : State :=
  let lat := if w64 then 34 else 18
  let c := s.bundle.core
  let z := zx (opBits w64) (s.opd f.b).val == 0
  let s1 := (scalarEff f lat g s).modCore c (fun x => { x with divFree := (s.core c).cyc + lat })
  if z then s1.postIssue 0x09 (s.me.ctx.pc) (op + f.dst.toNat * 2 ^ 10) else s1

/-- The tag of AND, OR, XOR, ANDN (R89). -/
def logicTag (a b : Opd) : Nat :=
  if a.lit then (if b.lit then 4 else b.tag) else if b.lit then a.tag else if a.tag == b.tag then a.tag else 0

/-- A bitwise operation on the two 64-bit slots (R92). -/
def logicRes (g : Dword → Dword → Dword) (a b : Opd) : SRes := (logicTag a b, (g (dw a.val) (dw b.val)).toNat)

/-- MIN, MAX, MINU, MAXU (R92). -/
def pickRes (t : Nat) (g : Opd → Opd → Bool) (a b : Opd) : SRes := (t, if g a b then a.u else b.u)

/-- CLZ of R92. -/
def clzRes (a _ : Opd) : SRes := (4, 64 - bitLen a.u)

def popcRes (a _ : Opd) : SRes := (4, popcount 64 a.u)

/-- The width in bits of WID (R88). -/
def widBits (f : Fields) : Nat := 8 * 2 ^ f.m 3 2

def sextRes (f : Fields) (a _ : Opd) : SRes := (1 + f.m 3 2, sx (widBits f) a.val)
def zextRes (f : Fields) (a _ : Opd) : SRes := (5 + f.m 3 2, zx (widBits f) a.val)

/-- The tag of a slot moved; INT64 for a literal (R63, R89). -/
def movedTag (a : Opd) : Nat := if a.lit then 4 else a.tag

def moveRes (a _ : Opd) : SRes := (movedTag a, a.u)

/-- DUP (R93): copies in consecutive tail slots. -/
def State.appendCopies (s : State) (f : Fields) (r : SRes) : Nat → State
  | 0 => s
  | n + 1 => State.appendCopies (s.appendScalar f r 1) f r n

def dupEff (f : Fields) (s : State) : State := s.appendCopies f (moveRes (s.opd f.a) Opd.none) (f.m 3 5 + 1)

/-- QLEN (R93): occ, or for a grafted source the target's capacity less the credits. -/
def qlenEff (f : Fields) (s : State) : State :=
  let c := s.bundle.core
  let k := s.bundle.strand
  let n := f.m 3 5
  let q := s.queue c k n
  let v := if n < 16 && q.gsrc then 2 ^ q.gtlog - q.gcred else ((s.core c).win k n).occ
  s.appendScalar f (8, v) 1

/-- Write a condition bit of the strand whose bundle is in progress (R94). -/
def State.setCond (s : State) (n : Nat) (v : Bool) : State :=
  s.modCtx s.bundle.core s.bundle.strand (fun x => x.setCond n v)

def cmpEff (cc : Cc) (f : Fields) (s : State) : State := s.setCond (f.m 5 3) (Cc.holds cc (s.opd f.a).u (s.opd f.b).u)

def selEff (f : Fields) (s : State) : State :=
  let x := if s.me.ctx.cond (f.m 5 3) then s.opd f.a else s.opd f.b
  s.appendScalar f (movedTag x, x.u) 1

/-! ### Meanings -/

/-- R115. -/
def execNop (f : Fields) (s : State) : Host.Outcome State Fault Refusal := issueOne (.nop f) id s

/-- R90. -/
def execAdd (w64 : Bool) (f : Fields) (s : State) : Host.Outcome State Fault Refusal :=
  issueOne (.add w64 f) (scalarEff f 1 (addRes w64 f)) s
/-- R90. -/
def execSub (w64 : Bool) (f : Fields) (s : State) : Host.Outcome State Fault Refusal :=
  issueOne (.sub w64 f) (scalarEff f 1 (subRes w64 f)) s
/-- R90. -/
def execMul (w64 : Bool) (f : Fields) (s : State) : Host.Outcome State Fault Refusal :=
  issueOne (.mul w64 f) (scalarEff f 3 (mulRes w64 f)) s
/-- R90. -/
def execMulhs (w64 : Bool) (f : Fields) (s : State) : Host.Outcome State Fault Refusal :=
  issueOne (.mulhs w64 f) (scalarEff f 3 (mulhsRes w64)) s
/-- R90. -/
def execMulhu (w64 : Bool) (f : Fields) (s : State) : Host.Outcome State Fault Refusal :=
  issueOne (.mulhu w64 f) (scalarEff f 3 (mulhuRes w64)) s
/-- R91. -/
def execDiv (w64 : Bool) (f : Fields) (s : State) : Host.Outcome State Fault Refusal :=
  issueOne (.div w64 f) (divideEff w64 (0x1A + bnat w64) f (divRes w64)) s
/-- R91. -/
def execDivu (w64 : Bool) (f : Fields) (s : State) : Host.Outcome State Fault Refusal :=
  issueOne (.divu w64 f) (divideEff w64 (0x1C + bnat w64) f (divuRes w64)) s
/-- R91. -/
def execRem (w64 : Bool) (f : Fields) (s : State) : Host.Outcome State Fault Refusal :=
  issueOne (.rem w64 f) (divideEff w64 (0x1E + bnat w64) f (remRes w64)) s
/-- R91. -/
def execRemu (w64 : Bool) (f : Fields) (s : State) : Host.Outcome State Fault Refusal :=
  issueOne (.remu w64 f) (divideEff w64 (0x20 + bnat w64) f (remuRes w64)) s
/-- R90. -/
def execShl (w64 : Bool) (f : Fields) (s : State) : Host.Outcome State Fault Refusal :=
  issueOne (.shl w64 f) (scalarEff f 1 (shlRes w64)) s
/-- R90. -/
def execShr (w64 : Bool) (f : Fields) (s : State) : Host.Outcome State Fault Refusal :=
  issueOne (.shr w64 f) (scalarEff f 1 (shrRes w64)) s
/-- R90. -/
def execSar (w64 : Bool) (f : Fields) (s : State) : Host.Outcome State Fault Refusal :=
  issueOne (.sar w64 f) (scalarEff f 1 (sarRes w64)) s
/-- R92. -/
def execAnd (f : Fields) (s : State) : Host.Outcome State Fault Refusal :=
  issueOne (.and f) (scalarEff f 1 (logicRes (· &&& ·))) s
/-- R92. -/
def execOr (f : Fields) (s : State) : Host.Outcome State Fault Refusal :=
  issueOne (.or f) (scalarEff f 1 (logicRes (· ||| ·))) s
/-- R92. -/
def execXor (f : Fields) (s : State) : Host.Outcome State Fault Refusal :=
  issueOne (.xor f) (scalarEff f 1 (logicRes (· ^^^ ·))) s
/-- R92. -/
def execAndn (f : Fields) (s : State) : Host.Outcome State Fault Refusal :=
  issueOne (.andn f) (scalarEff f 1 (logicRes (fun x y => x &&& ~~~y))) s
/-- R92. -/
def execMin (f : Fields) (s : State) : Host.Outcome State Fault Refusal :=
  issueOne (.min f) (scalarEff f 1 (pickRes 4 (fun a b => decide (a.s ≤ b.s)))) s
/-- R92. -/
def execMax (f : Fields) (s : State) : Host.Outcome State Fault Refusal :=
  issueOne (.max f) (scalarEff f 1 (pickRes 4 (fun a b => decide (b.s ≤ a.s)))) s
/-- R92. -/
def execMinu (f : Fields) (s : State) : Host.Outcome State Fault Refusal :=
  issueOne (.minu f) (scalarEff f 1 (pickRes 8 (fun a b => Nat.ble a.u b.u))) s
/-- R92. -/
def execMaxu (f : Fields) (s : State) : Host.Outcome State Fault Refusal :=
  issueOne (.maxu f) (scalarEff f 1 (pickRes 8 (fun a b => Nat.ble b.u a.u))) s
/-- R92. -/
def execClz (f : Fields) (s : State) : Host.Outcome State Fault Refusal := issueOne (.clz f) (scalarEff f 1 clzRes) s
/-- R92. -/
def execPopc (f : Fields) (s : State) : Host.Outcome State Fault Refusal := issueOne (.popc f) (scalarEff f 1 popcRes) s
/-- R92. -/
def execSext (f : Fields) (s : State) : Host.Outcome State Fault Refusal := issueOne (.sext f) (scalarEff f 1 (sextRes f)) s
/-- R92. -/
def execZext (f : Fields) (s : State) : Host.Outcome State Fault Refusal := issueOne (.zext f) (scalarEff f 1 (zextRes f)) s
/-- R93. -/
def execLi (f : Fields) (s : State) : Host.Outcome State Fault Refusal := issueOne (.li f) (scalarEff f 1 moveRes) s
/-- R93. -/
def execMovq (f : Fields) (s : State) : Host.Outcome State Fault Refusal := issueOne (.movq f) (scalarEff f 1 moveRes) s
/-- R93. -/
def execDup (f : Fields) (s : State) : Host.Outcome State Fault Refusal := issueOne (.dup f) (dupEff f) s
/-- R93: its pops are made with the bundle's. -/
def execDrop (f : Fields) (s : State) : Host.Outcome State Fault Refusal := issueOne (.drop f) id s
/-- R93. -/
def execQlen (f : Fields) (s : State) : Host.Outcome State Fault Refusal := issueOne (.qlen f) (qlenEff f) s
/-- R94. -/
def execCmp (cc : Cc) (f : Fields) (s : State) : Host.Outcome State Fault Refusal := issueOne (.cmp cc f) (cmpEff cc f) s
/-- R94. -/
def execSel (f : Fields) (s : State) : Host.Outcome State Fault Refusal := issueOne (.sel f) (selEff f) s

end Sys2Proof.Machine
end

