-- ==== Sys2Proof/Machine/Control.lean ====
section
/-! DEFINITION. The S-slot transfers, loops, votes, waits, traps, system registers, phases and ends (R95-R114). -/

namespace Sys2Proof.Machine

/-- Change the strand whose bundle is in progress. -/
def State.modMe (s : State) (g : Strand → Strand) : State := s.modStrand s.bundle.core s.bundle.strand g
def State.modMyCtx (s : State) (g : Ctx → Ctx) : State := s.modCtx s.bundle.core s.bundle.strand g
def State.modMyFlow (s : State) (g : Flow → Flow) : State := s.modFlow s.bundle.core s.bundle.strand g

/-! ### Transfers (R95-R97) -/

/-- A transfer-class syllable issues: its continuation is `cont`, whether taken or not (R95). A load or an edge that a cut sequence of
the same level left behind is gone. -/
def State.continueAt (s : State) (cont : Nat) : State :=
  let l := s.me.ctx.tl
  (s.modMyFlow (fun f => { f with edge := f.edge.filter (fun n => n != l), load := f.load.filter (fun n => n != l) })).modBundle
    (fun b => { b with target := some cont })

/-- A taken transfer to g, traced (R326 class 0). -/
def State.transfer (s : State) (g : Nat) : State :=
  (s.continueAt g).trace s.bundle.core s.bundle.strand 0 (s.me.ctx.pc + g * 2 ^ 30)

/-- A transfer that is not taken: the continuation is t + 3. -/
def State.fallThrough (s : State) : State := s.continueAt ((s.me.ctx.pc + 3) % 2 ^ 30)

/-- A bundle index kept in 30 bits (R96). -/
def keepIndex (x : Int) : Nat := if decide (x < 0) || decide ((2 ^ 30 : Int) ≤ x) then 2 ^ 30 - 1 else x.toNat

def ptgEff (f : Fields) (s : State) : State :=
  let a := s.opd f.a
  let v := if f.m 3 1 == 1 then keepIndex ((s.me.ctx.pc : Int) + a.s) else keepIndex (a.u : Int)
  s.modMyCtx (fun x => { x with bt := Table.set x.bt (f.m 8 2) v })

def brEff (f : Fields) (s : State) : State := s.transfer (s.me.bt (f.m 8 2))

def brcEff (f : Fields) (s : State) : State :=
  if s.me.ctx.cond (f.m 5 3) == (f.m 4 1 == 1) then s.transfer (s.me.bt (f.m 8 2)) else s.fallThrough

def callEff (f : Fields) (s : State) : State :=
  (s.appendScalar f (8, s.me.ctx.pc + 3) 1).transfer (s.me.bt (f.m 8 2))

def retEff (f : Fields) (s : State) : State := s.transfer (keepIndex ((s.opd f.a).u : Int))

/-! ### Loops (R98-R101) -/

/-- The task key of the strand whose bundle is in progress. -/
def State.myTask (s : State) : Nat := taskKey s.me.place.fn s.me.place.task

/-- Write a loop-stack entry; a strand that leaves its kernel loop withdraws a pre-emption request (R262). -/
def State.putLse (s : State) (n : Nat) (w : Dword) : State :=
  let s1 := s.modMyCtx (fun x => x.setLse n w)
  if s.me.kernel && !s1.me.kernel then s1.withdraw s.myTask else s1

/-- The use of a LOOP syllable. -/
def loopUse (i : Instr) (f : Fields) : Use := { slot := .s, op := 0xC5, i := i, f := f, sh := (shape i).getD Shape.nil }

/-- LOOP (R100): a zero trip count transfers, any other pushes an entry; a kernel loop's push loads BUDGET at its continuation (R261). -/
def loopEff (i : Instr) (f : Fields) (s : State) : State :=
  let c := s.bundle.core
  let k := s.bundle.strand
  let u := loopUse i f
  match s.tripOf c k u (s.opdsOf c k u) with
  | .error _ => s
  | .ok n =>
    if n == 0 then s.transfer (s.me.bt (f.m 8 2))
    else
      let ker := f.m 2 1 == 1
      let top := match s.me.loopTop with | some t => t + 1 | none => 0
      let s1 := (s.fallThrough).putLse top (lseWord ker 0 n)
      if ker then s1.modMyFlow (fun x => { x with load := s.me.ctx.tl :: x.load }) else s1

/-- LEND (R101, R369). A taken kernel back-edge loads BUDGET and may honour a pre-emption at its continuation (R261, R262). -/
def lendEff (f : Fields) (s : State) : State :=
  match s.me.loopTop with
  | none => s
  | some n =>
    let w := s.me.lse n
    if Nat.ble (lseRem w) 1 then (s.fallThrough).putLse n 0
    else
      let s1 := (s.transfer (s.me.bt (f.m 8 2))).putLse n (lseWord (lseK w) (lseIter w + 1) (lseRem w - 1))
      if lseK w then s1.modMyFlow (fun x => { x with load := s.me.ctx.tl :: x.load, edge := s.me.ctx.tl :: x.edge }) else s1

/-! ### Votes and knot tests (R102-R106) -/

/-- l of R102. -/
def voteLanes (f : Fields) : Nat := 64 / 2 ^ f.m 3 2

/-- The mask that a vote reads, traced (R326 class 1). -/
def voteEff (f : Fields) (g : Nat → Nat → Bool) (s : State) : State :=
  let m := (s.opd f.a).u
  (s.setCond (f.m 5 3) (g (voteLanes f) m)).trace s.bundle.core s.bundle.strand 1 m

def anyLane (l m : Nat) : Bool := m % 2 ^ l != 0
def allLanes (l m : Nat) : Bool := m % 2 ^ l == 2 ^ l - 1

def ktestEff (f : Fields) (s : State) : State := s.setCond (f.m 5 3) (s.me.knot (f.m 0 4) != .pending)

/-- The strand waits from the end of this issue cycle on. -/
def State.startWait (s : State) (w : Wait) : State := s.modMyFlow (fun x => { x with wait := w, waited := 0 })

def kwaitEff (f : Fields) (s : State) : State := s.startWait (.knot (f.m 0 4) (s.opd f.a).u)
def qwaitEff (f : Fields) (s : State) : State := s.startWait (.queue f.a.qsel.toNat f.a.off.toNat (s.opd f.b).u)

/-! ### Traps and system registers (R108-R111) -/

def trapEff (f : Fields) (s : State) : State := s.postIssue 0x01 s.me.ctx.pc (f.m 0 8)

/-- ERET (R110): PC and TL follow when the bundle retires. -/
def eretEff (s : State) : State := s.modBundle (fun b => { b with eret := true })

/-- CBS (R111). -/
def Ctx.cbs (x : Ctx) : Nat := x.cb % 2 ^ 8

/-- A register of a trap bank (R342). -/
def Bank.reg (b : Bank) (i : Nat) : Nat :=
  match i with
  | 0 => b.cause.toNat | 1 => b.ret.toNat | 2 => b.addr.toNat | _ => b.aux.toNat

/-- The writable bits of BnCAUSE and BnRET (R342, R109). -/
def causeMask (v : Nat) : Nat := v % 2 ^ 10 + fld v 12 12 * 2 ^ 12
def retMask (v : Nat) : Nat := v % 2 ^ 30 + fld v 32 32 * 2 ^ 32

def Bank.setReg (b : Bank) (i v : Nat) : Bank :=
  match i with
  | 0 => { b with cause := dw (causeMask v) }
  | 1 => { b with ret := dw (retMask v) }
  | 2 => { b with addr := dw v }
  | _ => { b with aux := dw v }

/-- What SRD reads (R111). -/
def State.sreg (s : State) (c k n : Nat) : Nat :=
  let x := s.core c
  let t := x.strand k
  if n == 0x001 then coreloc c k
  else if n == 0x002 then t.place.panel.toNat
  else if n == 0x003 then t.ctx.tl
  else if n == 0x004 then t.place.gen * 2 ^ 18 + t.place.task
  else if n == 0x005 then t.icyc
  else if n == 0x006 then t.place.mallot
  else if n == 0x007 then (if bit t.place.mallot 36 then x.row.rmx + x.row.rmxp * 2 ^ 32 else 0)
  else if n == 0x008 then t.kstat
  else if n == 0x009 then t.ctx.cbs
  else if n == 0x00A then t.phaseno % 2 ^ 32
  else if n == 0x00C then t.nres.toNat
  else if n == 0x00D then x.clk
  else if n == 0x00E then t.place.textva
  else if n == 0x010 then t.ctx.wlimit
  else if n == 0x011 then t.ctx.budget
  else if Nat.ble 0x18 n && Nat.ble n 0x1B then t.bt (n - 0x18)
  else if Nat.ble 0x20 n && Nat.ble n 0x23 then (t.lse (n - 0x20)).toNat
  else if Nat.ble 0x40 n && Nat.ble n 0x43 then (t.ctx.bank 1).reg (n - 0x40)
  else (t.ctx.bank 2).reg (n - 0x48)

def srdEff (f : Fields) (s : State) : State :=
  s.appendScalar f (8, s.sreg s.bundle.core s.bundle.strand f.mod.toNat) 2

/-- The writable bits of a loop-stack entry (R98) and of NRES (R277). -/
def lseMask (v : Nat) : Dword := dw (v % 2 ^ 60 + fld v 62 2 * 2 ^ 62)
def nresMask (v : Nat) : Dword := dw (v % 2 ^ 57 + fld v 63 1 * 2 ^ 63)

/-- Write a register of a trap bank. -/
def State.putBank (s : State) (n i v : Nat) : State :=
  s.modMyCtx (fun x => { x with banks := Table.set x.banks n ((x.bank n).setReg i v) })

/-- What SWR writes (R111); reserved bits are ignored (R4). Of the registers written only NRES is read by another syllable of the
bundle (a load of an ABSENT block, R277), so its write waits for the end of the issue. -/
def swrEff (f : Fields) (s : State) : State :=
  let n := f.mod.toNat
  let v := (s.opd f.a).u
  if n == 0x009 then s.modMyCtx (fun x => { x with cb := v % 2 ^ 8 })
  else if n == 0x00C then s.modBundle (fun b => { b with nres := some (nresMask v) })
  else if n == 0x010 then s.modMyCtx (fun x => { x with wlimit := v % 2 ^ 32 })
  else if Nat.ble 0x18 n && Nat.ble n 0x1B then s.modMyCtx (fun x => { x with bt := Table.set x.bt (n - 0x18) (v % 2 ^ 30) })
  else if Nat.ble 0x20 n && Nat.ble n 0x23 then s.putLse (n - 0x20) (lseMask v)
  else if Nat.ble 0x40 n && Nat.ble n 0x43 then s.putBank 1 (n - 0x40) v
  else s.putBank 2 (n - 0x48) v

/-! ### Phases, triggers, ends (R112-R114) -/

/-- PHASE (R112): the strand has issued its PHASE of the next phase it has not, and waits. -/
def phaseEff (s : State) : State := (s.modMyFlow (fun x => { x with phases := x.phases ++ [x.bno] })).startWait .phase

/-- TRIG (R113): the strand's number of the bundle, once. -/
def trigEff (s : State) : State :=
  s.modMyFlow (fun x => { x with trig := match x.trig with | some n => some n | none => some x.bno })

/-- END (R114): the strand issues nothing further; a pre-emption request is dropped as satisfied (R349). -/
def endEff (s : State) : State := (s.modMyFlow (fun x => { x with life := .ending })).withdraw s.myTask

/-! ### Meanings -/

/-- R96. -/
def execPtg (f : Fields) (s : State) : Host.Outcome State Fault Refusal := issueOne (.ptg f) (ptgEff f) s
/-- R97. -/
def execBr (f : Fields) (s : State) : Host.Outcome State Fault Refusal := issueOne (.br f) (brEff f) s
/-- R97. -/
def execBrc (f : Fields) (s : State) : Host.Outcome State Fault Refusal := issueOne (.brc f) (brcEff f) s
/-- R97. -/
def execCall (f : Fields) (s : State) : Host.Outcome State Fault Refusal := issueOne (.call f) (callEff f) s
/-- R97. -/
def execRet (f : Fields) (s : State) : Host.Outcome State Fault Refusal := issueOne (.ret f) (retEff f) s
/-- R100, the trip count from A. -/
def execLoop (f : Fields) (s : State) : Host.Outcome State Fault Refusal := issueOne (.loop f) (loopEff (.loop f) f) s
/-- R100, the trip count from a shape record in P. -/
def execLoopSp (f : Fields) (s : State) : Host.Outcome State Fault Refusal := issueOne (.loopSp f) (loopEff (.loopSp f) f) s
/-- R100, the trip count from a shape record in W. -/
def execLoopSw (f : Fields) (s : State) : Host.Outcome State Fault Refusal := issueOne (.loopSw f) (loopEff (.loopSw f) f) s
/-- R100, the task's trip count or an extent of its shape record. -/
def execLoopTask (f : Fields) (s : State) : Host.Outcome State Fault Refusal := issueOne (.loopTask f) (loopEff (.loopTask f) f) s
/-- R101. -/
def execLend (f : Fields) (s : State) : Host.Outcome State Fault Refusal := issueOne (.lend f) (lendEff f) s
/-- R102. -/
def execVany (f : Fields) (s : State) : Host.Outcome State Fault Refusal := issueOne (.vany f) (voteEff f anyLane) s
/-- R102. -/
def execVall (f : Fields) (s : State) : Host.Outcome State Fault Refusal := issueOne (.vall f) (voteEff f allLanes) s
/-- R104. -/
def execKtest (f : Fields) (s : State) : Host.Outcome State Fault Refusal := issueOne (.ktest f) (ktestEff f) s
/-- R105. -/
def execKwait (f : Fields) (s : State) : Host.Outcome State Fault Refusal := issueOne (.kwait f) (kwaitEff f) s
/-- R106. -/
def execQwait (f : Fields) (s : State) : Host.Outcome State Fault Refusal := issueOne (.qwait f) (qwaitEff f) s
/-- R108. -/
def execTrap (f : Fields) (s : State) : Host.Outcome State Fault Refusal := issueOne (.trap f) (trapEff f) s
/-- R110. -/
def execEret (f : Fields) (s : State) : Host.Outcome State Fault Refusal := issueOne (.eret f) eretEff s
/-- R111. -/
def execSrd (f : Fields) (s : State) : Host.Outcome State Fault Refusal := issueOne (.srd f) (srdEff f) s
/-- R111. -/
def execSwr (f : Fields) (s : State) : Host.Outcome State Fault Refusal := issueOne (.swr f) (swrEff f) s
/-- R112. -/
def execPhase (f : Fields) (s : State) : Host.Outcome State Fault Refusal := issueOne (.phase f) phaseEff s
/-- R113. -/
def execTrig (f : Fields) (s : State) : Host.Outcome State Fault Refusal := issueOne (.trig f) trigEff s
/-- R114. -/
def execEndStrand (f : Fields) (s : State) : Host.Outcome State Fault Refusal := issueOne (.endStrand f) endEff s

end Sys2Proof.Machine
end

