-- ==== Sys2Proof/Machine/Tasks.lean ====
section
/-! DEFINITION. The task table (R243-R250, R399): records, acceptance, task ports, TFORK's children, readiness. -/

namespace Sys2Proof.Machine

/-! ### Records (R245, R246) -/

def rdw (r : List Dword) (i : Nat) : Nat := (r.getD i 0).toNat

/-- Whether a record is refused as a bad record (R246). DESIGN CHOICE (log entry 28): bits 63:57 of PLIST, and of TRIPS with SHP = 1, count as
reserved. -/
def recBad (fn : Nat) (r : List Dword) : Bool :=
  let d := rdw r
  let cores := (fld (d 3) 0 3 + 1) * (fld (d 3) 3 3 + 1)
  let stages := fld (d 3) 6 4 + 1
  fld (d 1) 60 4 != 0 || fld (d 3) 32 32 != 0 || bit (d 3) 19 || fld (d 3) 13 3 != 0 || fld (d 6) 32 32 != 0 || fld (d 8) 13 51 != 0
    || d 13 != 0 || d 14 != 0 || d 15 != 0
    || (if bit (d 3) 16 then fld (d 2) 57 7 != 0 || d 2 % 64 != 0 else Nat.ble (2 ^ 30) (d 2))
    || Nat.blt 4096 (d 8 % 2 ^ 13) || Nat.blt cores stages || cores % stages != 0 || fld (d 3) 20 12 == 0
    || fld (d 7) 57 7 != 0 || d 7 % 8 != 0 || d 10 % 64 != 0 || d 11 % 4096 != 0 || d 12 % 16 != 0 || (fn != 0 && d 6 % 2 ^ 32 == 0)

/-- A record with dword i replaced. -/
def recSet (r : List Dword) (i v : Nat) : List Dword := r.set i (dw v)

/-- The live entries of a function. -/
def State.liveEntries (s : State) (fn : Nat) : List (Nat × Task) := s.disp.tasks.filter (fun p => p.1 / 2 ^ 18 == fn)

/-- DSPFN of a function (R252). -/
def State.dspfn (s : State) (fn : Nat) : Nat := (Table.getD s.disp.fns fn 0x3FFFF01).toNat

/-- Whether n more entries fit the table and the quota (R243). -/
def State.room (s : State) (fn n : Nat) : Bool :=
  let live := (s.liveEntries fn).length
  Nat.ble (live + n) 262143 && (fn == 0 || Nat.ble (live + n) (fld (s.dspfn fn) 8 18))

/-- The n lowest free indices of a function. -/
def State.freeIndices (s : State) (fn n : Nat) : List Nat :=
  let used := (s.liveEntries fn).map (fun p => p.1 % 2 ^ 18)
  (((upto (used.length + n + 1)).filter (fun i => i != 0 && !used.contains i))).take n

/-- A page list as it can or cannot be read (R250): its valid entries as page numbers. -/
def State.readList (s : State) (fn va n : Nat) : Va (List Nat) × State :=
  match s.pageList fn va n with
  | (.bad f, s1) => (.bad { f with cause := if f.cause == 0x16 then 0x16 else 0x0A }, s1)
  | r => r

/-- A refusal with a cause of its own, of no address. -/
def refusal (cause : Nat) : VaFault := { cause := cause, va := 0, addr := 0, aux := 0 }

/-- The checks of R203 and R247 on a record of priority `prio` for one entry, in their order: the pages of its list, or the refusal. -/
def State.vet (s : State) (fn : Nat) (r : List Dword) (prio : Nat) : Va (List Nat) × State :=
  if recBad fn r then (.bad (refusal 0x18), s)
  else if fn != 0 && prio == 7 then (.bad (refusal 0x1A), s)
  else if !s.room fn 1 then (.bad (refusal 0x1B), s)
  else match s.readList fn (rdw r 7 % 2 ^ 57) (rdw r 8 % 2 ^ 13) with
    | (.ok ps, s1) => if s1.refsPass 1 ps then (.bad (refusal 0x1B), s1) else (.ok ps, s1)
    | x => x

/-- The predecessors a new task awaits (R249, R399). -/
def State.awaited (s : State) (fn : Nat) (r : List Dword) : List Nat :=
  (([rdw r 4 / 2 ^ 32, rdw r 5 % 2 ^ 32, rdw r 5 / 2 ^ 32].filter (fun id => id != 0)).foldl
    (fun acc id => if acc.contains id then acc else acc ++ [id]) []).filter (fun id =>
      match s.taskOfId fn id with
      | some (_, t) => t.st != .husk && !t.fired
      | none => false)

/-- Enter a record at an index: the entry is HELD or READY (R246), and the notify word of event 1 is written (R248). -/
def State.enter (s : State) (fn idx : Nat) (r : List Dword) (prio parent : Nat) (spawned : Bool) : Nat × State :=
  let key := taskKey fn idx
  let gen := Table.getD s.disp.gens key 0
  let preds := s.awaited fn r
  let id := gen * 2 ^ 18 + idx
  let t : Task :=
    { st := if preds.isEmpty then .ready else .held, gen := gen, recd := r, prio := prio, parent := parent, preds := preds,
      spawned := spawned, since := s.env.ns, refs := true }
  (id, (s.setTask key t).notifyWord fn (rdw r 12) 0 1 0 id false)

/-- Accept a record (R246): its ID, the refusal, or a wait for its page list (R272). -/
def State.accept (s : State) (fn : Nat) (r : List Dword) (prio parent : Nat) (spawned : Bool) : Va Nat × State :=
  match s.vet fn r prio with
  | (.bad f, s1) => (.bad f, s1)
  | (.wait, s1) => (.wait, s1)
  | (.ok ps, s1) =>
    match s1.freeIndices fn 1 with
    | [] => (.bad (refusal 0x1B), s1)
    | i :: _ =>
      let (id, s2) := (s1.raiseRefs 1 ps).enter fn i r prio parent spawned
      (.ok id, s2)

/-! ### Task ports (R247) -/

/-- The dwords of a record as the host writes it. -/
def recWords (b : BitVec 1024) : List Dword := (upto 16).map (fun i => b.extractLsb' (64 * i) 64)

/-- A write to a task port is dropped and counted; with a usable NOTIFY a refusal word is written (R247). -/
def State.dropRecord (s : State) (fn : Nat) (r : List Dword) (cause : Nat) : State :=
  let s1 := s.errcnt fn false
  if rdw r 12 % 16 == 0 then s1.notifyWord fn (rdw r 12) 0 5 cause 0 false else s1

/-- The record of a task-port write as it is entered: PRI is the port's, PARENT is 0 (R247). -/
def portRecord (port : Nat) (rec : BitVec 1024) : List Dword :=
  let r := recWords rec
  recSet (recSet r 3 (setFld (rdw r 3) 10 3 (port % 8))) 4 (rdw r 4 / 2 ^ 32 * 2 ^ 32)

/-- A whole record written to a task port: entered, or dropped; `false` while its page list cannot be read yet (R247, R272). -/
def State.enterPort (s : State) (fn port : Nat) (rec : BitVec 1024) : Bool × State :=
  let r := portRecord port rec
  if fn != 0 && port % 8 == 7 then (true, s.dropRecord fn r 0x1A)
  else match s.accept fn r (port % 8) 0 false with
    | (.ok _, s1) => (true, s1)
    | (.bad f, s1) => (true, s1.dropRecord fn r f.cause)
    | (.wait, s1) => (false, s1)

/-- The aperture's bytes at a VA of a function's die-0 table are written, or dropped and counted; `false` while they wait for the host or
for a channel (R221, R272, R316). -/
def State.writeAperture (s : State) (fn va : Nat) (data : List Byte) : Bool × State :=
  match s.writeVA fn va data with
  | (.ok _, s1) => (true, s1)
  | (.bad _, s1) => (true, s1.errcnt fn true)
  | (.wait, s1) => (false, s1)

/-- One posted write of the host. -/
def State.doPosted (s : State) (fn : Nat) : Posted → Bool × State
  | .port port rec => s.enterPort fn port rec
  | .aperture va data => s.writeAperture fn va data

/-- The posted writes of a function take effect in order, up to the first that waits (R247, R317). -/
def State.doPosteds (s : State) (fn : Nat) : List Posted → State
  | [] => s.modFnHost fn (fun h => { h with posted := [] })
  | w :: ws =>
    match s.doPosted fn w with
    | (true, s1) => State.doPosteds s1 fn ws
    | (false, s1) => s1.modFnHost fn (fun h => { h with posted := w :: ws })

/-- The host posts a write: it takes effect after those that the function's host posted before it (R247, R317). -/
def State.post_ (s : State) (fn : Nat) (w : Posted) : State := s.doPosteds fn ((s.fnHost fn).posted ++ [w])

/-- TASK_PORT_WRITE (R247, R414, R415). -/
def execTaskPortWrite (fn port : Nat) (size : Nat) (aligned : Bool) (rec : BitVec 1024) (s : State) :
    Host.Outcome State Fault Refusal :=
  if s.host.recover then .next (s.errcnt fn false)
  else if (s.fnHost fn).resetting then .next s
  else if size != 128 || !aligned then .next (s.errcnt fn false)
  else .next (s.post_ fn (.port port rec))

/-! ### TFORK's children (R204) -/

/-- The reserved bits of a fork word, N and ASTR (R204). -/
def forkBad (w : Nat) : Bool :=
  fld w 48 16 != 0 || fld w 11 5 != 0 || bit w 7 || w % 2 ^ 7 == 0 || Nat.blt 64 (w % 2 ^ 7) || fld w 16 32 % 64 != 0

/-- The record of child i (R204). -/
def childRecord (tmpl : List Dword) (w plen parent i : Nat) : List Dword :=
  let r1 := recSet tmpl 3 (setFld (rdw tmpl 3) 10 3 (fld w 8 3))
  let r2 := recSet r1 4 (rdw tmpl 4 / 2 ^ 32 * 2 ^ 32 + parent)
  let r3 := recSet r2 7 (rdw tmpl 7 + i * 0x8000)
  let r4 := recSet r3 8 (setFld (rdw tmpl 8) 0 13 plen)
  recSet r4 9 (rdw tmpl 9 + i * fld w 16 32)

/-- Whether a WR that has been checked against one of the pages is still to be performed (R218). -/
def State.wrPending (s : State) (pages : List Nat) : Bool :=
  s.pumps.any (fun p => p.2.data.any (fun d => d.2.route == 3 && Nat.ble (2 ^ 42) d.2.dest && pages.contains ((d.2.dest - 2 ^ 42) / 2 ^ 18)))

/-- Write the list copies of the children as engine writes through the die-0 table, up to the first that cannot be written (R204). -/
def State.writeCopies (s : State) (fn : Nat) (bs : List Byte) : List Nat → Va Unit × State
  | [] => (.ok (), s)
  | va :: vas =>
    match s.writeVA fn va bs with
    | (.ok _, s1) => State.writeCopies s1 fn bs vas
    | (.bad f, s1) => (.bad { f with cause := if f.cause == 0x0F || f.cause == 0x16 then f.cause else 0x0A }, s1)
    | r => r

/-- Enter the children. -/
def State.enterAll (s : State) (fn parent prio : Nat) : List Nat → List (List Dword) → List Nat × State
  | i :: is, r :: rs =>
    let (id, s1) := s.enter fn i r prio parent true
    let (ids, s2) := State.enterAll s1 fn parent prio is rs
    (id :: ids, s2)
  | _, _ => ([], s)

/-- What the dispatcher step of a TFORK comes to: the children's IDs, a refusal, or a wait for WRs already checked (R218) or for a host page
(R272). -/
inductive ForkRes
  | ok (ids : List Nat)
  | refuse (f : VaFault)
  | wait

/-- The dispatcher step of a TFORK of the task at `key` (R204). -/
def State.fork (s : State) (key : Nat) (t : Task) (w : Nat) (tmpl : Option (List Dword)) : ForkRes × State :=
  let fn := key / 2 ^ 18
  let n := w % 2 ^ 7
  match tmpl with
  | none => (.refuse (refusal 0x18), s)
  | some m =>
    let recs := (upto n).map (childRecord m w t.plen (t.id key))
    if forkBad w || recs.any (recBad fn) then (.refuse (refusal 0x18), s)
    else if fn != 0 && fld w 8 3 == 7 then (.refuse (refusal 0x1A), s)
    else if !s.room fn n then (.refuse (refusal 0x1B), s)
    else match s.readList fn t.plist t.plen with
      | (.bad f, s1) => (.refuse f, s1)
      | (.wait, s1) => (.wait, s1)
      | (.ok ps, s1) =>
        if s1.wrPending ps then (.wait, s1)
        else if s1.refsPass n ps then (.refuse (refusal 0x1B), s1)
        else match s1.readVA fn t.plist (8 * t.plen) with
          | (.bad f, s2) => (.refuse { f with cause := if f.cause == 0x16 then 0x16 else 0x0A }, s2)
          | (.wait, s2) => (.wait, s2)
          | (.ok bs, s2) =>
            match s2.writeCopies fn bs (if t.plen == 0 then [] else recs.map (fun r => rdw r 7 % 2 ^ 57)) with
            | (.bad f, s3) => (.refuse f, s3)
            | (.wait, s3) => (.wait, s3)
            | (.ok _, s3) =>
              let (ids, s4) := (s3.raiseRefs n ps).enterAll fn (t.id key) (fld w 8 3) (s3.freeIndices fn n) recs
              (.ok ids, s4)

/-! ### Effective priority (R251) -/

def State.agi (s : State) : Nat := s.disp.cfg.toNat % 2 ^ 32 * 1000

/-- The effective priority (R251); a RUNNING task has waited for no time. -/
def State.effPrio (s : State) (t : Task) : Nat :=
  if t.prio == 7 then 7
  else match t.st with
    | .running => Nat.min 6 t.prio
    | _ => Nat.min 6 (t.prio + (s.env.ns - t.since) / s.agi)

/-- A task at a new effective priority has been passed over for no time there (R254). -/
def State.keepPassed (s : State) (t : Task) : Task :=
  if t.passed.any (fun p => p.2 != s.effPrio t) then { t with passed := none } else t

def State.keepAllPassed (s : State) : State :=
  s.modDisp (fun d => { d with tasks := d.tasks.map (fun (p : Nat × Task) => (p.1, s.keepPassed p.2)) })

/-! ### Readiness (R249) -/

/-- TASK_READY: a HELD task none of whose predecessors is unsatisfied becomes READY. -/
def execTaskReady (fn task : Nat) (s : State) : Host.Outcome State Fault Refusal :=
  let key := taskKey fn task
  match s.task? key with
  | some t =>
    if t.st == .held && t.preds.isEmpty && !s.captured key then .next (s.setTask key { t with st := .ready, since := s.env.ns }) else .next s
  | none => .next s

end Sys2Proof.Machine
end

