-- ==== Sys2Proof/Machine/Place.lean ====
section
/-! DEFINITION. Cast-on (R256-R260, R264, R276, R352): launch blocks, handles, placement, what a strand receives, what a restore puts
back; epochs (R384, R386). -/

namespace Sys2Proof.Machine

/-! ### Launch blocks (R258-R260) -/

/-- A launch block as checked. -/
structure Launch where
  queues : List Queue
  fds    : List Nat
  wlimit : Nat
  mallot : Nat
  aq     : Option Nat
  grafts : List (Nat × Nat × Nat × Nat)
  sbase  : Nat
  ssize  : Nat
deriving DecidableEq, Repr

def Launch.queue (l : Launch) (n : Nat) : Queue := l.queues.getD n {}

/-- The extents of a launch block's enabled queues. -/
def Launch.extents (l : Launch) : List (Nat × Nat) := (l.queues.filter (fun q => q.en)).map Queue.extent

/-- Whether no two of a list of byte runs overlap (R24). -/
def disjointRuns : List (Nat × Nat) → Bool
  | [] => true
  | x :: xs => xs.all (fun y => !overlap x.1 x.2 y.1 y.2) && disjointRuns xs

/-- Whether a queue image of a launch block breaks R199. -/
def launchImageBad (p : Place) (d0 d1 : Nat) : Bool :=
  let q := Queue.ofImage d0 d1
  p.imageBad d0 d1 || q.gsrc || q.gtgt || q.gcred != 0 || q.gtlog != 0 || fld d1 2 18 != 0 || (q.en && q.head != q.tail)

/-- A launch block (64 dwords) by R258 to R260 for ns stages; none: a layout fault. -/
def launchOf (ns : Nat) (d : List Nat) : Option Launch :=
  let g := fun (i : Nat) => d.getD i 0
  let fds := (upto 16).map (fun i => fld (g (32 + i / 2)) (32 * (i % 2)) 32)
  let sp := g 43
  let p : Place := { sbase := fld sp 0 6, ssize := fld sp 8 7 }
  let l : Launch :=
    { queues := (upto 16).map (fun n => Queue.ofImage (g (2 * n)) (g (2 * n + 1))), fds := fds, wlimit := g 40, mallot := g 41,
      aq := if bit (g 42) 4 then some (fld (g 42) 0 4) else none,
      grafts := (upto (fld (g 42) 8 5)).map (fun i => (fld (g (44 + i)) 0 4, fld (g (44 + i)) 4 4, fld (g (44 + i)) 8 4, fld (g (44 + i)) 12 4)),
      sbase := p.sbase, ssize := p.ssize }
  let reserved := Nat.ble (2 ^ 32) (g 40) || Nat.ble (2 ^ 37) (g 41) || fld (g 42) 5 3 != 0 || fld (g 42) 13 51 != 0 || fld sp 6 2 != 0
    || fld sp 15 49 != 0 || (upto 16).any (fun i => Nat.ble (2 ^ 16) (g (44 + i))) || (upto 4).any (fun i => g (60 + i) != 0)
  let graftBad := l.grafts.any (fun (a, n, b, m) =>
    a == b || Nat.ble ns a || Nat.ble ns b || !(l.queue n).en || !(l.queue m).en || (l.queue n).wide != (l.queue m).wide)
  let tgts := l.grafts.map (fun x => (x.2.2.1, x.2.2.2))
  let srcs := l.grafts.map (fun x => (x.1, x.2.1))
  let aqBad := match l.aq with
    | some n => !(l.queue n).en || (l.queue n).wide || Nat.blt (l.queue n).logcap 2
    | none => false
  if reserved || Nat.blt 16 (fld (g 42) 8 5) || p.ssize == 0 || Nat.blt 64 p.ssize || Nat.blt 64 (p.sbase + p.ssize)
      || (upto 16).any (fun n => launchImageBad p (g (2 * n)) (g (2 * n + 1))) || !disjointRuns l.extents || !fds.all fdValid
      || graftBad || tgts.any (fun x => tgts.count x != 1) || srcs.any (fun x => srcs.count x != 1 || tgts.contains x) || aqBad
  then none else some l

/-- The code-table index of a valid handle whose object has the record's entries (R283, R260). -/
def State.handleOk (s : State) (fn : Nat) (t : Task) : Option Nat :=
  let h := t.dw 0
  let i := h % 2 ^ 12
  match Table.get? s.codes i with
  | none => none
  | some x =>
    let entry := fun (o : Nat) => x.entries.any (fun e => fld e 20 2 == 0 && e % 2 ^ 20 == o)
    let live := match x.st with | .loaded => true | .closing => false
    if fld h 30 34 == 0 && i != 0 && live && x.gen == fld h 12 16 && x.fn == fn && bit h (if t.spawned then 29 else 28)
        && (!bit (t.dw 3) 17 || entry (fld (t.dw 1) 0 20)) && entry (fld (t.dw 1) 20 20) && (!bit (t.dw 3) 18 || entry (fld (t.dw 1) 40 20))
    then some i else none

/-- What the checks of the first cast-on give (R260): the code index, the launch block with its bytes, NDIM and the extents. -/
structure Ready where
  code    : Nat
  launch  : Launch
  bytes   : List Byte
  ndim    : Nat
  extents : List Nat

/-- The checks of R260: the cause of the kill, or none while a page it reads is not at hand (R272). -/
def State.firstCheck (s : State) (fn : Nat) (t : Task) : Except Nat (Option Ready) × State :=
  match s.handleOk fn t with
  | none => (.error 0x19, s)
  | some code =>
    match s.readVA fn (t.dw 10) 512 with
    | (.bad _, s1) => (.error 0x18, s1)
    | (.wait, s1) => (.ok none, s1)
    | (.ok bs, s1) =>
      match launchOf t.nstg (dwords bs 64) with
      | none => (.error 0x18, s1)
      | some l =>
        if bit (t.dw 3) 16 then
          (match s1.readVA fn (t.dw 2 % 2 ^ 57) 64 with
          | (.bad _, s2) => (.error 0x18, s2)
          | (.wait, s2) => (.ok none, s2)
          | (.ok sb, s2) =>
            let d := dwords sb 8
            if shapeOk d then
              (.ok (some { code := code, launch := l, bytes := bs, ndim := d.getD 0 0, extents := (d.drop 1).take (d.getD 0 0) }), s2)
            else (.error 0x18, s2))
        else (.ok (some { code := code, launch := l, bytes := bs, ndim := 1, extents := [t.dw 2] }), s1)

/-! ### Epochs (R384, R386) -/

/-- The epoch a panel would take on a die, when the counter may advance. -/
def Die.nextEpoch (d : Die) : Option Nat :=
  let e := (d.epoch + 1) % 2 ^ 20
  let q := e / 2 ^ 18
  if q == d.epoch / 2 ^ 18 then some e
  else if d.swept == q && !d.live.any (fun p => p.1 / 2 ^ 18 == q) then some e else none

/-- A task's panel takes an epoch of a die in place of the one it held. -/
def State.takeEpoch (s : State) (d key e : Nat) : State :=
  s.modDie d (fun x => { x with epoch := e, live := (x.live.filter (fun p => p.2 != key)) ++ [(e, key)] })

/-- EPOCH_SWEEP: the records whose epoch lies in the next quarter are emptied; none of that quarter may still be live. -/
def execEpochSweep (die : Nat) (s : State) : Host.Outcome State Fault Refusal :=
  let d := s.die die
  let q := (d.epoch / 2 ^ 18 + 1) % 4
  if d.live.any (fun p => p.1 / 2 ^ 18 == q) then .next s
  else .next (s.modDie die (fun x =>
    { x with swept := q, tags := (x.tags.map (fun (t : Nat × List GranRec) =>
        (t.1, t.2.filter (fun r => r.epoch / 2 ^ 18 != q)))).filter (fun t => !t.2.isEmpty) }))

/-! ### Placement (R256, R276, R323, R396, R400) -/

/-- What a core must hold for a task: MALLOT, the P span, the queue extents, and by panel position the regions of a save. -/
structure Need where
  mallot  : Nat
  sbase   : Nat
  ssize   : Nat
  extents : List (Nat × Nat)
deriving DecidableEq, Repr

def Launch.need (l : Launch) : Need := { mallot := l.mallot, sbase := l.sbase, ssize := l.ssize, extents := l.extents }

/-- Whether a die's state and its retired cores take a MALLOT request on a core (R323, R396). -/
def State.dieTakes (s : State) (c mallot : Nat) : Bool :=
  let d := s.die (dieOf c)
  match d.state with
  | .full => mallot % 2 ^ 32 == 0 || !bit d.mxret.toNat (vaultOf c)
  | .vector => mallot % 2 ^ 36 == 0
  | _ => false

/-- Whether a core fits, leaving out the strands for which `gone` holds: the strand taken (R256, R276). -/
def State.coreFits (s : State) (c : Nat) (n : Need) (regs : List (Nat × Nat)) (gone : Strand → Bool) : Option Nat :=
  let x := s.core c
  let live := (x.strands.map Prod.snd).filter (fun t => t.live && !gone t)
  let clash := fun (t : Strand) =>
    (dw t.place.mallot &&& dw n.mallot) != 0
      || overlap (t.place.sbase * 2 ^ 16) (t.place.ssize * 2 ^ 16) (n.sbase * 2 ^ 16) (n.ssize * 2 ^ 16)
      || (n.extents ++ regs).any (fun e =>
        t.queues.any (fun (q : Nat × Queue) => q.2.en && overlap e.1 e.2 q.2.extent.1 q.2.extent.2)
          || t.regions.any (fun (r : Nat × Region) => overlap e.1 e.2 (r.2.pbase * 4096) (r.2.size * 4096)))
  if !s.dieTakes c n.mallot || live.any clash then none
  else [0, 1, 2, 3].find? (fun k => !((x.strand k).live) || gone (x.strand k))

/-- The region of a panel with its origin: its cores by panel position. -/
def panelCores (t : Task) (d r0 c0 : Nat) : List (Nat × Nat) :=
  (upto (t.ph * t.pw)).map (fun p => (p, d * 64 + (r0 + p / t.pw) * 8 + c0 + p % t.pw))

/-- The regions in the order of R256. -/
def regionsOf (t : Task) : List (Nat × Nat × Nat) :=
  (upto 4).flatMap (fun d => (upto (9 - t.ph)).flatMap (fun r => (upto (9 - t.pw)).map (fun c => (d, r, c))))

/-- Whether a strand at a panel position takes part in a cast-on: at a restore, those that had not ended (R256). -/
def Task.takesPart (t : Task) (p : Nat) : Bool :=
  t.first || (match t.panel[p]? with | some (_, _, .ended) => false | _ => true)

/-- The P runs of the regions recorded for a panel position (R276). -/
def Task.savedRuns (t : Task) (p : Nat) : List (Nat × Nat) :=
  (t.regions.filter (fun r => r.1 == p)).map (fun r => (r.2.2.pbase * 4096, r.2.2.size * 4096))

/-- Whether a die holds its copies of the texts (R284, R286): of every LOADED object, until which no task is placed on it, and of the object
that a task's handle names. DEDUCED (log entry 11): an object of which no die in service holds a copy keeps no die from its tasks. -/
def State.textOn (s : State) (t : Task) (d : Nat) : Bool :=
  s.codes.all (fun (c : Nat × Code) =>
    let loaded := match c.2.st with | .loaded => true | .closing => false
    (Table.get? c.2.pages d).isSome
      || !(c.1 == t.dw 0 % 2 ^ 12 || (loaded && s.serving.any (fun b => (Table.get? c.2.pages b).isSome))))

/-- Whether a core lies in a fixed region (R254). -/
def BlockReg.has (b : BlockReg) (c : Nat) : Bool :=
  dieOf c == b.die && Nat.ble b.row (vaultOf c / 8) && Nat.blt (vaultOf c / 8) (b.row + b.h) && Nat.ble b.col (vaultOf c % 8)
    && Nat.blt (vaultOf c % 8) (b.col + b.w)

/-- The strands a task takes in a region, by panel position, when every core fits. DEDUCED (log entry 21): a SAVED task is placed by the same
rule, so every core of the region must fit, those of ended positions too, which take no strand (R256). A core of a die without a copy of the
task's text does not fit (R286, log entry 11). -/
def State.regionFits (s : State) (t : Task) (n : Need) (gone : Strand → Bool) (d r0 c0 : Nat) : Option (List (Nat × Nat × Nat)) :=
  if (s.die d).nextEpoch.isNone || !s.textOn t d then none
  else
    let ks := (panelCores t d r0 c0).map (fun p => (p.1, p.2, s.coreFits p.2 n (t.savedRuns p.1) gone))
    if ks.all (fun x => x.2.2.isSome) then
      some ((ks.filter (fun x => t.takesPart x.1)).map (fun x => (x.1, x.2.1, x.2.2.getD 0)))
    else none

def noneGone (_ : Strand) : Bool := false

/-- The placement of a task (R256): the first region that fits and holds no core that is kept for the blocking task. -/
def State.placement (s : State) (t : Task) (n : Need) (kept : Option BlockReg) : Option ((Nat × Nat × Nat) × List (Nat × Nat × Nat)) :=
  (regionsOf t).findSome? (fun (x : Nat × Nat × Nat) =>
    if (panelCores t x.1 x.2.1 x.2.2).any (fun p => match kept with | some b => b.has p.2 | none => false) then none
    else (s.regionFits t n noneGone x.1 x.2.1 x.2.2).map (fun ks => (x, ks)))

/-- Whether a task can never be placed (R400): no die is off or testing, and no region of the dies in service admits it with every
strand idle. -/
def State.neverFits (s : State) (t : Task) (mallot : Nat) : Bool :=
  (upto 4).all (fun d => match (s.die d).state with | .off => false | .testing => false | _ => true)
    && (regionsOf t).all (fun (x : Nat × Nat × Nat) =>
      !(panelCores t x.1 x.2.1 x.2.2).all (fun p => s.dieTakes p.2 mallot))

/-! ### What a strand receives (R257, R259, R260) -/

/-- PANELPOS (R12). -/
def panelWord (t : Task) (r0 c0 p : Nat) : Nat :=
  p % t.nstg * 2 ^ 28 + (t.nstg - 1) * 2 ^ 24 + (t.ph - 1) * 2 ^ 18 + (t.pw - 1) * 2 ^ 15 + r0 * 2 ^ 12 + c0 * 2 ^ 9 + p / t.pw * 2 ^ 6
    + p % t.pw * 2 ^ 3

/-- What MALLOT allots is clear at a cast-on (R144). -/
def Core.clearAllot (x : Core) (m : Nat) : Core :=
  let unit := fun (u : Nat) (y : MatUnit) =>
    { y with tiles := y.tiles.filter (fun t => !bit m (16 * u + t.1)), ops := y.ops.filter (fun o => !bit m (16 * u + o.2.tile)) }
  { x with
    units := x.units.map (fun (u : Nat × MatUnit) => (u.1, unit u.1 u.2))
    mqs := x.mqs.filter (fun q => !bit m (32 + q.1))
    row := if bit m 36 then { x.row with cfg := none, load := none, bad := none } else x.row }

/-- The place of a strand at a cast-on. -/
def Task.place (t : Task) (key code textva r0 c0 p : Nat) (n : Need) : Place :=
  { fn := key / 2 ^ 18, task := key % 2 ^ 18, gen := t.gen, pos := p, panel := Machine.dw (panelWord t r0 c0 p), mallot := n.mallot,
    textva := textva, code := code, sbase := n.sbase, ssize := n.ssize, budgetRec := t.dw 6 % 2 ^ 32, ndim := t.ndim,
    extents := t.extents }

/-- A strand comes to live at its place with an empty P span (R259). -/
def State.settle (s : State) (c k : Nat) (pl : Place) (x : Ctx) (epoch : Nat) : State :=
  let s1 := s.zeroBytes (keyP c (pl.sbase * 2 ^ 16)) (pl.ssize * 2 ^ 16)
  let t : Strand := { ctx := x, place := pl, flow := { life := .running }, epoch := epoch }
  ((s1.modCore c (fun y => y.clearAllot pl.mallot)).setStrand c k t).trace c k 7 (pl.gen * 2 ^ 18 + pl.task)

/-- The context of a strand at the first cast-on (R260). -/
def firstCtx (t : Task) (l : Launch) : Ctx :=
  let kern := fld (t.dw 1) 20 20
  { pc := if bit (t.dw 3) 17 then fld (t.dw 1) 0 20 else kern
    bt := [(0, kern), (1, if bit (t.dw 3) 18 then fld (t.dw 1) 40 20 else 2 ^ 30 - 1)]
    fds := numbered 0 l.fds, wlimit := l.wlimit, budget := 0 }

/-- Set up one graft between resident strands (R34, R257). -/
def State.joinGraft (s : State) (sc sk sq tc tk tq : Nat) : State :=
  let tgt := s.queue tc tk tq
  let s1 := s.modQueue sc sk sq (fun q =>
    { q with gsrc := true, gcore := tc, gstr := tk, gq := tq, gtlog := tgt.logcap, gcred := tgt.cap - tgt.occ, broken := false })
  s1.modQueue tc tk tq (fun q => { q with gtgt := true })

/-- The strand at a panel position in a placement. -/
def placedAt (ks : List (Nat × Nat × Nat)) (p : Nat) : Nat × Nat :=
  match ks.find? (fun x => x.1 == p) with | some x => x.2 | none => (0, 0)

/-- The grafts of a launch block, in every lane of the panel (R257). -/
def State.launchGrafts (s : State) (t : Task) (ks : List (Nat × Nat × Nat)) : List (Nat × Nat × Nat × Nat) → State
  | [] => s
  | (a, n, b, m) :: gs =>
    let lanes := (upto (t.ph * t.pw / t.nstg))
    State.launchGrafts (lanes.foldl (fun (s1 : State) i =>
      let x := placedAt ks (i * t.nstg + a)
      let y := placedAt ks (i * t.nstg + b)
      s1.joinGraft x.1 x.2 n y.1 y.2 m) s) t ks gs

/-- Append slots that are present at once. -/
def State.arriveAll (s : State) (c k q : Nat) : List Nat → State
  | [] => s
  | v :: vs => State.arriveAll (s.arrive c k q 8 (BitVec.ofNat 2048 v)) c k q vs

/-- Each strand of a panel receives what the first cast-on gives it. -/
def State.castStrands (s : State) (key : Nat) (t : Task) (rd : Ready) (r0 c0 epoch : Nat) : List (Nat × Nat × Nat) → State
  | [] => s
  | (p, c, k) :: ks =>
    let l := rd.launch
    let text := match Table.get? s.codes rd.code with | some x => x.textva | none => 0
    let s1 := s.settle c k (t.place key rd.code text r0 c0 p l.need) (firstCtx t l) epoch
    let s2 := s1.modStrand c k (fun y => { y with queues := numbered 0 l.queues })
    let s3 := match l.aq with
      | some q => s2.arriveAll c k q [t.dw 9, t.dw 7, t.dw 8, t.id key]
      | none => s2
    State.castStrands s3 key t rd r0 c0 epoch ks

/-- The first cast-on of a task (R260). -/
def State.castFirst (s : State) (key : Nat) (t0 : Task) (rd : Ready) (o : Nat × Nat × Nat) (ks : List (Nat × Nat × Nat)) : State :=
  let t := { t0 with
    st := .running, first := false, castAt := s.env.ns, origin := o, launch := rd.bytes, ndim := rd.ndim, extents := rd.extents,
    panel := ks.map (fun x => (x.2.1, x.2.2, .cast)), passed := none }
  let e := ((s.die o.1).nextEpoch).getD 0
  let s1 := (s.setTask key t).takeEpoch o.1 key e
  (s1.castStrands key t rd o.2.1 o.2.2 e ks).launchGrafts t ks rd.launch.grafts

/-! ### Saved contexts (R263, R264, R352) -/

/-- A queue's image with the graft fields as QD1 has them (R23). -/
def Queue.image (q : Queue) : Nat × Nat :=
  (q.base + q.logcap * 2 ^ 22 + bnat q.wide * 2 ^ 26 + bnat q.en * 2 ^ 27 + q.head * 2 ^ 32 + q.tail * 2 ^ 45,
   bnat q.gsrc + bnat q.gtgt * 2 + q.gq * 2 ^ 6 + q.gstr % 4 * 2 ^ 10 + q.gcore % 256 * 2 ^ 12 + q.gtlog * 2 ^ 20 + q.gcred * 2 ^ 27)

/-- The bytes of a queue's window: its slots in head order, then their tags, padded to 64 bytes (R263). -/
def State.windowBytes (s : State) (c k n : Nat) : List Byte :=
  let q := s.queue c k n
  if q.en && q.occ != 0 then
    let os := upto q.occ
    let bs := os.flatMap (fun o => bytesLE q.size (s.slotData c k n (q.index o)).toNat)
      ++ os.map (fun o => BitVec.ofNat 8 (q.slot (q.index o)).tag)
    bs ++ List.replicate ((64 - bs.length % 64) % 64) 0
  else []

/-- KSTAT from the saved word (R103). -/
def knotsOfWord (w : Nat) : Table KState :=
  (upto 16).map (fun n => (n, match fld w (2 * n) 2 with | 0 => .idle | 1 => .pending | 2 => .done | _ => .failed))

/-- The save area of a strand as runs of (offset, bytes) (R263). -/
def State.saveImage (s : State) (c k : Nat) : List (Nat × List Byte) :=
  let t := s.strand c k
  let x := t.ctx
  let d := fun (n : Nat) => bytesLE 8 n
  let qs := (upto 16).flatMap (fun n => let i := (t.queue n).image; d i.1 ++ d i.2)
  [(0, d (x.pc + x.tl * 2 ^ 32) ++ (upto 4).flatMap (fun n => d (t.bt n)) ++ d x.cb ++ (upto 4).flatMap (fun n => d (t.lse n).toNat)
      ++ d t.kstat ++ d x.wlimit ++ d x.budget),
   (0x80, (upto 16).flatMap (fun n => bytesLE 4 (t.fd n)) ++ ((x.bank 1).dwords ++ (x.bank 2).dwords).flatMap (fun w => d w.toNat) ++ qs),
   (0x1000, (upto 16).flatMap (s.windowBytes c k))]

/-- Write runs at a VA, up to the first that cannot be written. -/
def State.writeRuns (s : State) (fn base : Nat) : List (Nat × List Byte) → Va Unit × State
  | [] => (.ok (), s)
  | (o, bs) :: rs =>
    match s.writeVA fn (base + o) bs with
    | (.ok _, s1) => State.writeRuns s1 fn base rs
    | r => r

/-- A strand's context as its save area gives it, with its windows as (queue, slots, tags); the cause and VA of a failure (R352). -/
def restoreCtx (d : List Nat) (tail : List Nat) : Ctx :=
  let g := fun (i : Nat) => d.getD i 0
  let h := fun (i : Nat) => tail.getD i 0
  let bank := fun (i : Nat) => { cause := dw (h i), ret := dw (h (i + 1)), addr := dw (h (i + 2)), aux := dw (h (i + 3)) : Bank }
  { pc := fld (g 0) 0 30, tl := fld (g 0) 32 2, bt := (upto 4).map (fun n => (n, g (1 + n) % 2 ^ 30)), cb := g 5 % 2 ^ 8,
    lse := (upto 4).map (fun n => (n, dw (g (6 + n)))), knots := knotsOfWord (g 10), wlimit := g 11 % 2 ^ 32, budget := g 12 % 2 ^ 32,
    fds := (upto 16).map (fun i => (i, fld (h (i / 2)) (32 * (i % 2)) 32)), banks := [(1, bank 8), (2, bank 12)] }

/-- The queues of a save area, unless they break the structure of R352; `graft` tells whether a source queue's target, as the image and
the record of the save have it, is a strand of the task. -/
def restoreQueues (p : Place) (graft : Nat → Queue → Bool) (d : List Nat) : Option (List Queue) :=
  let img := fun (n : Nat) => (d.getD (2 * n) 0, d.getD (2 * n + 1) 0)
  let qs := (upto 16).map (fun n => Queue.ofImage (img n).1 (img n).2)
  let bad := (upto 16).any (fun n =>
    let q := qs.getD n {}
    p.imageBad (img n).1 (img n).2 || (q.en && Nat.blt q.cap q.occ) || (q.gsrc && !graft n q))
  if bad || !disjointRuns ((qs.filter (fun q => q.en)).map Queue.extent) then none else some qs

/-- Put a queue's window back: data, tags and presence (R264); none where a tag is reserved (R352). -/
def State.putWindow (s : State) (c k n : Nat) (bs : List Byte) : Option State :=
  let q := s.queue c k n
  let tags := (upto q.occ).map (fun o => (bs.getD (q.occ * q.size + o) 0).toNat)
  if !tags.all tagOk then none
  else some ((upto q.occ).foldl (fun (s1 : State) o =>
    s1.fillSlot c k n (q.index o) (tags.getD o 0) (BitVec.ofNat 2048 (ofBytes ((bs.drop (o * q.size)).take q.size)))) s)

/-- The bytes a queue's saved window takes. -/
def Queue.windowSize (q : Queue) : Nat := if q.en && q.occ != 0 then ceilDiv (q.occ * (q.size + 1)) 64 * 64 else 0

/-- Put the windows back in ascending q from VA `va` on. -/
def State.putWindows (s : State) (fn c k va : Nat) : List Nat → Va State
  | [] => .ok s
  | n :: ns =>
    let z := (s.queue c k n).windowSize
    if z == 0 then State.putWindows s fn c k va ns
    else match s.readVA fn va z with
      | (.bad f, _) => .bad f
      | (.wait, _) => .wait
      | (.ok bs, s1) =>
        match s1.putWindow c k n bs with
        | some s2 => State.putWindows s2 fn c k (va + z) ns
        | none => .bad { refusal 0x18 with va := va, addr := va }

/-- Whether the graft fields of a saved source queue name a strand of the task (R352): the save recorded a graft of the queue; GCORE and GSTR
are the place of a strand of the task's panel; and where the graft is not broken, it is the recorded strand and the recorded queue. -/
def Task.graftOk (t : Task) (key p n : Nat) (q : Queue) : Bool :=
  let names := fun (x : Nat × Nat × PStatus) => x.1 == q.gcore && x.2.1 == q.gstr
  t.grafts.any (fun g => g.1 == p && g.2.1 == n
    && (if g.2.2.1 == 0 then t.panel.any names
      else g.2.2.2.1 == q.gq && g.2.2.1 / 64 * 64 == awayCode (key / 2 ^ 18) (t.id key) 0
        && (match t.panel[g.2.2.1 % 64]? with | some x => names x | none => false)))

/-- Restore one strand at (c, k) (R264, R276). -/
def State.restoreStrand (s : State) (key : Nat) (t : Task) (pl : Place) (epoch p c k : Nat) : Va State :=
  let fn := key / 2 ^ 18
  let base := t.save + p * t.ssz * 4096
  let layout := fun (a : Nat) => Va.bad { refusal 0x18 with va := a, addr := a }
  match s.readVA fn base 0x68 with
  | (.bad f, _) => .bad f
  | (.wait, _) => .wait
  | (.ok a, s1) =>
    match s1.readVA fn (base + 0x80) 0x180 with
    | (.bad f, _) => .bad f
    | (.wait, _) => .wait
    | (.ok b, s2) =>
      let tail := dwords b 48
      let x := restoreCtx (dwords a 13) tail
      match restoreQueues pl (t.graftOk key p) (tail.drop 16) with
      | none => layout (base + 0x100)
      | some qs =>
        if !(x.fds.all (fun f => fdValid f.2)) then layout (base + 0x80)
        else
          let regs := (t.regions.filter (fun r => r.1 == p)).map (fun r =>
            (r.2.1, { r.2.2 with blocks := [], closing := none, xfer := none }))
          let s3 := (s2.settle c k pl x epoch).modStrand c k (fun y =>
            { y with queues := numbered 0 qs, regions := regs,
                     flow := { y.flow with trig := if t.trigs.contains p then some 0 else none } })
          State.putWindows s3 fn c k (base + 0x1000) (upto 16)

/-- The banks of a save area as they stood, as far as they can be read (R348). -/
def State.savedBanks (s : State) (fn base : Nat) : List Dword :=
  match s.readVA fn (base + 0xC0) 64 with
  | (.ok bs, _) => (dwords bs 8).map dw
  | _ => List.replicate 8 0

/-- What the kill record of a failed restore says of the strand at a position (R348): its new place, TL 0 as every save records it (R350), the
banks of its save area. -/
def State.heldAt (s : State) (key : Nat) (t : Task) (ks : List (Nat × Nat × Nat)) (p : Nat) : Nat × Nat × List Dword :=
  let x := placedAt ks p
  (coreloc x.1 x.2, 0, s.savedBanks (key / 2 ^ 18) (t.save + p * t.ssz * 4096))

/-- Restore the strands of a panel: the position of the first failure, with what failed. -/
def State.restoreAll (s : State) (key : Nat) (t : Task) (n : Need) (code text r0 c0 epoch : Nat) :
    List (Nat × Nat × Nat) → Nat × Va State
  | [] => (0, .ok s)
  | (p, c, k) :: ks =>
    match s.restoreStrand key t (t.place key code text r0 c0 p n) epoch p c k with
    | .ok s1 => State.restoreAll s1 key t n code text r0 c0 epoch ks
    | r => (p, r)

/-- Ask for the host pages of a save area that are not at hand yet (R272). -/
def State.askSaves (s : State) (key : Nat) (t : Task) : List Nat → State
  | [] => s
  | p :: ps => State.askSaves (s.readVA (key / 2 ^ 18) (t.save + p * t.ssz * 4096) (t.ssz * 4096)).2 key t ps

/-- Join the grafted source queues of a restored panel to their targets (R38); one whose target is gone keeps the place it names (R361). -/
def State.rejoinSources (s : State) (ks : List (Nat × Nat × Nat)) : List (Nat × Nat × Nat × Nat × Nat) → State
  | [] => s
  | (p, q, code, tq, cred) :: gs =>
    let x := placedAt ks p
    let put := fun (core strand : Nat) => s.modQueue x.1 x.2 q (fun d =>
      { d with gcore := core, gstr := strand, gq := tq, gcred := cred, broken := false })
    State.rejoinSources (match s.whither code with
      | .at_ c k => put c k
      | .away => put code 0
      | .gone => s.modQueue x.1 x.2 q (fun d => { d with gcred := 0, broken := true })) ks gs

/-- The resident source queues that name a strand by `code` and queue q as their target. -/
def State.sourcesAway (s : State) (code q : Nat) : List (Nat × Nat × Nat) :=
  s.cores.flatMap (fun x => x.2.strands.flatMap (fun t =>
    (t.2.queues.filter (fun d => d.2.gsrc && !d.2.broken && d.2.gcore == code && d.2.gq == q)).map (fun d => (x.1, t.1, d.1))))

/-- A restored target queue: its source names its new place, and what was held goes out; without a source it is no target (R38, R361). -/
def State.rejoinTarget (s : State) (code c k q : Nat) : State :=
  match s.sourcesAway code q with
  | (sc, sk, sq) :: _ =>
    let s1 := s.modQueue sc sk sq (fun d => { d with gcore := c, gstr := k })
    State.drainGraft s1 sc sk sq (s1.core sc).flight.pends
  | [] =>
    let saved := s.disp.tasks.any (fun p => p.2.st == .saved && p.2.grafts.any (fun g => g.2.2.1 == code && g.2.2.2.1 == q))
    if saved || (s.graftSource c k q).isSome then s else s.modQueue c k q (fun d => { d with gtgt := false })

def State.rejoinTargets (s : State) (fn id : Nat) : List (Nat × Nat × Nat) → State
  | [] => s
  | (p, c, k) :: ks =>
    let qs := (upto 16).filter (fun q => (s.queue c k q).gtgt)
    State.rejoinTargets (qs.foldl (fun (s1 : State) q => s1.rejoinTarget (awayCode fn id p) c k q) s) fn id ks

/-- Put the new places of the restored strands into a panel. -/
def replace (ks : List (Nat × Nat × Nat)) (panel : List (Nat × Nat × PStatus)) : List (Nat × Nat × PStatus) :=
  (numbered 0 panel).map (fun (p, x) =>
    match ks.find? (fun y => y.1 == p) with | some (_, c, k) => (c, k, .cast) | none => x)

/-- The cast-on of a SAVED task (R264); a failure kills it under reason 5 before any strand issues (R352). While a page of its save area is
not at hand it is not cast on (R272). -/
def State.castAgain (s : State) (key : Nat) (t0 : Task) (n : Need) (o : Nat × Nat × Nat) (ks : List (Nat × Nat × Nat)) : Bool × State :=
  let fn := key / 2 ^ 18
  let e := ((s.die o.1).nextEpoch).getD 0
  let code := t0.dw 0 % 2 ^ 12
  let text := match Table.get? s.codes code with | some x => x.textva | none => 0
  match (s.takeEpoch o.1 key e).restoreAll key t0 n code text o.2.1 o.2.2 e ks with
  | (_, .wait) => (false, s.askSaves key t0 (ks.map Prod.fst))
  | (p, .bad f) =>
    (true, s.kill fn (key % 2 ^ 18)
      { reason := 5, cause := f.cause, pos := p, words := some (f.words f.addr), held := some (s.heldAt key t0 ks p) })
  | (_, .ok s1) =>
    let t := { t0 with
      st := .running, castAt := s.env.ns, origin := o, panel := replace ks t0.panel, passed := none, regions := [], grafts := [], trigs := [] }
    (true, ((s1.setTask key t).rejoinSources ks t0.grafts).rejoinTargets fn (t.id key) ks)

end Sys2Proof.Machine
end

