-- ==== Sys2Proof/Machine/Dispatcher.lean ====
section
/-! DEFINITION. The dispatcher (R251-R255), pre-emption and the context save (R37, R38, R262, R263, R351, R404), the ends of strands and
tasks (R114, R265), triggers and phases (R112, R113), bind-off (R266, R402, R403). -/

namespace Sys2Proof.Machine

/-! ### Quiescence (R37) -/

/-- Whether a grafted result of one of the strand's source queues is still on its way. -/
def State.graftsOut (s : State) (c k : Nat) : Bool :=
  (s.strand c k).queues.any (fun (q : Nat × Queue) =>
    q.2.gsrc && !q.2.broken && (s.core q.2.gcore).flight.grafts.any (fun g => g.2.strand == q.2.gstr && g.2.q == q.2.gq))

/-- Whether a strand has quiesced, but for the matrix units (R37, R114): no slot to write, no operation, no access, no read-hold. -/
def State.quiesced (s : State) (c k : Nat) : Bool :=
  let f := (s.core c).flight
  !f.pends.any (fun p => p.2.strand == k) && !f.stores.any (fun p => p.2.strand == k) && !f.touches.any (fun p => p.2.strand == k)
    && !f.holds.any (fun p => p.2.strand == k) && !s.ops.any (fun o => o.2.core == c && o.2.strand == k) && !s.graftsOut c k


/-! ### The ends of strands and tasks -/

/-- The statuses of a panel with one position changed. -/
def setStatus (p : Nat) (st : PStatus) (panel : List (Nat × Nat × PStatus)) : List (Nat × Nat × PStatus) :=
  (numbered 0 panel).map (fun (i, x) => if i == p then (x.1, x.2.1, st) else x)

/-- STRAND_END (R114): a strand that has issued END has quiesced and written its regions back. Its grafts end (R361). -/
def execStrandEnd (core strand : Nat) (s : State) : Host.Outcome State Fault Refusal :=
  let t := s.strand core strand
  let ending := match t.flow.life with | .ending => true | _ => false
  if !ending || !s.quiesced core strand || t.dirtyRegion.isSome then .next s
  else
    let key := taskKey t.place.fn t.place.task
    let s1 := ((s.breakGrafts core strand t.queues).dropRow core strand).modFlight core (fun f => f.dropLinks strand)
    let s2 := (s1.trace core strand 7 (t.place.gen * 2 ^ 18 + t.place.task)).rest core strand
    let s3 := s2.modTask key (fun g => { g with panel := setStatus t.place.pos .ended g.panel })
    let ended := match s3.task? key with
      | some g => g.panel.all (fun p => match p.2.2 with | .ended => true | _ => false)
      | none => false
    .next (if ended then s3.modDie (dieOf core) (fun d => { d with live := d.live.filter (fun e => e.2 != key) }) else s3)

/-- A victim of the blocking task completes or is bound off: the region is fixed again at the next selection (R404). -/
def State.refix (s : State) (t : Task) : State :=
  if t.request.isSome then s.modDisp (fun d => { d with blocking := d.blocking.map (fun b => (b.1, b.2.1, none)) }) else s

/-- TASK_COMPLETE (R265). -/
def execTaskComplete (fn task : Nat) (s : State) : Host.Outcome State Fault Refusal :=
  let key := taskKey fn task
  match s.task? key with
  | none => .next s
  | some t =>
    let ended := t.panel.all (fun p => match p.2.2 with | .ended => true | _ => false)
    if t.st != .running || !ended || t.panel.isEmpty || s.captured key then .next s
    else
      .next (((((s.refix t).satisfy fn (t.id key) false).releaseRefs key).finalWord key 2 0).retire key)

/-- Whether a strand's P, W and matrix accesses of bundles up to `bno` are all performed: its stores, and the vault accesses that
have still to touch their granule. -/
def Flight.settled (f : Flight) (k bno : Nat) : Bool :=
  !f.stores.any (fun p => p.2.strand == k && Nat.ble p.2.bno bno && !p.2.row)
    && !f.touches.any (fun t => t.2.strand == k && Nat.ble t.2.bno bno)

/-- Whether a strand of a panel has triggered and its accesses before its TRIG are performed (R113, R242); an ended one has. -/
def State.trigDone (s : State) (x : Nat × Nat × PStatus) : Bool :=
  match x.2.2 with
  | .cast =>
    (match (s.strand x.1 x.2.1).flow.trig with
    | some n => (s.core x.1).flight.settled x.2.1 n
    | none => false)
  | .ended => true
  | _ => false

/-- TRIGGER (R113, R399): the task has triggered, and its dependants count it as satisfied. -/
def execTrigger (fn task : Nat) (s : State) : Host.Outcome State Fault Refusal :=
  let key := taskKey fn task
  match s.task? key with
  | none => .next s
  | some t =>
    if t.st == .running && !t.fired && !t.panel.isEmpty && t.panel.all s.trigDone && !s.captured key then
      .next ((s.setTask key { t with fired := true }).satisfy fn (t.id key) false)
    else .next s

/-! ### Phases (R112, R384) -/

/-- Whether a strand of a panel has issued its PHASE of this phase, or END, and its accesses before it are performed (R112). Its loads
count among them: an access of the phase takes no write of a later one (R235, R236), and one that is held at a full tag delays
the phase (R385; log entry 22). A strand whose wait in PHASE has expired has issued that PHASE all the same. -/
def State.phaseDone (s : State) (x : Nat × Nat × PStatus) : Bool :=
  match x.2.2 with
  | .cast =>
    let f := (s.strand x.1 x.2.1).flow
    (match f.phases with
      | n :: _ => (s.core x.1).flight.settled x.2.1 n
      | [] => (match f.life with | .ending => true | _ => false) && (s.core x.1).flight.settled x.2.1 f.bno)
  | _ => true

/-- The live strands of a panel go on in the next phase. -/
def State.phaseAll (s : State) (e : Nat) : List (Nat × Nat × PStatus) → State
  | [] => s
  | (c, k, st) :: ps =>
    match st with
    | .cast =>
      let s1 := s.modStrand c k (fun t =>
        let ends := t.flow.wait == .phase && Nat.ble t.flow.phases.length 1
        { t with phaseno := (t.phaseno + 1) % 2 ^ 32, epoch := e,
                 flow := { t.flow with wait := if ends then .none else t.flow.wait, waited := if ends then 0 else t.flow.waited,
                                       phases := t.flow.phases.drop 1 } })
      State.phaseAll (s1.trace c k 6 ((s1.strand c k).phaseno % 2 ^ 32)) e ps
    | _ => State.phaseAll s e ps

/-- PHASE_COMPLETE (R112): the panel takes the next epoch (R384), for which it may have to wait (R386). -/
def execPhaseComplete (fn task : Nat) (s : State) : Host.Outcome State Fault Refusal :=
  let key := taskKey fn task
  match s.task? key with
  | none => .next s
  | some t =>
    let some_ := t.panel.any (fun x => match x.2.2 with | .cast => !(s.strand x.1 x.2.1).flow.phases.isEmpty | _ => false)
    match (s.die t.origin.1).nextEpoch with
    | some e =>
      if t.st == .running && some_ && t.panel.all s.phaseDone then .next ((s.takeEpoch t.origin.1 key e).phaseAll e t.panel) else .next s
    | none => .next s

/-! ### The context save (R262, R263, R351) -/

/-- Whether a live strand's BUDGET is 0 in its kernel loop, so that no pre-emption waits for it (R262). -/
def Strand.spent (t : Strand) : Bool :=
  t.place.budgetRec != 0 && t.ctx.budget == 0 && t.kernel && (match t.flow.life with | .running => true | .holding => true | _ => false)

/-- Whether a strand of a panel is ready to be saved, or has ended. One with a fault due resumes instead (R351), and so does one whose
window holds an orphaned slot (R358). -/
def State.saveReady (s : State) (x : Nat × Nat × PStatus) : Bool :=
  match x.2.2 with
  | .cast =>
    let t := s.strand x.1 x.2.1
    (match t.flow.life with | .holding => true | _ => false) && s.quiesced x.1 x.2.1 && t.dirtyRegion.isNone
      && t.takeable.isNone && !t.orphaned && !t.spent
      && !(s.core x.1).flight.grafts.any (fun g => g.2.strand == x.2.1)
  | _ => true

/-- Write the contexts of a panel, up to the first that cannot be written: its position and what it comes to (R351). -/
def State.saveContexts (s : State) (fn : Nat) (t : Task) : List (Nat × Nat × Nat × PStatus) → Nat × Va Unit × State
  | [] => (0, .ok (), s)
  | (p, c, k, st) :: ps =>
    match st with
    | .cast =>
      let base := t.save + p * t.ssz * 4096
      let img := s.saveImage c k
      let size := 0x1000 + (img.map (fun r => if r.1 == 0x1000 then r.2.length else 0)).foldl (fun a b => a + b) 0
      let top := base + t.ssz * 4096
      if Nat.blt (t.ssz * 4096) size then (p, .bad { refusal 0x1B with va := top, addr := top }, s)
      else match s.writeRuns fn base img with
        | (.ok _, s1) => State.saveContexts s1 fn t ps
        | r => (p, r)
    | _ => State.saveContexts s fn t ps

/-- The source queues of a strand as the save records them, credits under way counted in (R38). -/
def State.sourceRecs (s : State) (p c k : Nat) : List (Nat × Nat × Nat × Nat × Nat) :=
  ((s.strand c k).queues.filter (fun (q : Nat × Queue) => q.2.gsrc)).map (fun (q : Nat × Queue) =>
    let code := if q.2.broken then 0 else if Nat.ble 256 q.2.gcore then q.2.gcore else (s.strand q.2.gcore q.2.gstr).place.away
    (p, q.1, code, q.2.gq, q.2.gcred + (((s.core c).flight.credits.filter (fun g => g.2.strand == k && g.2.q == q.1)).length)))

/-- The resident sources of a strand's target queues name it as not resident (R38). -/
def State.sourcesWait (s : State) (c k : Nat) : List (Nat × Queue) → State
  | [] => s
  | (n, q) :: qs =>
    State.sourcesWait (if q.gtgt then
      match s.graftSource c k n with
      | some (sc, sk, sq) => s.modQueue sc sk sq (fun d => { d with gcore := (s.strand c k).place.away, gstr := 0 })
      | none => s
    else s) c k qs

/-- What the task's entry records of a strand that is saved. -/
def State.recordStrand (s : State) (p c k : Nat) (t : Task) : Task :=
  let x := s.strand c k
  { t with
    grafts := t.grafts ++ s.sourceRecs p c k
    regions := t.regions ++ x.regions.map (fun (r : Nat × Region) => (p, r.1, { r.2 with blocks := [] }))
    trigs := if x.flow.trig.isSome then t.trigs ++ [p] else t.trigs
    panel := setStatus p .saved t.panel }

def State.recordAll (s : State) (t : Task) : List (Nat × Nat × Nat × PStatus) → Task
  | [] => t
  | (p, c, k, .cast) :: ps => State.recordAll s (s.recordStrand p c k t) ps
  | _ :: ps => State.recordAll s t ps

/-- The saved strands leave their cores. -/
def State.leaveAll (s : State) : List (Nat × Nat × PStatus) → State
  | [] => s
  | (c, k, .cast) :: ps =>
    let p := (s.strand c k).place
    let s1 := s.sourcesWait c k (s.strand c k).queues
    State.leaveAll (((s1.modFlight c (fun f => f.drop k)).trace c k 7 (p.gen * 2 ^ 18 + p.task)).idle c k) ps
  | _ :: ps => State.leaveAll s ps

/-- CONTEXT_SAVE (R263): every live strand of the panel holds and has quiesced; each writes its context and the task is SAVED. A
failed write kills it under reason 4, and its record gives the failing VA (R351). While a page of the save area is not at hand the panel
goes on holding (R272). -/
def execContextSave (fn task : Nat) (s : State) : Host.Outcome State Fault Refusal :=
  let key := taskKey fn task
  match s.task? key with
  | none => .next s
  | some t =>
    let some_ := t.panel.any (fun x => match x.2.2 with | .cast => true | _ => false)
    if t.st != .running || t.request.isNone || !some_ || !t.panel.all s.saveReady || s.captured key then .next s
    else match s.saveContexts fn t (numbered 0 t.panel) with
      | (p, .bad f, s1) => .next (s1.kill fn task { reason := 4, cause := f.cause, pos := p, words := some (f.words f.va) })
      | (_, .wait, s1) => .next s1
      | (_, .ok _, s1) =>
        let t1 := s1.recordAll { t with st := .saved, since := s.env.ns, request := none, grafts := [], regions := [], trigs := [] }
          (numbered 0 t.panel)
        let s2 := (s1.leaveAll t.panel).setTask key t1
        .next (s2.modDie t.origin.1 (fun d => { d with live := d.live.filter (fun e => e.2 != key) }))

/-! ### Selection (R251-R254) -/

def State.quantum (s : State) : Nat := s.disp.cfg.toNat / 2 ^ 32 * 1000

/-- Whether a task waits for a panel. -/
def Task.waiting (t : Task) : Bool := match t.st with | .ready => true | .saved => true | _ => false

/-- What a launch block asks of a core; one that breaks R260 asks for a strand only. -/
def needIn (t : Task) (bs : List Byte) : Need :=
  match launchOf t.nstg (dwords bs 64) with
  | some l => l.need
  | none => { mallot := 0, sbase := 0, ssize := 0, extents := [] }

/-- What a waiting task needs of a core, once its launch block is at hand (R272). -/
def State.needOf (s : State) (fn : Nat) (t : Task) : Option Need × State :=
  if t.first then
    match s.readVA fn (t.dw 10) 512 with
    | (.ok bs, s1) => (some (needIn t bs), s1)
    | (.bad _, s1) => (some (needIn t []), s1)
    | (.wait, s1) => (none, s1)
  else (some (needIn t t.launch), s)

/-- Insert by time waited, then index (R253). -/
def insertOldest (x : Nat × Task) : List (Nat × Task) → List (Nat × Task)
  | [] => [x]
  | y :: ys =>
    if Nat.blt x.2.since y.2.since || (x.2.since == y.2.since && Nat.blt x.1 y.1) then x :: y :: ys else y :: insertOldest x ys

/-- The tasks of a function that wait at an effective priority, the longest waiting first. -/
def State.queueAt (s : State) (fn e : Nat) : List (Nat × Task) :=
  ((s.liveEntries fn).filter (fun p => p.2.waiting && s.effPrio p.2 == e && !s.captured p.1)).foldl
    (fun acc p => insertOldest p acc) []

/-- The region kept for the blocking task when another task is placed (R254). -/
def State.keptFor (s : State) (key : Nat) : Option BlockReg :=
  match s.disp.blocking with
  | some (fn, i, b) => if taskKey fn i == key then none else b
  | none => none

/-- The placement of a task: a blocking one takes its own region (R254). -/
def State.placeOf (s : State) (key : Nat) (t : Task) (n : Need) : Option ((Nat × Nat × Nat) × List (Nat × Nat × Nat)) :=
  match s.disp.blocking with
  | some (fn, i, b) =>
    if taskKey fn i == key then
      b.bind (fun r => (s.regionFits t n noneGone r.die r.row r.col).map (fun ks => ((r.die, r.row, r.col), ks)))
    else s.placement t n b
  | none => s.placement t n none

/-- A task that is passed over at effective priority 6 or 7, from when it first is at that priority (R254). -/
def State.passOver (s : State) (key : Nat) (t0 : Task) : State :=
  let t := s.keepPassed t0
  let e := s.effPrio t
  if Nat.ble 6 e && t.passed.isNone then s.setTask key { t with passed := some (s.env.ns, e) } else s

/-- The cast-on of a task at a placement; at the first its checks come before anything else, and a failed one kills it (R260). `false` where
a host page is waited for (R272): a task that a cast-on kills has had its selection (R253, R260, R352). -/
def State.castOn (s : State) (key : Nat) (t : Task) (n : Need) (o : Nat × Nat × Nat) (ks : List (Nat × Nat × Nat)) : Bool × State :=
  let fn := key / 2 ^ 18
  if t.first then
    match s.firstCheck fn t with
    | (.error cause, s1) => (true, s1.kill fn (key % 2 ^ 18) { reason := 6, cause := cause, pos := 0, words := none })
    | (.ok none, s1) => (false, s1)
    | (.ok (some rd), s1) => (true, s1.castFirst key t rd o ks)
  else s.castAgain key t n o ks

/-- Consider one waiting task: cast on where it has a placement, or passed over; `true` when the selection is made. -/
def State.consider (s : State) (key : Nat) (t : Task) : Bool × State :=
  match s.needOf (key / 2 ^ 18) t with
  | (none, s1) => (false, s1)
  | (some n, s1) =>
    match s1.placeOf key t n with
    | some (o, ks) => s1.castOn key t n o ks
    | none => (false, s1.passOver key t)

/-- Consider tasks in turn until one is chosen. -/
def State.considerAll (s : State) : List (Nat × Task) → Bool × State
  | [] => (false, s)
  | (key, t) :: ts =>
    match s.consider key t with
    | (true, s1) => (true, s1)
    | (false, s1) => State.considerAll s1 ts

/-- A cast-on counts for its function at its effective priority (R253). -/
def State.countServed (s : State) (e v : Nat) : State :=
  let slot := e * 65 + v
  let n := Table.getD s.disp.served slot 0 + 1
  s.modDisp (fun d =>
    if n == s.dspfn v % 2 ^ 8 then { d with served := Table.set d.served slot 0, ptr := Table.set d.ptr e ((v + 1) % 65) }
    else { d with served := Table.set d.served slot n })

/-- The turns of one effective priority over the functions (R253): whether one of their tasks is cast on. -/
def State.turns (s : State) (e : Nat) : List Nat → Bool × State
  | [] => (false, s)
  | v :: vs =>
    let weight := s.dspfn v % 2 ^ 8
    let slot := e * 65 + v
    let (hit, s1) := if weight == 0 then (false, s) else s.considerAll (s.queueAt v e)
    if hit then (true, s1.countServed e v)
    else
      State.turns (s1.modDisp (fun d => { d with served := Table.set d.served slot 0, ptr := Table.set d.ptr e ((v + 1) % 65) })) e vs

/-- The priorities from 7 down (R253). -/
def State.levels (s : State) : List Nat → State
  | [] => s
  | e :: es =>
    let p := Table.getD s.disp.ptr e 0
    match s.turns e ((upto 65).map (fun i => (p + i) % 65)) with
    | (true, s1) => s1
    | (false, s1) => State.levels s1 es

/-! ### Blocking tasks and pre-emption requests (R254, R262, R404) -/

/-- Whether a RUNNING task is a victim for H (R254). -/
def State.victim (s : State) (fn : Nat) (h g : Task) : Bool :=
  let eh := s.effPrio h
  let eg := s.effPrio g
  (match g.st with | .running => true | _ => false) && !(g.prio == 7 && fn != 0)
    && (Nat.blt eg eh || (eg == eh && Nat.ble (g.castAt + s.quantum) s.env.ns))

/-- Whether a strand belongs to a victim of H. -/
def State.victimStrand (s : State) (fn : Nat) (h : Task) (t : Strand) : Bool :=
  match s.task? (taskKey t.place.fn t.place.task) with | some g => s.victim fn h g | none => false

/-- The target iteration of a request (R262). -/
def State.targetIter (s : State) (t : Task) : Nat :=
  (t.panel.foldl (fun m x => match x.2.2 with
    | .cast =>
      let y := s.strand x.1 x.2.1
      [0, 1, 2, 3].foldl (fun a i => if lseV (y.lse i) && lseK (y.lse i) then Nat.max a (lseIter (y.lse i)) else a) m
    | _ => m) 0) + 1

/-- Place a request on a task that has none (R262). -/
def State.requestOn (s : State) (key : Nat) : State :=
  match s.task? key with
  | some t => if t.request.isSome then s else s.setTask key { t with request := some (s.targetIter t) }
  | none => s

/-- The victims that hold cores of a region which do not fit H now. -/
def State.victimsIn (s : State) (fn : Nat) (h : Task) (n : Need) (x : Nat × Nat × Nat) : List Nat :=
  (panelCores h x.1 x.2.1 x.2.2).flatMap (fun (p : Nat × Nat) =>
    if (s.coreFits p.2 n (h.savedRuns p.1) noneGone).isSome then []
    else ((s.core p.2).strands.filter (fun t => t.2.live && s.victimStrand fn h t.2)).map (fun t =>
      taskKey t.2.place.fn t.2.place.task))

/-- The requests on the victims of the blocking task in a region. -/
def State.askVictims (s : State) (fn : Nat) (h : Task) (n : Need) (x : Nat × Nat × Nat) : State :=
  (s.victimsIn fn h n x).foldl (fun (s1 : State) k => s1.requestOn k) s

/-- The region of the blocking task and the requests on its victims. -/
def State.fixOn (s : State) (fn i : Nat) (h : Task) (n : Need) : State :=
  match (regionsOf h).find? (fun x => (s.regionFits h n (s.victimStrand fn h) x.1 x.2.1 x.2.2).isSome) with
  | none => s
  | some x =>
    (s.askVictims fn h n x).modDisp (fun d => { d with blocking := some (fn, i, some { die := x.1, row := x.2.1, col := x.2.2, h := h.ph, w := h.pw }) })

/-- Fix the region of the blocking task and place the requests, when a region qualifies (R254). On a region that is fixed, a victim whose
request was withdrawn gets a new one (R262, R351). -/
def State.fixRegion (s : State) : State :=
  match s.disp.blocking with
  | some (fn, i, b) =>
    (match s.task? (taskKey fn i) with
    | none => s
    | some h => match s.needOf fn h with
      | (some n, s1) =>
        (match b with
        | none => s1.fixOn fn i h n
        | some r => s1.askVictims fn h n (r.die, r.row, r.col))
      | (none, s1) => s1)
  | none => s

/-- Withdraw every request (R404). -/
def State.withdrawAll (s : State) : List (Nat × Task) → State
  | [] => s
  | (key, _) :: ts => State.withdrawAll (s.withdraw key) ts

/-- The place of the blocking task is free again once it is cast on; when it leaves READY and SAVED otherwise, or falls below 6, its
requests are withdrawn (R254, R404). -/
def State.checkBlocking (s : State) : State :=
  match s.disp.blocking with
  | none => s
  | some (fn, i, _) =>
    let free := s.modDisp (fun d => { d with blocking := none })
    match s.task? (taskKey fn i) with
    | none => free.withdrawAll s.disp.tasks
    | some t =>
      match t.st with
      | .running => free
      | _ => if t.waiting && Nat.ble 6 (s.effPrio t) && !s.captured (taskKey fn i) then s else free.withdrawAll s.disp.tasks

/-- The position of a strand whose BUDGET is 0 while a request waits (R262). -/
def State.spent (s : State) (t : Task) : Option Nat :=
  if t.request.isNone then none
  else ((numbered 0 t.panel).find? (fun (_, x) => match x.2.2 with
    | .cast =>
      (s.strand x.1 x.2.1).spent
    | _ => false)).map Prod.fst

/-- The kill of a waiting task that can never be placed (R400). -/
def State.unplaceable (s : State) (key : Nat) (t : Task) : State :=
  match s.needOf (key / 2 ^ 18) t with
  | (some n, s1) =>
    if s1.neverFits t n.mallot then
      s1.kill (key / 2 ^ 18) (key % 2 ^ 18)
        { reason := if t.first then 6 else 5, cause := 0x1B, pos := 0, words := if t.first then none else some (0x1B, 0, 0, 0) }
    else s1
  | (none, s1) => s1

/-- The words of a kill under reason 3 of the strand at a panel position: the bundle it issued last and its record's BUDGET (R341, R348). -/
def State.spentWords (s : State) (t : Task) (p : Nat) : Dword × Dword × Dword × Dword :=
  match t.panel[p]? with
  | some (c, k, _) => (0x11, 0, dw (s.strand c k).flow.lastPc, dw (s.strand c k).place.budgetRec)
  | none => (0x11, 0, 0, 0)

/-- The kills a selection makes first: under reason 3 (R262), and of tasks that can never be placed (R400). -/
def State.selectionKills (s : State) : List (Nat × Task) → State
  | [] => s
  | (key, t) :: ts =>
    State.selectionKills (match s.spent t with
      | some p => s.kill (key / 2 ^ 18) (key % 2 ^ 18) { reason := 3, cause := 0x11, pos := p, words := some (s.spentWords t p) }
      | none => if t.waiting && !s.captured key then s.unplaceable key t else s) ts

/-- The blocking task is cast on in the first selection in which its region fits (R254), before any other. -/
def State.castBlocking (s : State) : Bool × State :=
  match s.disp.blocking with
  | some (fn, i, some _) =>
    (match s.task? (taskKey fn i) with
    | some t =>
      if t.waiting && !s.captured (taskKey fn i) && s.dspfn fn % 2 ^ 8 != 0 then
        match s.consider (taskKey fn i) t with
        | (true, s1) => (true, s1.countServed (s.effPrio t) fn)
        | r => r
      else (false, s)
    | none => (false, s))
  | _ => (false, s)

/-- DISPATCHER_SELECTION (R253). -/
def execDispatcherSelection (s : State) : Host.Outcome State Fault Refusal :=
  match ((s.selectionKills s.disp.tasks).checkBlocking.fixRegion).castBlocking with
  | (true, s1) => .next s1
  | (false, s1) => .next (s1.levels [7, 6, 5, 4, 3, 2, 1, 0])

/-- Whether a task qualifies to become blocking (R254). -/
def State.qualifies (s : State) (t : Task) : Bool :=
  t.waiting && Nat.ble 6 (s.effPrio t)
    && (match t.passed with | some p => p.2 == s.effPrio t && Nat.ble (p.1 + s.agi) s.env.ns | none => false)

/-- When a task was first passed over at its effective priority. -/
def Task.passedAt (t : Task) : Nat := match t.passed with | some p => p.1 | none => 0

/-- TASK_BECOMES_BLOCKING (R254): the earliest to qualify takes the one place. -/
def execTaskBecomesBlocking (fn task : Nat) (s : State) : Host.Outcome State Fault Refusal :=
  let key := taskKey fn task
  match s.task? key with
  | some t =>
    let earlier := s.disp.tasks.any (fun p => p.1 != key && s.qualifies p.2 && Nat.blt p.2.passedAt t.passedAt)
    if s.disp.blocking.isNone && s.qualifies t && !earlier && !s.captured key then
      .next (s.modDisp (fun d => { d with blocking := some (fn, task, none) })).fixRegion
    else .next s
  | none => .next s

/-! ### Bind-off (R266, R402, R403) -/

/-- The entries of a subtree breadth-first from a list of keys, without those an earlier bind-off has captured. -/
def State.subtree (s : State) (fn : Nat) : Nat → List Nat → List Nat
  | 0, _ => []
  | _ + 1, [] => []
  | n + 1, key :: ks =>
    match s.task? key with
    | some t =>
      let kids := ((s.liveEntries fn).filter (fun p => p.2.parent == t.id key && p.1 != key && !s.captured p.1)).map Prod.fst
      key :: State.subtree s fn n (ks ++ kids)
    | none => State.subtree s fn n ks

/-- Stop the panels of the captured entries; their requests and saved contexts are gone. -/
def State.stopAll (s : State) : List Nat → State
  | [] => s
  | key :: ks =>
    let s1 := match s.task? key with | some t => s.refix t | none => s
    State.stopAll ((s1.leavePanel key).modTask key (fun t => { t with request := none })) ks

/-- BIND_OFF_STOP (R266 step 1): the capture, and the stop of every strand of the subtree. -/
def execBindOffStop (walk : Nat) (s : State) : Host.Outcome State Fault Refusal :=
  match Table.get? s.disp.walks walk with
  | none => .next s
  | some w =>
    if w.stopped then .next s
    else
      let keys := match s.taskOfId w.fn w.root with
        | some (key, _) => if s.captured key then [] else s.subtree w.fn (s.disp.tasks.length + 1) [key]
        | none => []
      let s1 := s.stopAll keys
      .next (s1.modDisp (fun d => { d with walks := Table.set d.walks walk { w with stopped := true, found := keys } }))

/-- Visit one captured entry: its dependants, its final word, its freeing; and its page list, where it still holds references. -/
def State.visit (s : State) (fn key : Nat) : List (Nat × Nat) × State :=
  match s.task? key with
  | none => ([], s)
  | some t =>
    let s1 := (if t.st == .husk then s else s.satisfy fn (t.id key) true).finalWord key 3 0
    (if t.refs then [(t.plist, t.plen)] else [], match s1.task? key with | some t1 => s1.freeEntry key t1 | none => s1)

/-- Visit the captured entries in order (R266 step 2): how many are freed, and the lists to release. -/
def State.visitAll (s : State) (fn : Nat) : List Nat → Nat × List (Nat × Nat) × State
  | [] => (0, [], s)
  | key :: ks =>
    let live := (s.task? key).isSome
    let (ls, s1) := s.visit fn key
    let (f, ms, s2) := State.visitAll s1 fn ks
    (f + (if live then 1 else 0), ls ++ ms, s2)

/-- Release the references of some lists (R266 step 3): those of the lists that still wait for a host page, and how many were released. -/
def State.releaseLists (s : State) (fn : Nat) : List (Nat × Nat) → List (Nat × Nat) × Nat × State
  | [] => ([], 0, s)
  | (va, n) :: ls =>
    match s.pageListAny fn va n with
    | (none, s1) => ((va, n) :: ls, 0, s1)
    | (some ps, s1) =>
      let (rest, m, s2) := State.releaseLists (s1.lowerRefs ps) fn ls
      (rest, ps.length + m, s2)

/-- A bind-off has ended: its result slot becomes present (R205). -/
def State.endWalk (s : State) (walk : Nat) (w : Walk) (f p : Nat) : State :=
  let s1 := s.modDisp (fun d => { d with walks := Table.erase d.walks walk })
  match w.pend with
  | some id =>
    (match Table.get? (s1.core w.by_.1).flight.pends id with
    | some x =>
      (s1.modFlight w.by_.1 (fun y => { y with pends := Table.set y.pends id { x with val := BitVec.ofNat 2048 (p * 2 ^ 32 + f) } })).at_
        w.by_.1 ((s1.core w.by_.1).cyc + 1) false w.by_.2 (.slotWrite w.by_.1 id)
    | none => s1)
  | none => s1

/-- Step 2 of R266, once. -/
def State.walkEntries (s : State) (w : Walk) : Walk × State :=
  match w.freed with
  | some _ => (w, s)
  | none =>
    let up := match s.taskOfId w.fn w.root with | some (_, t) => t.parent | none => 0
    let (f, ls, s1) := s.visitAll w.fn w.found
    ({ w with freed := some f, lists := ls, found := [] }, s1.freeUp w.fn (s1.disp.tasks.length + 1) up)

/-- BIND_OFF_WALK (R266 steps 2 and 3): the entries are freed, then the references are released, then the result slot becomes present
(R205). A list whose page is not at hand is waited for (R272). -/
def execBindOffWalk (walk : Nat) (s : State) : Host.Outcome State Fault Refusal :=
  match Table.get? s.disp.walks walk with
  | none => .next s
  | some w =>
    if !w.stopped then .next s
    else
      let (w1, s1) := s.walkEntries w
      match s1.releaseLists w.fn w1.lists with
      | ([], n, s2) => .next (s2.endWalk walk w1 (w1.freed.getD 0) (w1.pages + n))
      | (ls, n, s2) =>
        .next ((s2.modDisp (fun d => { d with walks := Table.set d.walks walk { w1 with lists := ls, pages := w1.pages + n } })).at_
          w.by_.1 ((s2.core w.by_.1).cyc + 1) false w.by_.2 (.bindOffWalk walk))

end Sys2Proof.Machine
end

