-- ==== Sys2Proof/Machine/Region.lean ====
section
/-! DEFINITION. Region maps (R190, R273-R275) and residency (R191, R419). -/

namespace Sys2Proof.Machine

/-! ### Regions (R190, R274, R275) -/

/-- The start of a MAPR: the region is bound with every block EMPTY, or its write-back begins (R190, R275). -/
def State.startMapr (s : State) (o : Nat) (e : EngOp) (w va : Nat) : Began :=
  let c := e.core
  let k := e.strand
  let r := fld w 32 4
  let size := fld w 22 10
  let pb := fld w 12 10
  let t := s.strand c k
  let bad := Began.fail s (e.fault 0x18 e.pc 0 0)
  if fld w 36 28 != 0 || fld w 0 12 != 0 || va % 4096 != 0 then bad
  else if Nat.ble (2 ^ 57) va then .fail s (e.fault 0x0A va 0 (spaceBits 2))
  else if size == 0 then
    if pb != 0 then bad
    else match Table.get? t.regions r with
      | none => .go (s.completeIn o e 0)
      | some _ => .go (s.retryOp e true (.regionWriteBack c k r))
  else
    let lo := pb * 4096
    let n := size * 4096
    let clash := (s.core c).strands.any (fun (x : Nat × Strand) =>
      x.2.queues.any (fun (q : Nat × Queue) => q.2.en && overlap lo n q.2.extent.1 q.2.extent.2)
        || x.2.regions.any (fun (y : Nat × Region) => overlap lo n (y.2.pbase * 4096) (y.2.size * 4096)))
    if (Table.get? t.regions r).isSome || clash || Nat.blt lo (t.place.sbase * 2 ^ 16)
        || Nat.blt ((t.place.sbase + t.place.ssize) * 2 ^ 16) (lo + n) then bad
    else
      .go ((s.modStrand c k (fun x => { x with regions := Table.set x.regions r { va := va / 4096, size := size, pbase := pb } })).completeIn
        o e 0)

/-- The unbinding MAPR of a region. -/
def State.unbinder (s : State) (c k r : Nat) : Option (Nat × EngOp) :=
  s.ops.find? (fun p => p.2.core == c && p.2.strand == k && (match p.2.phase with | .working => true | _ => false)
    && (match p.2.kind with | .mapr w _ => fld w 32 4 == r && fld w 22 10 == 0 | _ => false))

/-- Write one DIRTY block back to its VA (R274): an engine access of the strand, here or in another module (R271). -/
def State.blockBack (s : State) (o : Nat) (e : EngOp) (r j : Nat) : Va Unit × State :=
  match Table.get? (s.strand e.core e.strand).regions r with
  | none => (.ok (), s)
  | some x =>
    let va := x.blockVA j
    let keys := (upto 4096).map (fun i => x.blockKey e.core j + i)
    let clean := fun (s : State) => s.setBlock e.core e.strand r j .clean
    match (if s.poison.isEmpty then none else keys.find? (s.opPoison e)) with
    | some p => (.bad (poisonFault va p), s)
    | none =>
      match s.vaSpot e va true with
      | (.wait, s1) => (.wait, s1)
      | (.bad f, s1) => (.bad f, s1)
      | (.ok (.far pod v), s1) =>
        (match s1.farBlock e r x .write pod va v (keys.map (s.opView e)) with
        | (.ok _, s2) => (.ok (), clean s2)
        | (.wait, s2) => (.wait, s2)
        | (.bad f, s2) => (.bad f, s2))
      | (.ok (.here key), s1) =>
        let there := (upto 4096).map (fun i => key + i)
        match (if there.any (s1.opEarly e) then (false, s1) else s1.takeBursts true there) with
        | (false, s2) => (.wait, s2)
        | (true, s2) =>
          match s2.engCells o e (there.zip (keys.map (s.opView e))) with
          | (s3, some p) => (.bad (poisonFault va p), s3)
          | (s3, none) => (.ok (), clean s3)

/-- Write back blocks in order, up to the first that waits or fails: that block. -/
def State.blocksBack (s : State) (o : Nat) (e : EngOp) (r : Nat) : List Nat → Va Unit × Nat × State
  | [] => (.ok (), 0, s)
  | j :: js =>
    match s.blockBack o e r j with
    | (.ok _, s1) => State.blocksBack s1 o e r js
    | (x, s1) => (x, j, s1)

/-- The status word of a write-back that failed: poison in the block itself lies in P (R344). -/
def VaFault.backStatus (f : VaFault) : Nat := if f.cause == 0x16 && f.aux == 0 then 0 else f.status

/-- Whether a region's write-back is called for by the end of its strand or by a save (R274). -/
def Strand.leaving (t : Strand) : Bool := match t.flow.life with | .ending => true | .holding => true | _ => false

/-- The reason of the kill that a failed write-back raises (R346). -/
def Strand.backReason (t : Strand) : Nat := match t.flow.life with | .ending => 7 | _ => 4

/-- A region's DIRTY blocks are written back (R274): for an unbinding MAPR, which then completes or fails with the region bound; at
the end of a strand or at a save, up to a block of another region at a lower VA, where a failure kills the task. -/
def execRegionWriteBack (core strand region : Nat) (s : State) : Host.Outcome State Fault Refusal :=
  let t := s.strand core strand
  match Table.get? t.regions region with
  | none => .next s
  | some x =>
    match s.unbinder core strand region with
    | some (o, e) =>
      (match s.blocksBack o e region x.dirty with
      | (.ok _, _, s1) =>
        .next ((s1.modStrand core strand (fun y => { y with regions := Table.erase y.regions region })).completeIn o e 0)
      | (.wait, _, s1) => .next (s1.retryOp e true (.regionWriteBack core strand region))
      | (.bad f, j, s1) => .next (s1.failOp o (e.fault f.cause f.addr j f.backStatus)))
    | none =>
      if t.leaving then
        (match s.blocksBack 0 (s.strandAccess core strand) region (t.dirtyRun region x) with
        | (.ok _, _, s1) => .next s1
        | (.wait, _, s1) => .next s1
        | (.bad f, _, s1) =>
          .next (s1.kill t.place.fn t.place.task
            { reason := t.backReason, cause := f.cause, pos := t.place.pos, words := some (f.words f.addr) }))
      else .next s

/-- The fill that a strand's next bundle waits for, and whether a store needs it (R273). -/
def State.fillWanted (s : State) (c k : Nat) : Option (Nat × Nat × Bool) :=
  match s.nextBundle c k with
  | .error _ => none
  | .ok (ws, b) =>
    let s1 := s.withWords c k ws
    match s1.admission c k b with
    | .held (some _) =>
      (Bundle.uses b).findSome? (fun u =>
        (s1.accessOf c k u (s1.opdsOf c k u)).bind (fun a => ((s.strand c k).fillFor a).map (fun r => (r.1, r.2, a.store))))
    | _ => none

/-- A block is filled for the strand's next bundle (R273): it becomes CLEAN, or ABSENT, or the fill leaves its fault. -/
def execRegionFill (core strand region block : Nat) (s : State) : Host.Outcome State Fault Refusal :=
  match s.fillWanted core strand with
  | some (r, j, store) =>
    if (s.strand core strand).atBundle && r == region && j == block then
      match s.fillBlock (s.strandAccess core strand) r j store with
      | (.ok _, s1) => .next s1
      | (.wait, s1) => .next s1
      | (.bad f, s1) =>
        .next (s1.modFlow core strand (fun x => { x with fills := x.fills ++ [(r, j, f.nr, s.inPlace core strand f.cause f.addr (f.aux % 2 ^ 6))] }))
    else .next s
  | none => .next s

/-! ### Residency (R191, R419) -/

/-- The 256 KiB pages that a range touches, as page bases. -/
def pagesOf (va len : Nat) : List Nat := (upto ((va + len - 1) / 2 ^ 18 - va / 2 ^ 18 + 1)).map (fun i => (va / 2 ^ 18 + i) * 2 ^ 18)

/-- What MAPREQ finds of a page: resident, not resident in the module, a wait for the host, or a failure. -/
inductive PageFind
  | here | posted | waiting | bad (f : VaFault)
deriving DecidableEq, Repr

/-- The leaf of a page of a range, on this module (R18): a page that this module cannot make resident fails, with the page's VA. -/
def State.pageLeaf (s : State) (d fn va : Nat) : Except VaFault (Nat × Nat) × State :=
  let page := va / 2 ^ 18 * 2 ^ 18
  let bad := fun (cause aux : Nat) => Except.error { cause := cause, va := page, addr := page, aux := aux }
  let here := fun (v : Nat) =>
    match s.leafOf d fn v with
    | (.leaf pte l, s1) => (Except.ok (pte, l), s1)
    | (.bad l, s1) => (bad 0x0A l, s1)
    | (.poison k, s1) => (Except.error (poisonFault page k), s1)
  match s.domain va with
  | .local v => here v
  | .home v => here v
  | .remote _ _ => (bad 0x0A 0, s)
  | .absent => (bad 0x14 0, s)
  | .bad => (bad 0x0A 0, s)

/-- Look at one page, by its first byte in the range. -/
def State.lookPage (s : State) (d fn va : Nat) : PageFind × State :=
  match s.pageLeaf d fn va with
  | (.error f, s1) => (.bad f, s1)
  | (.ok (pte, l), s1) =>
    if fld pte 62 2 == 2 && bit pte 61 then
      match s1.hostLeaf fn (leafAddr pte l (s1.localVA va)) l false with
      | (x, s2) =>
        match x.va (va / 2 ^ 12 * 2 ^ 12) with
        | .ok _ => (.here, s2)
        | .wait => (.waiting, s2)
        | .bad f => (.bad f, s2)
    else if bit pte 61 then (.here, s1) else (.posted, s1)

def State.lookPages (s : State) (d fn : Nat) : List Nat → List (Nat × PageFind) × State
  | [] => ([], s)
  | v :: vs =>
    let (x, s1) := s.lookPage d fn v
    let (xs, s2) := State.lookPages s1 d fn vs
    ((v, x) :: xs, s2)

/-- The failure of the first page whose walk fails for another reason than RES = 0 (R419). -/
def State.walkFails (s : State) (d fn : Nat) : List Nat → Option (Nat × VaFault)
  | [] => none
  | v :: vs =>
    match (s.pageLeaf d fn v).1 with
    | .error f => some (v, f)
    | .ok _ => State.walkFails s d fn vs

/-- The addresses whose residency MAPREQ asks for: one for each page of the module, one for each host page. -/
def State.askedPages (s : State) (d fn va len : Nat) : List Nat :=
  (pagesOf va len).flatMap (fun p =>
    let lo := Nat.max p va
    let hi := Nat.min (p + 2 ^ 18) (va + len)
    match (s.pageLeaf d fn lo).1 with
    | .ok (pte, _) => if fld pte 62 2 == 2 then (upto ((hi - 1) / 4096 - lo / 4096 + 1)).map (fun i => Nat.max lo ((lo / 4096 + i) * 4096)) else [lo]
    | .error _ => [lo])

/-- Post residency requests to the function's driver on MSI-X vector 1 (R315, R316), once for each page of the operation, while RESQ
has room. -/
def State.postRes (s : State) (o fn : Nat) : List Nat → State
  | [] => s
  | v :: vs =>
    if Nat.ble 256 (s.fnHost fn).resq.length then s
    else
      let s1 := s.modFnHost fn (fun h => { h with resq := h.resq ++ [s.localVA v / 2 ^ 18 * 2 ^ 18] })
      State.postRes ((s1.msix fn 1).modOp o (fun x => { x with vals := x.vals ++ [(v, 1)] })) o fn vs

/-- MAPREQ at its start and while it waits (R191, R419): every page is walked; then what is not resident is asked for. -/
def State.mapreq (s : State) (o : Nat) (e : EngOp) (va len : Nat) : Began :=
  if len == 0 || Nat.blt (2 ^ 40) len then .fail s (e.fault 0x18 e.pc 0 0)
  else
    let d := dieOf e.core
    let fail := fun (s : State) (v : Nat) (f : VaFault) => Began.fail s (e.fault f.cause f.addr (v / 2 ^ 18 - va / 2 ^ 18) f.status)
    match s.walkFails d e.fn ((pagesOf va len).map (fun p => Nat.max p va)) with
    | some (v, f) => fail s v f
    | none =>
      let (xs, s1) := s.lookPages d e.fn (s.askedPages d e.fn va len)
      match xs.findSome? (fun p => match p.2 with | .bad f => some (p.1, f) | _ => none) with
      | some (v, f) => fail s1 v f
      | none =>
        if xs.all (fun p => p.2 == .here) then .go (s1.completeIn o e 0)
        else
          let new := (xs.filter (fun p => p.2 == .posted && !e.vals.any (fun q => q.1 == p.1))).map Prod.fst
          .wait (s1.postRes o e.fn new)

end Sys2Proof.Machine
end

