-- ==== Sys2Proof/Machine/Vector.lean ====
section
/-! DEFINITION. The V slot (R54, R55, R125-R143). -/

namespace Sys2Proof.Machine

/-- A vector result: its tag and its 2,048 bits. -/
abbrev VRes := Nat × Nat

def State.appendVector (s : State) (f : Fields) (r : VRes) (lat : Nat) : State :=
  s.appendTo f.dst.toNat r.1 (BitVec.ofNat 2048 r.2) lat

/-- The effect of a syllable that computes one result from A, B and C. -/
def vectorEff (f : Fields) (lat : Nat) (g : Strand → Opd → Opd → Opd → VRes) (s : State) : State :=
  s.appendVector f (g s.me (s.opd f.a) (s.opd f.b) (s.opd f.c)) lat

/-! ### Floating point (R128, R129) -/

/-- One lane from the lanes of A, B and C. -/
def zip3 (g : Nat → Nat → Nat → Nat) (xs ys zs : List Nat) : List Nat :=
  (xs.zip (ys.zip zs)).map (fun p => g p.1 p.2.1 p.2.2)

/-- A lane-wise floating-point result: bits to bits in one format. -/
def fpMap (t : FFmt) (g : IEEE → Nat → Nat → Nat → Nat) (a b c : Opd) : VRes :=
  let f := FFmt.ieee t
  (fmtTag t, ofLanes f.width (zip3 (g f) (a.lanes f.width) (b.lanes f.width) (c.lanes f.width)))

/-- A lane-wise exact result, rounded once (R128). -/
def fpExact (t : FFmt) (f : Fields) (g : RM → XVal → XVal → XVal → XVal) (_ : Strand) (a b c : Opd) : VRes :=
  let rm := RM.ofMod (f.m 0 2)
  fpMap t (fun x p q r => x.round rm (g rm (x.value p) (x.value q) (x.value r))) a b c

/-- A lane-wise function of R128 that is rounded as it is formed. -/
def fpFun (t : FFmt) (f : Fields) (g : IEEE → RM → XVal → XVal → Nat) (_ : Strand) (a b c : Opd) : VRes :=
  let rm := RM.ofMod (f.m 0 2)
  fpMap t (fun x p q _ => g x rm (x.value p) (x.value q)) a b c

/-- A lane-wise function of bits (R129). -/
def fpBits (t : FFmt) (g : IEEE → Nat → Nat → Nat) (_ : Strand) (a b c : Opd) : VRes := fpMap t (fun x p q _ => g x p q) a b c

def xAdd (rm : RM) (a b _ : XVal) : XVal := sumX rm [a, b]
def xSub (rm : RM) (a b _ : XVal) : XVal := sumX rm [a, b.neg]
def xMul (_ : RM) (a b _ : XVal) : XVal := mulX a b
def xFma (rm : RM) (a b c : XVal) : XVal := sumX rm [mulX a b, c]
def xFms (rm : RM) (a b c : XVal) : XVal := sumX rm [mulX a b, c.neg]
def xFnma (rm : RM) (a b c : XVal) : XVal := sumX rm [(mulX a b).neg, c]
def fDiv (f : IEEE) (rm : RM) (a b : XVal) : Nat := divX f rm a b
def fSqrt (f : IEEE) (rm : RM) (a _ : XVal) : Nat := sqrtX f rm a
def fRcp (f : IEEE) (rm : RM) (a _ : XVal) : Nat := divX f rm (.fin false 1 0) a
def fRsq (f : IEEE) (rm : RM) (a _ : XVal) : Nat := rsqrtX f rm a
def fExp2 (f : IEEE) (rm : RM) (a _ : XVal) : Nat := exp2X f rm a
def fLog2 (f : IEEE) (rm : RM) (a _ : XVal) : Nat := log2X f rm a
def clearSign (f : IEEE) (a _ : Nat) : Nat := a % 2 ^ (f.eb + f.mb)
def flipSign (f : IEEE) (a _ : Nat) : Nat := if bit a (f.eb + f.mb) then a - 2 ^ (f.eb + f.mb) else a + 2 ^ (f.eb + f.mb)

/-- The latency of a row of R127 whose F64 form is slower. -/
def slowF64 (t : FFmt) (n m : Nat) : Nat := if t == .f64 then m else n

/-! ### Masks and compares (R130-R134) -/

/-- A mask in a vector slot (R51). -/
def maskRes (m : Nat) : VRes := (0x0D, m % 2 ^ 64)

def fcmpRes (t : FFmt) (f : Fields) (_ : Strand) (a b _ : Opd) : VRes :=
  let x := FFmt.ieee t
  maskRes (compareMask (((a.lanes x.width).zip (b.lanes x.width)).map (fun p => fcmpHolds (f.m 3 4) (x.value p.1) (x.value p.2))))

def fclassRes (t : FFmt) (_ : Strand) (a _ _ : Opd) : VRes :=
  let x := FFmt.ieee t
  (match t with | .f16 | .bf16 => 6 | .f32 => 7 | .f64 => 8, ofLanes x.width ((a.lanes x.width).map (fun v => 2 ^ classBit x v)))

def mandRes (_ : Strand) (a b _ : Opd) : VRes := maskRes (dw a.val &&& dw b.val).toNat
def morRes (_ : Strand) (a b _ : Opd) : VRes := maskRes (dw a.val ||| dw b.val).toNat
def mnotRes (_ : Strand) (a _ _ : Opd) : VRes := maskRes (~~~(dw a.val)).toNat
def mpopcRes (_ : Strand) (a _ _ : Opd) : VRes := (8, popcount 64 a.u)

/-- The tag two sources share; RAW when both are literals (R63). -/
def sharedTag (a b : Opd) : Nat := if a.lit then (if b.lit then 0 else b.tag) else a.tag

def vselRes (s : Strand) (a b c : Opd) : VRes :=
  let g := sharedTag a b
  let w := s.laneBits g
  let n := 2048 / w
  (g, ofLanes w ((numbered 0 ((a.lanes w).zip (b.lanes w))).map (fun p => if maskLane c.u n p.1 then p.2.1 else p.2.2)))

/-! ### Integers (R135) -/

/-- An n-bit lane read by the type's signedness. -/
def iRead (t : ITy) (v : Nat) : Int := if itySigned t then sval (ityBits t) v else ((v % 2 ^ ityBits t : Nat) : Int)

/-- An exact result brought into the type: wrapped, or with SAT saturated. -/
def iFit (t : ITy) (sat : Bool) (x : Int) : Nat :=
  wrap (ityBits t) (if sat then satInt x (tagMin (ityTag t)) (tagMax (ityTag t)) else x)

/-- A lane-wise function of n-bit patterns. -/
def intMap (t : ITy) (tag : Nat) (g : Nat → Nat → Nat → Nat) (a b c : Opd) : VRes :=
  let w := ityBits t
  (tag, ofLanes w (zip3 g (a.lanes w) (b.lanes w) (c.lanes w)))

/-- A lane-wise exact function of the lanes as read in the type. -/
def intExact (t : ITy) (f : Fields) (g : Int → Int → Int → Int) (_ : Strand) (a b c : Opd) : VRes :=
  intMap t (ityTag t) (fun x y z => iFit t (f.m 2 1 == 1) (g (iRead t x) (iRead t y) (iRead t z))) a b c

def iAdd (x y _ : Int) : Int := x + y
def iSub (x y _ : Int) : Int := x - y
def iMul (x y _ : Int) : Int := x * y
def iMad (x y z : Int) : Int := x * y + z
def iMin (x y _ : Int) : Int := if x ≤ y then x else y
def iMax (x y _ : Int) : Int := if x ≤ y then y else x

/-- A lane-wise function of the n bits of A and B. -/
def intBitsOp (t : ITy) (g : Nat → Nat → Nat) (_ : Strand) (a b c : Opd) : VRes :=
  intMap t (ityTag t) (fun x y _ => g x y % 2 ^ ityBits t) a b c

def imulhLane (t : ITy) (x y : Nat) : Nat := wrap (ityBits t) (iRead t x * iRead t y / ((2 ^ ityBits t : Nat) : Int))
def ishlLane (t : ITy) (x y : Nat) : Nat := x * 2 ^ (y % ityBits t)
def ishrLane (t : ITy) (x y : Nat) : Nat := x / 2 ^ (y % ityBits t)
def isarLane (t : ITy) (x y : Nat) : Nat := wrap (ityBits t) (sval (ityBits t) x / ((2 ^ (y % ityBits t) : Nat) : Int))

/-- IAND, IOR, IXOR: RAW when either source is RAW. -/
def logicLanes (t : ITy) (g : Nat → Nat → Nat) (_ : Strand) (a b c : Opd) : VRes :=
  let raw := (!a.lit && a.tag == 0) || (!b.lit && b.tag == 0)
  intMap t (if raw then 0 else ityTag t) (fun x y _ => g x y) a b c

def icmpRes (t : ITy) (f : Fields) (_ : Strand) (a b _ : Opd) : VRes :=
  let w := ityBits t
  maskRes (compareMask (((a.lanes w).zip (b.lanes w)).map (fun p => icmpHolds (f.m 3 4) (iRead t p.1) (iRead t p.2))))

/-! ### Conversions (R136-R138) -/

/-- The fd image a narrow tag names for a strand (R49). -/
def Strand.fdOf (s : Strand) (tag : Nat) : Nat := s.fd (tag - 0x10)

def cvtRes (f : Fields) (s : Strand) (a _ _ : Opd) : VRes :=
  let g := f.m 3 6
  let xs := a.lanes (s.laneBits a.tag)
  let n := 2048 / tagLane true g
  (g, ofLanes (tagLane true g) ((xs.take n).map (convert (s.fdOf a.tag) a.tag g (RM.ofMod (f.m 0 2)) (f.m 2 1 == 1))))

def cvtnRes (f : Fields) (s : Strand) (a _ _ : Opd) : VRes :=
  let n := f.m 3 4
  let d := s.fd n
  let w := if bit d 13 then 8 else 4
  let xs := (a.lanes (s.laneBits a.tag)).take (2048 / w)
  (0x10 + n, ofLanes w (xs.map (fun v =>
    NarrowFmt.cvtn (NarrowFmt.ofImage d) (RM.ofMod (f.m 0 2)) (elemValue (s.fdOf a.tag) a.tag v))))

/-- The tag at half the width (R138). -/
def halfTag (bf : Bool) (t : Nat) : Nat := if t == 0x0B then (if bf then 0x0A else 9) else if t == 0x0C then 0x0B else t - 1

/-- The tag at twice the width (R138). -/
def wideTag (t : Nat) : Nat := if t == 9 || t == 0x0A then 0x0B else if t == 0x0B then 0x0C else t + 1

def packRes (f : Fields) (_ : Strand) (a b _ : Opd) : VRes :=
  let g := sharedTag a b
  let h := halfTag (f.m 4 1 == 1) g
  let w := tagLane true g
  (h, ofLanes (w / 2) ((a.lanes w ++ b.lanes w).map (convert 0 g h .rne (f.m 3 1 == 1))))

def unpackRes (f : Fields) (_ : Strand) (a _ _ : Opd) : VRes :=
  let h := wideTag a.tag
  let w := tagLane true a.tag
  let n := 2048 / w / 2
  (h, ofLanes (2 * w) ((((a.lanes w).drop (f.m 3 1 * n)).take n).map (convert 0 a.tag h .rne false)))

/-! ### Data movement (R139-R141) -/

/-- Lane i of a list of lanes. -/
def lane (xs : List Nat) (i : Nat) : Nat := xs.getD i 0

def vbcastEff (f : Fields) (s : State) : State :=
  let a := s.opd f.a
  let vec := !f.a.isLit && ((s.core s.bundle.core).win s.bundle.strand f.a.qsel.toNat).wide
  let t := if a.lit then 4 else a.tag
  let r : VRes :=
    if t == 0x0D then maskRes a.u
    else if vec then
      let w := s.me.laneBits t
      (t, ofLanes w (List.replicate (2048 / w) (lane (a.lanes w) (f.m 1 9 % (2048 / w)))))
    else
      let w := if t == 0 then 64 else s.me.laneBits t
      (t, ofLanes w (List.replicate (2048 / w) (a.u % 2 ^ w)))
  s.appendVector f r 2

def vpermRes (s : Strand) (a b _ : Opd) : VRes :=
  let w := s.laneBits a.tag
  let xs := a.lanes w
  (a.tag, ofLanes w ((b.lanes w).map (fun i => lane xs (i % (2048 / w)))))

def vshufRes (f : Fields) (s : Strand) (a b _ : Opd) : VRes :=
  let g := sharedTag a b
  let w := s.laneBits g
  let n := 2048 / w
  let h := n / 2
  let xs := a.lanes w
  let ys := b.lanes w
  let pick := fun (i : Nat) =>
    match f.m 3 2 with
    | 0 => lane (if i % 2 == 0 then xs else ys) (i / 2)
    | 1 => lane (if i % 2 == 0 then xs else ys) (h + i / 2)
    | 2 => if i < h then lane xs (2 * i) else lane ys (2 * (i - h))
    | _ => if i < h then lane xs (2 * i + 1) else lane ys (2 * (i - h) + 1)
  (g, ofLanes w ((upto n).map pick))

def vrotRes (s : Strand) (a b _ : Opd) : VRes :=
  let w := s.laneBits a.tag
  let n := 2048 / w
  let k := b.u % n
  let xs := a.lanes w
  (a.tag, ofLanes w (xs.drop k ++ xs.take k))

def vextRes (s : Strand) (a b _ : Opd) : VRes :=
  let w := s.laneBits a.tag
  (a.tag, extendElem (w == 8) a.tag (lane (a.lanes w) (b.u % (2048 / w))))

def vinsRes (s : Strand) (a b c : Opd) : VRes :=
  let w := s.laneBits a.tag
  (a.tag, ofLanes w ((a.lanes w).set (b.u % (2048 / w)) (c.u % 2 ^ w)))

/-! ### Reductions and scans (R54, R55, R142, R143) -/

/-- One level of the tree of R54. -/
def treeLevel {α : Type} (g : α → α → α) : List α → List α
  | x :: y :: xs => g x y :: treeLevel g xs
  | xs => xs

/-- The tree of R54 over at most 2^n lanes. -/
def treeReduce {α : Type} (g : α → α → α) : Nat → List α → List α
  | 0, xs => xs
  | n + 1, xs => treeReduce g n (treeLevel g xs)

/-- The reductions. -/
inductive RedOp
  | sum | max | min
deriving DecidableEq, Repr

/-- A node on bits of an IEEE format: a sum rounded by rm, or R129. -/
def fpNode (op : RedOp) (f : IEEE) (rm : RM) (x y : Nat) : Nat :=
  match op with
  | .sum => f.round rm (sumX rm [f.value x, f.value y])
  | .max => maxBits f x y
  | .min => minBits f x y

def intNode (op : RedOp) (x y : Int) : Int :=
  match op with
  | .sum => x + y
  | .max => if x ≤ y then y else x
  | .min => if x ≤ y then x else y

/-- The tag and format of the nodes: FP16 and BF16 lanes are widened to FP32. -/
def nodeTag (t : Nat) : Nat := if t == 9 || t == 0x0A then 0x0B else t

/-- A lane as a node of its tag. -/
def nodeBits (t v : Nat) : Nat := if nodeTag t == t then v else fp32.round .rne ((ieeeOf t).value v)

/-- Wrap or saturate an integer root or prefix into a tag (R54, R143). -/
def fitTag (t : Nat) (sat : Bool) (x : Int) : Nat :=
  wrap (intBits t) (if sat then (if t == 0x0E then satCtr x else satInt x (tagMin t) (tagMax t)) else x)

def reduceRes (op : RedOp) (f : Fields) (s : Strand) (a _ _ : Opd) : VRes :=
  let t := a.tag
  let xs := a.lanes (s.laneBits t)
  if tIeee t then
    (nodeTag t, lane (treeReduce (fpNode op (ieeeOf (nodeTag t)) (RM.ofMod (f.m 0 2))) 8 (xs.map (nodeBits t))) 0)
  else
    let r := if t == 0x0E then 3 else t
    let v := (treeReduce (intNode op) 8 (xs.map (fun v => (elemValue 0 t v).smant))).getD 0 0
    (r, extendElem true r (fitTag r (op == .sum && f.m 2 1 == 1) v))

/-- The inclusive prefixes of a list (R55). -/
def prefixes {α : Type} (g : α → α → α) : Option α → List α → List α
  | _, [] => []
  | none, x :: xs => x :: prefixes g (some x) xs
  | some a, x :: xs => g a x :: prefixes g (some (g a x)) xs

/-- Bits of a format with a NaN made canonical (R41). -/
def IEEE.quiet (f : IEEE) (v : Nat) : Nat := if (f.value v).isNan then f.canonNan else v

/-- VSCAN (R143). DESIGN CHOICE (log entry 44): a NaN in lane 0 of FP32 or FP64 lanes becomes the canonical NaN of R41, which names VSCAN
among no exception, though R55 assigns out[0] the lane as it stands. -/
def vscanRes (f : Fields) (s : Strand) (a _ _ : Opd) : VRes :=
  let t := a.tag
  let w := s.laneBits t
  let xs := a.lanes w
  let op := match f.m 3 2 with | 0 => RedOp.sum | 1 => .max | _ => .min
  let rm := RM.ofMod (f.m 0 2)
  if tIeee t then
    let ys := prefixes (fpNode op (ieeeOf (nodeTag t)) rm) none (xs.map (fun v => (ieeeOf (nodeTag t)).quiet (nodeBits t v)))
    (t, ofLanes w (if nodeTag t == t then ys else ys.map (fun v => (ieeeOf t).round rm (fp32.value v))))
  else
    (t, ofLanes w ((prefixes (intNode op) none (xs.map (fun v => (elemValue 0 t v).smant))).map (fitTag t (f.m 2 1 == 1))))

/-! ### Meanings -/

/-- R128. -/
def execFadd (t : FFmt) (f : Fields) (s : State) : Host.Outcome State Fault Refusal :=
  issueOne (.fadd t f) (vectorEff f 4 (fpExact t f xAdd)) s
/-- R128. -/
def execFsub (t : FFmt) (f : Fields) (s : State) : Host.Outcome State Fault Refusal :=
  issueOne (.fsub t f) (vectorEff f 4 (fpExact t f xSub)) s
/-- R128. -/
def execFmul (t : FFmt) (f : Fields) (s : State) : Host.Outcome State Fault Refusal :=
  issueOne (.fmul t f) (vectorEff f 4 (fpExact t f xMul)) s
/-- R128. -/
def execFfma (t : FFmt) (f : Fields) (s : State) : Host.Outcome State Fault Refusal :=
  issueOne (.ffma t f) (vectorEff f 4 (fpExact t f xFma)) s
/-- R128. -/
def execFfms (t : FFmt) (f : Fields) (s : State) : Host.Outcome State Fault Refusal :=
  issueOne (.ffms t f) (vectorEff f 4 (fpExact t f xFms)) s
/-- R128. -/
def execFnma (t : FFmt) (f : Fields) (s : State) : Host.Outcome State Fault Refusal :=
  issueOne (.fnma t f) (vectorEff f 4 (fpExact t f xFnma)) s
/-- R129. -/
def execFmin (t : FFmt) (f : Fields) (s : State) : Host.Outcome State Fault Refusal :=
  issueOne (.fmin t f) (vectorEff f 2 (fpBits t minBits)) s
/-- R129. -/
def execFmax (t : FFmt) (f : Fields) (s : State) : Host.Outcome State Fault Refusal :=
  issueOne (.fmax t f) (vectorEff f 2 (fpBits t maxBits)) s
/-- R129. -/
def execFabs (t : FFmt) (f : Fields) (s : State) : Host.Outcome State Fault Refusal :=
  issueOne (.fabs t f) (vectorEff f 2 (fpBits t clearSign)) s
/-- R129. -/
def execFneg (t : FFmt) (f : Fields) (s : State) : Host.Outcome State Fault Refusal :=
  issueOne (.fneg t f) (vectorEff f 2 (fpBits t flipSign)) s
/-- R128. -/
def execFdiv (t : FFmt) (f : Fields) (s : State) : Host.Outcome State Fault Refusal :=
  issueOne (.fdiv t f) (vectorEff f (slowF64 t 12 20) (fpFun t f fDiv)) s
/-- R128. -/
def execFsqrt (t : FFmt) (f : Fields) (s : State) : Host.Outcome State Fault Refusal :=
  issueOne (.fsqrt t f) (vectorEff f (slowF64 t 12 20) (fpFun t f fSqrt)) s
/-- R128. -/
def execFrcp (t : FFmt) (f : Fields) (s : State) : Host.Outcome State Fault Refusal :=
  issueOne (.frcp t f) (vectorEff f (slowF64 t 8 16) (fpFun t f fRcp)) s
/-- R128. -/
def execFrsq (t : FFmt) (f : Fields) (s : State) : Host.Outcome State Fault Refusal :=
  issueOne (.frsq t f) (vectorEff f (slowF64 t 8 16) (fpFun t f fRsq)) s
/-- R128. -/
def execFexp2 (t : FFmt) (f : Fields) (s : State) : Host.Outcome State Fault Refusal :=
  issueOne (.fexp2 t f) (vectorEff f (slowF64 t 10 18) (fpFun t f fExp2)) s
/-- R128. -/
def execFlog2 (t : FFmt) (f : Fields) (s : State) : Host.Outcome State Fault Refusal :=
  issueOne (.flog2 t f) (vectorEff f (slowF64 t 10 18) (fpFun t f fLog2)) s
/-- R131. -/
def execFcmp (t : FFmt) (f : Fields) (s : State) : Host.Outcome State Fault Refusal :=
  issueOne (.fcmp t f) (vectorEff f 2 (fcmpRes t f)) s
/-- R132. -/
def execFclass (t : FFmt) (f : Fields) (s : State) : Host.Outcome State Fault Refusal :=
  issueOne (.fclass t f) (vectorEff f 2 (fclassRes t)) s
/-- R135. -/
def execIadd (t : ITy) (f : Fields) (s : State) : Host.Outcome State Fault Refusal :=
  issueOne (.iadd t f) (vectorEff f 2 (intExact t f iAdd)) s
/-- R135. -/
def execIsub (t : ITy) (f : Fields) (s : State) : Host.Outcome State Fault Refusal :=
  issueOne (.isub t f) (vectorEff f 2 (intExact t f iSub)) s
/-- R135. -/
def execImul (t : ITy) (f : Fields) (s : State) : Host.Outcome State Fault Refusal :=
  issueOne (.imul t f) (vectorEff f 4 (intExact t f iMul)) s
/-- R135. -/
def execImulh (t : ITy) (f : Fields) (s : State) : Host.Outcome State Fault Refusal :=
  issueOne (.imulh t f) (vectorEff f 4 (intBitsOp t (imulhLane t))) s
/-- R135. -/
def execImad (t : ITy) (f : Fields) (s : State) : Host.Outcome State Fault Refusal :=
  issueOne (.imad t f) (vectorEff f 4 (intExact t f iMad)) s
/-- R135. -/
def execIand (t : ITy) (f : Fields) (s : State) : Host.Outcome State Fault Refusal :=
  issueOne (.iand t f) (vectorEff f 2 (logicLanes t (fun x y => x &&& y))) s
/-- R135. -/
def execIor (t : ITy) (f : Fields) (s : State) : Host.Outcome State Fault Refusal :=
  issueOne (.ior t f) (vectorEff f 2 (logicLanes t (fun x y => x ||| y))) s
/-- R135. -/
def execIxor (t : ITy) (f : Fields) (s : State) : Host.Outcome State Fault Refusal :=
  issueOne (.ixor t f) (vectorEff f 2 (logicLanes t (fun x y => x ^^^ y))) s
/-- R135. -/
def execIshl (t : ITy) (f : Fields) (s : State) : Host.Outcome State Fault Refusal :=
  issueOne (.ishl t f) (vectorEff f 2 (intBitsOp t (ishlLane t))) s
/-- R135. -/
def execIshr (t : ITy) (f : Fields) (s : State) : Host.Outcome State Fault Refusal :=
  issueOne (.ishr t f) (vectorEff f 2 (intBitsOp t (ishrLane t))) s
/-- R135. -/
def execIsar (t : ITy) (f : Fields) (s : State) : Host.Outcome State Fault Refusal :=
  issueOne (.isar t f) (vectorEff f 2 (intBitsOp t (isarLane t))) s
/-- R135. -/
def execImin (t : ITy) (f : Fields) (s : State) : Host.Outcome State Fault Refusal :=
  issueOne (.imin t f) (vectorEff f 2 (intExact t f iMin)) s
/-- R135. -/
def execImax (t : ITy) (f : Fields) (s : State) : Host.Outcome State Fault Refusal :=
  issueOne (.imax t f) (vectorEff f 2 (intExact t f iMax)) s
/-- R131. -/
def execIcmp (t : ITy) (f : Fields) (s : State) : Host.Outcome State Fault Refusal :=
  issueOne (.icmp t f) (vectorEff f 2 (icmpRes t f)) s
/-- R136. -/
def execCvt (f : Fields) (s : State) : Host.Outcome State Fault Refusal :=
  issueOne (.cvt f) (vectorEff f 3 (cvtRes f)) s
/-- R137. -/
def execCvtn (f : Fields) (s : State) : Host.Outcome State Fault Refusal :=
  issueOne (.cvtn f) (vectorEff f 3 (cvtnRes f)) s
/-- R138. -/
def execPack (f : Fields) (s : State) : Host.Outcome State Fault Refusal :=
  issueOne (.pack f) (vectorEff f 3 (packRes f)) s
/-- R138. -/
def execUnpack (f : Fields) (s : State) : Host.Outcome State Fault Refusal :=
  issueOne (.unpack f) (vectorEff f 3 (unpackRes f)) s
/-- R134. -/
def execVsel (f : Fields) (s : State) : Host.Outcome State Fault Refusal :=
  issueOne (.vsel f) (vectorEff f 2 vselRes) s
/-- R139. -/
def execVbcast (f : Fields) (s : State) : Host.Outcome State Fault Refusal := issueOne (.vbcast f) (vbcastEff f) s
/-- R140. -/
def execVperm (f : Fields) (s : State) : Host.Outcome State Fault Refusal :=
  issueOne (.vperm f) (vectorEff f 2 vpermRes) s
/-- R140. -/
def execVshuf (f : Fields) (s : State) : Host.Outcome State Fault Refusal :=
  issueOne (.vshuf f) (vectorEff f 2 (vshufRes f)) s
/-- R141. -/
def execVrot (f : Fields) (s : State) : Host.Outcome State Fault Refusal :=
  issueOne (.vrot f) (vectorEff f 2 vrotRes) s
/-- R141. -/
def execVext (f : Fields) (s : State) : Host.Outcome State Fault Refusal :=
  issueOne (.vext f) (vectorEff f 2 vextRes) s
/-- R141. -/
def execVins (f : Fields) (s : State) : Host.Outcome State Fault Refusal :=
  issueOne (.vins f) (vectorEff f 2 vinsRes) s
/-- R142. -/
def execVrsum (f : Fields) (s : State) : Host.Outcome State Fault Refusal :=
  issueOne (.vrsum f) (vectorEff f 6 (reduceRes .sum f)) s
/-- R142. -/
def execVrmax (f : Fields) (s : State) : Host.Outcome State Fault Refusal :=
  issueOne (.vrmax f) (vectorEff f 6 (reduceRes .max f)) s
/-- R142. -/
def execVrmin (f : Fields) (s : State) : Host.Outcome State Fault Refusal :=
  issueOne (.vrmin f) (vectorEff f 6 (reduceRes .min f)) s
/-- R143. -/
def execVscan (f : Fields) (s : State) : Host.Outcome State Fault Refusal :=
  issueOne (.vscan f) (vectorEff f 8 (vscanRes f)) s
/-- R133. -/
def execMand (f : Fields) (s : State) : Host.Outcome State Fault Refusal :=
  issueOne (.mand f) (vectorEff f 2 mandRes) s
/-- R133. -/
def execMor (f : Fields) (s : State) : Host.Outcome State Fault Refusal :=
  issueOne (.mor f) (vectorEff f 2 morRes) s
/-- R133. -/
def execMnot (f : Fields) (s : State) : Host.Outcome State Fault Refusal :=
  issueOne (.mnot f) (vectorEff f 2 mnotRes) s
/-- R133. -/
def execMpopc (f : Fields) (s : State) : Host.Outcome State Fault Refusal :=
  issueOne (.mpopc f) (vectorEff f 2 mpopcRes) s

end Sys2Proof.Machine
end

