-- ==== Sys2Proof/Machine/Stitch.lean ====
section
/-! DEFINITION. The stitch row: micro-operation words (R157-R161), configuration (R165), runs (R158, R162, R163, R166, R167), and the
row instructions (R164, R168). -/

namespace Sys2Proof.Machine

/-! ### Micro-operation words (R157) -/

def mOp (w : Nat) : Nat := fld w 58 6
def mStg (w : Nat) : Nat := fld w 55 3
def mPsel (w : Nat) : Nat := fld w 52 3
def mDst (w : Nat) : Nat := fld w 46 6
def mSa (w : Nat) : Nat := fld w 39 7
def mSb (w : Nat) : Nat := fld w 32 7
def mSc (w : Nat) : Nat := fld w 25 7

/-- The fields (first bit, length) that an operation uses beside OP, STG and PSEL (R159); none for a reserved OP. DESIGN CHOICE (log entry 44):
RM counts as used by every SOUT, also where nothing is converted. -/
def microFields (w : Nat) : Option (List (Nat × Nat)) :=
  let d := (46, 6)
  let a := (39, 7)
  let b := (32, 7)
  let rm := (0, 2)
  match mOp w with
  | 0x01 | 0x02 => some [d, a, b, rm]
  | 0x03 => some [d, a, b, (25, 7), rm]
  | 0x04 | 0x05 => some [d, a, b]
  | 0x06 | 0x07 | 0x08 => some [d, a, rm]
  | 0x09 => some [d, a, b, rm, (2, 3)]
  | 0x0A => some (if fld w 2 3 == 4 then [d, a, rm, (2, 3), (5, 4)] else [d, a, rm, (2, 3)])
  | 0x0B => some [d, a, b, (5, 2)]
  | 0x0C => some [a, b, (2, 3), (5, 2)]
  | 0x0D => some [d, a]
  | 0x0E => some [a]
  | 0x0F => some (if Nat.ble 3 (fld w 1 3) then [d, (0, 1), (1, 3), (4, 5), (9, 4)] else [d, (0, 1), (1, 3), (4, 5)])
  | 0x10 => some (if Nat.ble 3 (fld w 2 3) then [a, rm, (2, 3), (5, 5), (10, 4), (14, 1)] else [a, rm, (2, 3), (5, 5)])
  | _ => none

/-- Whether every bit outside the given fields is 0. -/
def onlyFields (w : Nat) (fs : List (Nat × Nat)) : Bool := fs.foldl (fun v f => setFld v f.1 f.2 0) w == 0

/-- The groups of a slot in a FMT of R160; none for a reserved code. -/
def fmtGroups (f : Nat) : Nat := if f == 0 then 4 else if Nat.ble f 2 then 8 else if f == 3 then 16 else if f == 4 then 32 else 0

/-- The bits of a lane in a FMT of R160. -/
def fmtBits (f : Nat) : Nat := if f == 0 then 32 else if Nat.ble f 2 then 16 else if f == 3 then 8 else 4

/-- Whether the source codes an operation uses exist (R157). SB of SPOLY is K (R159). -/
def sourcesOk (w : Nat) (fs : List (Nat × Nat)) : Bool :=
  Nat.ble (mSa w) 66 && Nat.ble (mSc w) 66
    && (if mOp w == 0x09 then Nat.ble 32 (mSb w) && Nat.ble (mSb w + fld w 2 3 + 1) 63 && fld w 2 3 != 7 else Nat.ble (mSb w) 66)
    && !fs.isEmpty

/-- Whether an operation word is one that a context may hold (R157, R161), but for context, stage and SRED's place. -/
def microOk (w : Nat) : Bool :=
  if w == 0 then true
  else match microFields w with
    | none => false
    | some fs =>
      onlyFields w (fs ++ [(58, 6), (55, 3), (52, 3)]) && (mPsel w == 0 || Nat.ble 4 (mPsel w)) && sourcesOk w fs
        && (match mOp w with
          | 0x0A => Nat.ble (fld w 2 3) 4
          | 0x0F => Nat.blt (fld w 4 5) (fmtGroups (fld w 1 3))
          | 0x10 => Nat.blt (fld w 5 5) (fmtGroups (fld w 2 3))
          | _ => true)

/-! ### Configuration (R161) -/

/-- What the words of an image have given so far: the configuration from its SHDR, the current element and context, the SWSET
values by element * 64 + register. -/
structure Image where
  cfg  : Option RowCfg := none
  elem : Nat := 0
  ctx  : Nat := 0
  regs : Table (List Nat) := []
deriving DecidableEq, Repr

/-- A SHDR word. -/
def shdr (w : Nat) : Option RowCfg :=
  if mOp w == 0x30 && onlyFields w [(58, 6), (0, 18)] then
    some { ii := fld w 0 5 + 1, ns := fld w 5 3 + 1, mask := fld w 8 8, redop := fld w 16 2, ops := [], index := [] }
  else none

/-- One word of an image; none when it is bad. -/
def Image.word (m : Image) (i w : Nat) : Option Image :=
  match m.cfg with
  | none => (shdr w).map (fun g => { m with cfg := some g })
  | some g =>
    match mOp w with
    | 0x31 => if onlyFields w [(58, 6), (0, 3)] then some { m with elem := fld w 0 3, ctx := 0 } else none
    | 0x32 => if onlyFields w [(58, 6), (0, 5)] then some { m with ctx := fld w 0 5 } else none
    | 0x33 =>
      if onlyFields w [(58, 6), (46, 6), (0, 32)] && Nat.ble 32 (mDst w) then
        some { m with regs := Table.set m.regs (m.elem * 64 + mDst w) (List.replicate 16 (fld w 0 32)) }
      else none
    | _ =>
      if microOk w && Nat.blt m.ctx g.ii && Nat.blt (mStg w) g.ns && (mOp w != 0x0E || bit g.mask m.elem) then
        let n := m.elem * 32 + m.ctx
        some { m with ctx := m.ctx + 1, cfg := some { g with ops := Table.set g.ops n (dw w), index := Table.set g.index n i } }
      else none

/-- The words of an image in order, or the index of the first bad one. -/
def Image.words (m : Image) (i : Nat) : List Dword → Except Nat Image
  | [] => .ok m
  | w :: ws =>
    match m.word i w.toNat with
    | some m1 => Image.words m1 (i + 1) ws
    | none => .error i

/-- The contexts and stages at which an element holds SRED. -/
def RowCfg.sreds (g : RowCfg) (e : Nat) : List (Nat × Nat) :=
  (g.ops.filter (fun p => p.1 / 32 == e && mOp p.2.toNat == 0x0E)).map (fun p => (p.1 % 32, mStg p.2.toNat))

/-- Whether the elements of REDMASK all hold SRED at the same context and stage. -/
def RowCfg.redOk (g : RowCfg) : Bool :=
  let es := setBits 8 g.mask
  match es with
  | [] => true
  | e :: _ => !(g.sreds e).isEmpty && es.all (fun x => g.sreds x == g.sreds e)

/-- The configuration an image gives, with its SWSET values, or the index of its first bad word. A REDMASK that the elements do not
bear out counts against the SHDR (log entry 17). -/
def readImage (ws : List Dword) : Except Nat (RowCfg × Table (List Nat)) :=
  match Image.words {} 0 ws with
  | .error i => .error i
  | .ok m =>
    match m.cfg with
    | none => .error 0
    | some g => if g.redOk then .ok (g, m.regs) else .error 0

/-- The touches of a stitch image in W: word i is read in the (i + 1)-th cycle after issue, so that the row is configured B + 4 cycles after
issue (R165). DEDUCED (log entry 23): R385 gives no cycle for them. -/
def State.touchImage (s : State) (c k base : Nat) : List Nat → State
  | [] => s
  | g :: gs => State.touchImage (s.touchAt c k ((s.core c).cyc + 1 + (g * 64 - base) / 8) g false (.image base)) c k base gs

/-- STCFG (R165): the words are read in strand order; the row is configured B + 4 cycles on. -/
def stcfgEff (f : Fields) (s : State) : State :=
  let c := s.bundle.core
  let k := s.bundle.strand
  let w := f.m 0 1 == 1
  let a := (s.opd f.a).u
  let n := (s.opd f.b).u
  let bno := s.me.flow.bno
  let cyc := (s.core c).cyc
  let keys := (upto (8 * n)).map (fun i => (if w then keyW (dieOf c) a else keyP c a) + i)
  let bs := keys.map (fun key => s.loadByte c k bno key w)
  let x : Access := { w := w, store := false, elems := [(0, (a : Int), 8 * n)], align := 8 }
  let s1 := s.noteAbsent c k x
  let s2 := match (if w then none else s1.loadPoison c k bno w keys) with
    | some key =>
      (s1.deferPoison c k s.me.ctx.tl key).modCore c (fun y => { y with row := { y.row with cfg := none, load := some (cyc + n + 4, []), bad := none } })
    | none =>
      s1.modCore c (fun y => { y with row := { y.row with cfg := none, load := some (cyc + n + 4, (dwords bs n).map dw), bad := none } })
  let s3 := if w then s2.touchImage c k a x.granules else s2
  s3.at_ c (cyc + n + 4) false k (.stitchLoadEnd c)

/-- The row of a core is configured, or an invalid image leaves it unconfigured (R165). -/
def Row.configure (r : Row) (ws : List Dword) : Row :=
  match readImage ws with
  | .ok (g, regs) => { r with cfg := some g, load := none, bad := none, regs := regs, preds := [], outl := [], ru := [], ruNext := [] }
  | .error i => { r with cfg := none, load := none, bad := some i }

/-- STITCH_LOAD_END (R165). -/
def execStitchLoadEnd (core : Nat) (s : State) : Host.Outcome State Fault Refusal :=
  match (s.core core).row.load with
  | some (due, ws) =>
    if !Nat.ble due (s.core core).cyc then .next s
    else if (s.core core).flight.touches.any (fun t => match t.2.what with | .image _ => true | _ => false) then
      .next (s.again core false 0 (.stitchLoadEnd core))
    else .next (s.modCore core (fun x => { x with row := x.row.configure ws }))
  | none => .next s

/-! ### A run (R158, R162, R166) -/

/-- The registers of a row at the start of a run. -/
def Row.begin (r : Row) (keep : Bool) (run : Option RowRun) : Row :=
  { r with rmxp := r.rmx, rmx := if keep then r.rmx else 0, regs := r.regs.filter (fun p => Nat.ble 32 (p.1 % 64)), preds := [],
           outl := [], ru := [], ruNext := [], run := run }

/-- STRUN (R166). -/
def strunEff (f : Fields) (s : State) : State :=
  let c := s.bundle.core
  let k := s.bundle.strand
  let w := (s.opd f.a).u
  let kn := f.m 0 4
  let s1 := s.launch 6 kn .strun [] []
  let op := Table.getD s1.me.knotOp kn 0
  let n := fld w 0 30
  let due := (s.core c).cyc + 2
  let run : RowRun :=
    { strand := k, op := op, bno := s.me.flow.bno, n := n, port0 := if bit w 35 then some (fld w 30 5) else none,
      port1 := if bit w 41 then some (fld w 36 5) else none, omode := fld w 42 2, oq := fld w 44 4, otag := fld w 49 6,
      base := (s.opd f.b).u, stride := (s.opd f.c).u, fds := (upto 16).map (fun i => (i, s.me.fd i)), due := due }
  let s2 := (s1.modOp op (fun e => { e with phase := .working, at_ := (s.core c).cyc })).modCore c (fun x =>
    { x with row := x.row.begin (bit w 48) (if n == 0 then none else some run) })
  if n == 0 then s2.at_ c (s.core c).cyc true k (.engineComplete op) else s2.at_ c due false 4 (.rowCycle c)

/-- The address of an iteration's output slot. -/
def RowRun.outAddr (r : RowRun) (i : Nat) : Int := (r.base : Int) + (i : Int) * sval 64 r.stride

/-- The row cycles of a run. -/
def RowRun.length (r : RowRun) (g : RowCfg) : Nat := (r.n + g.ns - 1) * g.ii

/-- The iteration whose input a row cycle takes, and the one whose output falls at its end. -/
def RowRun.inAt (r : RowRun) (g : RowCfg) : Option Nat := if r.t % g.ii == 0 && Nat.blt (r.t / g.ii) r.n then some (r.t / g.ii) else none
def RowRun.outAt (r : RowRun) (g : RowCfg) : Option Nat :=
  let j := (r.t + 1) / g.ii
  if (r.t + 1) % g.ii == 0 && Nat.ble g.ns j && Nat.blt (j - g.ns) r.n then some (j - g.ns) else none

/-- The enabled ports as (port, selector). -/
def RowRun.ports (r : RowRun) : List (Nat × Nat) :=
  (match r.port0 with | some q => [(0, q)] | none => []) ++ (match r.port1 with | some q => [(1, q)] | none => [])

def zeros16 : List Nat := List.replicate 16 0

/-- phys of R158. -/
def physReg (j n : Nat) : Nat := if Nat.blt n 32 then (n + 32 - j % 32) % 32 else n

/-- The lanes of register n of element e. -/
def Row.reg (r : Row) (j e n : Nat) : List Nat := Table.getD r.regs (e * 64 + physReg j n) zeros16
def Row.pred (r : Row) (e n : Nat) : Nat := Table.getD r.preds (e * 4 + n) 0xFFFF

/-- The lanes of a source code (R157). -/
def Row.source (r : Row) (j e code : Nat) : List Nat :=
  if Nat.blt code 64 then r.reg j e code
  else if code == 64 then (if e == 0 then zeros16 else Table.getD r.outl (e - 1) zeros16)
  else if code == 65 then Table.getD r.ru e zeros16
  else zeros16

/-- The lanes an operation writes (R158). -/
def Row.keep (r : Row) (e w : Nat) : Nat := if mPsel w == 0 then 0xFFFF else r.pred e (mPsel w - 4)

/-- SPOLY's steps over the coefficients that remain (R159). -/
def polySteps (rm : RM) (a : Nat) : List Nat → Nat → Nat
  | [], y => y
  | k :: ks, y => polySteps rm a ks (fp32.round rm (xFma rm (fp32.value y) (fp32.value a) (fp32.value k)))

/-- SCVT of one lane (R160); `d` is the fd image. -/
def scvtLane (mode d : Nat) (rm : RM) (a : Nat) : Nat :=
  match mode with
  | 0 => convert 0 0x0B 3 rm true a
  | 1 => convert 0 3 0x0B rm true a
  | 2 => fp32.round rm (bf16.value (bf16.round rm (fp32.value a)))
  | 3 => fp32.round rm (fp16.value (fp16.round rm (fp32.value a)))
  | _ => fp32.round rm ((NarrowFmt.ofImage d).value ((NarrowFmt.ofImage d).cvtn rm (fp32.value a)))

/-- The tag an SIN's port slot must carry (R357). -/
def sinTag (w : Nat) : Nat :=
  match fld w 1 3 with
  | 0 => 0x0B | 1 => 0x0A | 2 => 9 | _ => 0x10 + fld w 9 4

/-- The lanes of a group of a slot, widened (R160). -/
def sinLanes (w d : Nat) (v : SlotBits) : List Nat :=
  let f := fld w 1 3
  let b := fmtBits f
  (upto 16).map (fun l =>
    let x := fld v.toNat (16 * b * fld w 4 5 + b * l) b
    match f with
    | 0 => x
    | 1 => fp32.round .rne (bf16.value x)
    | 2 => fp32.round .rne (fp16.value x)
    | _ => fp32.round .rne ((NarrowFmt.ofImage d).value x))

/-- qs of R163 for a descriptor. -/
def quantScale (d rmxp : Nat) : Int :=
  if rmxp == 0 || rmxp == fp32.infBits false then 0
  else
    let holds := fun (s : Int) => decide (0 ≤ cmpX (mulX (NarrowFmt.ofImage d).maxFin0 (.fin false 1 s)) (fp32.value rmxp))
    match (upto 256).find? (fun (i : Nat) => holds ((i : Int) - 128)) with
    | some i => (i : Int) - 128
    | none => 127

/-- One lane of an SOUT (R160, R163). -/
def soutLane (w d rmxp a : Nat) : Nat :=
  let rm := RM.ofMod w
  let x := fp32.value a
  match fld w 2 3 with
  | 0 => a
  | 1 => bf16.round rm x
  | 2 => fp16.round rm x
  | _ =>
    let g := NarrowFmt.ofImage d
    NarrowFmt.cvtn (if bit w 14 then { g with scale := quantScale d rmxp } else g) rm x

/-- Write lanes of `b` bits from bit `lo` of a slot, in the lanes kept. -/
def putLanes (v lo b keep : Nat) (xs : List Nat) : Nat :=
  (numbered 0 xs).foldl (fun acc p => if bit keep p.1 then setFld acc (lo + b * p.1) b p.2 else acc) v

/-- The result of an operation with a register destination, but for SIN. -/
def Row.compute (r : Row) (fd : Nat → Nat) (j e w : Nat) : List Nat :=
  let a := r.source j e (mSa w)
  let b := r.source j e (mSb w)
  let c := r.source j e (mSc w)
  let rm := RM.ofMod w
  let f2 := fun (g : XVal → XVal → XVal) => (a.zip b).map (fun p => fp32.round rm (g (fp32.value p.1) (fp32.value p.2)))
  match mOp w with
  | 0x01 => f2 (fun x y => xAdd rm x y .zero)
  | 0x02 => f2 mulX
  | 0x03 => ((a.zip b).zip c).map (fun p => fp32.round rm (xFma rm (fp32.value p.1.1) (fp32.value p.1.2) (fp32.value p.2)))
  | 0x04 => (a.zip b).map (fun p => maxBits fp32 p.1 p.2)
  | 0x05 => (a.zip b).map (fun p => minBits fp32 p.1 p.2)
  | 0x06 => a.map (fun x => exp2X fp32 rm (fp32.value x))
  | 0x07 => a.map (fun x => divX fp32 rm (.fin false 1 0) (fp32.value x))
  | 0x08 => a.map (fun x => rsqrtX fp32 rm (fp32.value x))
  | 0x09 =>
    let ks := (upto (fld w 2 3 + 2)).map (fun u => r.reg j e (mSb w + u))
    (numbered 0 a).map (fun p =>
      match ks.map (fun k => k.getD p.1 0) with
      | [] => 0
      | y :: cs => polySteps rm p.2 cs y)
  | 0x0A => a.map (scvtLane (fld w 2 3) (fd (fld w 5 4)) rm)
  | 0x0B => (numbered 0 (a.zip b)).map (fun p => if bit (r.pred e (fld w 5 2)) p.1 then p.2.1 else p.2.2)
  | _ => a

/-- SCMP's outcome as 16 bits (R131). -/
def Row.compare (r : Row) (j e w : Nat) : Nat :=
  ofBits ((numbered 0 ((r.source j e (mSa w)).zip (r.source j e (mSb w)))).filterMap (fun p =>
    if fcmpHolds (fld w 2 3) (fp32.value p.2.1) (fp32.value p.2.2) then some p.1 else none))

/-- The latency of an operation in row cycles (R159). -/
def microLat (w : Nat) : Nat :=
  match mOp w with
  | 0x06 | 0x07 | 0x08 => 3
  | 0x09 => fld w 2 3 + 2
  | _ => 1

/-- The operations that a row cycle executes, ascending by element: (element, context, word, iteration). -/
def RowRun.active (r : RowRun) (g : RowCfg) : List (Nat × Nat × Nat × Nat) :=
  let x := r.t % g.ii
  let j := r.t / g.ii
  (upto 8).filterMap (fun e =>
    match Table.get? g.ops (e * 32 + x) with
    | some d =>
      let w := d.toNat
      if w != 0 && Nat.ble (mStg w) j && Nat.blt (j - mStg w) r.n then some (e, x, w, j - mStg w) else none
    | none => none)

/-- What a row cycle's operations do: results under way, output slots, contributions, the iteration of a mismatched SIN. -/
structure RowWork where
  writes : List RowWrite := []
  outs   : Table SlotBits := []
  reds   : List (Nat × List Nat) := []
  clash  : Option Nat := none
deriving DecidableEq, Repr

/-- One operation of a row cycle. All read the row as it stood. DESIGN CHOICE (log entry 44): the predicate of an operation of several cycles
is sampled in its row cycle, not when its result lands. -/
def RowRun.operate (r : RowRun) (row : Row) (g : RowCfg) (k : RowWork) (a : Nat × Nat × Nat × Nat) : RowWork :=
  let (e, x, w, i) := a
  let j := r.t / g.ii
  let fd := fun (n : Nat) => Table.getD r.fds n 0
  let put := fun (dst : Nat) (vals : List Nat) =>
    { k with writes := k.writes ++ [{ at_ := r.t + microLat w - 1, elem := e, ctx := x, dst := dst, keep := row.keep e w, vals := vals }] }
  match mOp w with
  | 0x0C => put (64 + fld w 5 2) [row.compare j e w]
  | 0x0E => { k with reds := k.reds ++ [(e, row.source j e (mSa w))] }
  | 0x0F =>
    (match Table.get? r.slots (2 * i + fld w 0 1) with
    | some (v, tag, _, _) =>
      if tag == sinTag w then put (physReg j (mDst w)) (sinLanes w (fd (fld w 9 4)) v) else { k with clash := k.clash.or (some i) }
    | none => k)
  | 0x10 =>
    let b := fmtBits (fld w 2 3)
    let xs := (row.source j e (mSa w)).map (soutLane w (fd (fld w 10 4)) row.rmxp)
    let old := Table.getD k.outs i 0
    { k with outs := Table.set k.outs i (BitVec.ofNat 2048 (putLanes old.toNat (16 * b * fld w 5 5) b (row.keep e w) xs)) }
  | _ => put (physReg j (mDst w)) (row.compute fd j e w)

/-- One step of a fold (R162). -/
def foldLanes (op : Nat) (a b : List Nat) : List Nat :=
  (a.zip b).map (fun p =>
    match op with
    | 1 => maxBits fp32 p.1 p.2
    | 2 => minBits fp32 p.1 p.2
    | _ => fp32.round .rne (xAdd .rne (fp32.value p.1) (fp32.value p.2) .zero))

/-- The folds through each element, ascending. -/
def foldsThrough (op : Nat) : List Nat → List (Nat × List Nat) → List (Nat × List Nat)
  | _, [] => []
  | v, (e, c) :: cs =>
    let x := foldLanes op v c
    (e, x) :: foldsThrough op x cs

/-- The row unit's fold of a row cycle (R162): what each element receives, and the whole fold. -/
def rowFold (op : Nat) (cs : List (Nat × List Nat)) : Option (List (Nat × List Nat) × List Nat) :=
  match cs with
  | [] => none
  | (e, c) :: t =>
    let through := (e, c) :: foldsThrough op c t
    let v := (through.getLast?.map Prod.snd).getD c
    some (if op == 3 then through else through.map (fun p => (p.1, v)), v)

/-- RMX after a fold (R162). -/
def rmxAfter (rmx : Nat) (v : List Nat) : Nat :=
  v.foldl (fun m x => if (fp32.value x).isNan then m else Nat.max m (x % 2 ^ 31)) rmx

/-- The operations of a row cycle, and its fold. -/
def Row.operate (row : Row) (r : RowRun) (g : RowCfg) : RowWork × Row :=
  let ru := row.ruNext.filter (fun p => Nat.ble p.1 r.t)
  let row1 := { row with
    ru := ru.foldl (fun t p => Table.set t p.2.1 p.2.2) row.ru
    ruNext := row.ruNext.filter (fun p => !Nat.ble p.1 r.t) }
  let k := (r.active g).foldl (r.operate row1 g) { writes := r.writes, outs := r.outs }
  match rowFold g.redop k.reds with
  | none => (k, row1)
  | some (xs, v) =>
    (k, { row1 with ruNext := row1.ruNext ++ xs.map (fun p => (r.t + 2, p.1, p.2)), rmx := rmxAfter row1.rmx v })

/-- Insert a result in ascending context order. -/
def insertWrite (w : RowWrite) : List RowWrite → List RowWrite
  | [] => [w]
  | x :: xs => if Nat.blt w.ctx x.ctx then w :: x :: xs else x :: insertWrite w xs

/-- The lanes of `new` where `keep` holds, else those of `old`. -/
def blend (keep : Nat) (old new : List Nat) : List Nat :=
  (numbered 0 (old.zip new)).map (fun p => if bit keep p.1 then p.2.2 else p.2.1)

/-- A result lands (R158, R159). -/
def Row.land (row : Row) (w : RowWrite) : Row :=
  if Nat.blt w.dst 64 then
    let n := w.elem * 64 + w.dst
    { row with regs := Table.set row.regs n (blend w.keep (Table.getD row.regs n zeros16) w.vals), outl := Table.set row.outl w.elem w.vals }
  else
    let n := w.dst - 64
    let v := w.vals.headD 0
    let old := row.pred w.elem n
    let new := ofBits ((upto 16).filter (fun l => if bit w.keep l then bit v l else bit old l))
    { row with preds := Table.set row.preds (w.elem * 4 + n) new }

/-- The results that land at the end of row cycle t. -/
def Row.landAll (row : Row) (t : Nat) (ws : List RowWrite) : Row :=
  ((ws.filter (fun w => w.at_ == t)).foldl (fun acc w => insertWrite w acc) []).foldl Row.land row

/-! ### Row cycles (R158, R167) -/

def State.modRow (s : State) (c : Nat) (f : Row → Row) : State := s.modCore c (fun x => { x with row := f x.row })
def State.modRun (s : State) (c : Nat) (f : RowRun → RowRun) : State := s.modRow c (fun r => { r with run := r.run.map f })

/-- Whether an output store of a run is still to be performed. -/
def Core.rowStoring (x : Core) (r : RowRun) : Bool := r.stores.any (fun id => (Table.get? x.flight.stores id).isSome)

/-- Whether a row cycle stalls for its input or for what its output needs (R167). -/
def State.rowStalls (s : State) (c : Nat) (r : RowRun) (g : RowCfg) : Bool :=
  let x := s.core c
  ((r.inAt g).isSome && r.ports.any (fun p => (x.absent r.strand p.2 0 1 false).isSome))
    || ((r.outAt g).isSome && (x.rowStoring r || (r.omode == 3 && (s.queue c r.strand r.oq).free == 0)))

/-- The engine fault of a run at an iteration (R344). -/
def State.rowTrap (s : State) (r : RowRun) (cause addr i status : Nat) : Option Trap :=
  (s.op? r.op).map (fun e => e.fault cause addr i status)

/-- The blocks an output slot in P needs (R273): filled, to wait for, or failed. -/
def State.rowFill (s : State) (c : Nat) (r : RowRun) (g : RowCfg) : Eng Unit × State :=
  match r.outAt g, s.op? r.op with
  | some i, some e =>
    let a := r.outAddr i
    if r.omode == 1 && (s.addrBad c r.strand false a 256 64).isNone then
      (match s.spots e 0 true 0 [a, a + 255] with
      | (.ok _, s1) => (.ok (), s1)
      | (.wait, s1) => (.wait, s1)
      | (.bad cause v st n, s1) => (.bad cause v st n, s1))
    else (.ok (), s)
  | _, _ => (.ok (), s)

/-- The row takes the head slots of its enabled ports: each is held and popped (R167). -/
def State.rowTake (s : State) (c i : Nat) : List (Nat × Nat) → State
  | [] => s
  | (p, sel) :: ps =>
    match (s.core c).row.run with
    | none => s
    | some r =>
      let n := (s.core c).winIndex r.strand sel 0
      let o := s.readAt c r.strand sel 0
      let s1 := s.modSlot c r.strand sel n (fun x => { x with holds := x.holds + 1 })
      let s2 := s1.pop c r.strand sel 1
      State.rowTake (s2.modRun c (fun y => { y with slots := Table.set y.slots (2 * i + p) (BitVec.ofNat 2048 o.val, o.tag, sel, n) }))
        c i ps

/-- A row cycle begins: it stalls, or takes its inputs and executes its operations. -/
def State.rowBegin (s : State) (c : Nat) (r : RowRun) (g : RowCfg) : State :=
  let stall := fun (s : State) =>
    (s.modRun c (fun y => { y with due := (s.core c).cyc + 1 })).at_ c ((s.core c).cyc + 1) false 4 (.rowCycle c)
  match r.fail with
  | some t => (s.endRow c).failOp r.op t
  | none =>
  if s.rowStalls c r g then stall s
  else match s.rowFill c r g with
    | (.wait, s1) => stall s1
    | (fill, s1) =>
      let s2 := match r.inAt g with | some i => s1.rowTake c i r.ports | none => s1
      let s3 := match (s2.core c).row.run with
        | none => s2
        | some r1 =>
          let (k, row) := (s2.core c).row.operate r1 g
          let fail := match k.clash, fill with
            | some i, _ => s2.rowTrap r1 0x05 (match s2.op? r1.op with | some e => e.pc | none => 0) i 0
            | none, .bad cause a st _ => s2.rowTrap r1 cause a ((r.outAt g).getD 0) st
            | none, _ => none
          s2.modRow c (fun _ => { row with run := some { r1 with mid := true, writes := k.writes, outs := k.outs, fail := fail } })
      s3.at_ c (s3.core c).cyc true 4 (.rowCycle c)

/-- The output slot of an iteration is stored or appended (R167); a refused store fails the run. -/
def State.rowOut (s : State) (c : Nat) (r : RowRun) (i : Nat) : State :=
  let v := Table.getD r.outs i 0
  let a := r.outAddr i
  let w := r.omode == 2
  if r.omode == 0 then s
  else if r.omode == 3 then s.arrive c r.strand r.oq r.otag (slotLayout true true r.otag v.toNat)
  else match s.addrBad c r.strand w a 256 64 with
    | some (cause, row) => s.modRun c (fun y => { y with fail := s.rowTrap r cause (wrap 64 a) i (row * 2 ^ 8 + spaceBits (bnat w)) })
    | none =>
      let key := if w then keyW (dieOf c) a.toNat else keyP c a.toNat
      let tl := match s.op? r.op with | some e => e.tl | none => 0
      let (id, s1) := s.fresh
      let st : PStore := { strand := r.strand, bno := r.bno, w := w, tl := tl, cells := cellsAt key (bytesLE 256 v.toNat), row := true, iter := i }
      let s2 := (s1.modFlight c (fun f => { f with stores := Table.set f.stores id st })).at_ c ((s.core c).cyc + 2) false r.strand
        (.storePerformed c id)
      let s3 := if w then s2 else s2.markDirty c r.strand r.bno a.toNat 256
      s3.modRun c (fun y => { y with stores := [id] })

/-- Release the input slots of an iteration (R167). -/
def State.rowRelease (s : State) (c : Nat) (r : RowRun) (i : Nat) : State :=
  (s.unholdRow c r.strand (r.slots.filter (fun p => p.1 / 2 == i))).modRun c (fun y =>
    { y with slots := y.slots.filter (fun p => p.1 / 2 != i), outs := Table.erase y.outs i })

/-- A row cycle ends: results land, its iteration's output goes out, the run ends or goes on. -/
def State.rowEnd (s : State) (c : Nat) (r : RowRun) (g : RowCfg) : State :=
  let s1 := s.modRow c (fun row => row.landAll r.t r.writes)
  let s2 := match r.fail, r.outAt g with
    | none, some i => (s1.rowOut c r i).rowRelease c r i
    | _, _ => s1
  match (s2.core c).row.run with
  | none => s2
  | some r1 =>
    match r1.fail with
    | some t => (s2.endRow c).failOp r.op t
    | none =>
      let t1 := r.t + 1
      let more := Nat.blt t1 (r.length g)
      let cyc := (s.core c).cyc
      let s3 := s2.modRun c (fun y =>
        { y with t := t1, mid := false, due := cyc + 1, last := !more, writes := y.writes.filter (fun w => Nat.blt r.t w.at_) })
      if more then s3.at_ c (cyc + 1) false 4 (.rowCycle c)
      else s3.at_ c (if (((s3.core c).row.run).map (fun y => (s3.core c).rowStoring y)).getD false then cyc + 2 else cyc) true 4 (.engineComplete r.op)

/-- ROW_CYCLE: the beginning or the end of a row cycle of the active run (R158, R167). -/
def execRowCycle (core : Nat) (s : State) : Host.Outcome State Fault Refusal :=
  match (s.core core).row.run, (s.core core).row.cfg with
  | some r, some g =>
    if r.last || r.due != (s.core core).cyc then .next s
    else .next (if r.mid then s.rowEnd core r g else s.rowBegin core r g)
  | _, _ => .next s

/-- The run of an operation completes once its last output has been disposed of (R167); none: it must wait. -/
def State.rowComplete (s : State) (o : Nat) (e : EngOp) : Option State :=
  match (s.core e.core).row.run with
  | some r =>
    if r.op != o then some (s.endOp o true)
    else if !r.last || (s.core e.core).rowStoring r then none
    else match r.fail with
    | some t => some ((s.endRow e.core).failOp o t)
    | none => some ((s.endRow e.core).endOp o true)
  | none => some (s.endOp o true)

/-- STSTOP (R168): output stores that are not performed are discarded with the run. -/
def ststopEff (s : State) : State :=
  let c := s.bundle.core
  match (s.core c).row.run with
  | none => s
  | some r =>
    let s1 := s.modFlight c (fun f => { f with stores := f.stores.filter (fun p => !r.stores.contains p.1) })
    (s1.endRow c).endOp r.op true

/-- R165. -/
def execStcfg (f : Fields) (s : State) : Host.Outcome State Fault Refusal := issueOne (.stcfg f) (stcfgEff f) s
/-- R166. -/
def execStrun (f : Fields) (s : State) : Host.Outcome State Fault Refusal := issueOne (.strun f) (strunEff f) s
/-- R168. -/
def execStstop (f : Fields) (s : State) : Host.Outcome State Fault Refusal := issueOne (.ststop f) ststopEff s

end Sys2Proof.Machine
end

