-- ==== Sys2Proof/Machine/Sketch.lean ====
section
/-! DEFINITION. Count sketches (R183-R187, R223-R230): skeins, the hash family, counter updates, queries. -/

namespace Sys2Proof.Machine

/-! ### Skeins (R223-R226) -/

/-- A skein from its four dwords, when it keeps R224 but for the reserved area. -/
def skeinOf (d : List Nat) : Option Skein :=
  let d0 := d.getD 0 0
  let d1 := d.getD 1 0
  let d2 := d.getD 2 0
  let k : Skein :=
    { home := fld d0 25 6, base := fld d0 0 25, depth := fld d1 8 3, logw := fld d1 0 5, mask := fld d1 16 6, stride := fld d2 0 25,
      expo := sval 8 (fld d1 22 8) }
  if fld d0 31 33 == 0 && fld d1 30 34 == 0 && fld d1 11 5 == 0 && fld d1 5 3 == 0 && fld d2 25 39 == 0 && d.getD 3 0 == 0
      && Nat.ble 10 k.logw && Nat.ble k.logw 24 && (k.depth == 3 || k.depth == 5 || k.depth == 7)
      && k.base % 64 == 0 && (setBits 6 k.mask).all (fun i => !bit k.home i) && k.stride % 64 == 0
      && Nat.ble (4 * 2 ^ k.logw / 2 ^ popcount 6 k.mask) k.stride then some k
  else none

/-- V, the vaults a skein stripes over. -/
def Skein.vaults (k : Skein) : Nat := 2 ^ popcount 6 k.mask
def Skein.width (k : Skein) : Nat := 2 ^ k.logw

/-- The lowest counter in the reserved area of a vault (R224). -/
def Skein.reserved (k : Skein) : Option Nat :=
  let row := 4 * (k.width / k.vaults)
  let lows := (upto k.depth).filterMap (fun j =>
    let lo := k.base + j * k.stride
    if Nat.ble 0x01F00000 lo then some lo else if Nat.blt 0x01F00000 (lo + row) then some 0x01F00000 else none)
  (lows.foldl (fun (m : Option Nat) x => match m with | none => some x | some y => some (Nat.min x y)) none).map
    (fun o => k.home * 2 ^ 25 + o)

/-- deposit(lo, mask) of R225: bit t of lo goes to the t-th set bit of the mask. -/
def deposit (lo mask : Nat) : Nat := (numbered 0 (setBits 6 mask)).foldl (fun n p => if bit lo p.1 then n + 2 ^ p.2 else n) 0

/-- The W address of counter b of row j (R225). -/
def Skein.addr (k : Skein) (j b : Nat) : Nat :=
  (k.home + deposit (b % k.vaults) k.mask) * 2 ^ 25 + k.base + j * k.stride + 4 * (b / k.vaults)

/-- A counter as sketch operations read it (R226). -/
def ctrValue (v : Nat) : Int := if v == 2 ^ 31 then -ctrMax else sval 32 v

/-! ### The hash family (R227) -/

def hashA : List Nat :=
  [0x0F3A5C2D8E7164B9, 0x17C92E64A0D35F81, 0x0C54E9A21F863D77, 0x1A2F7B08D4C691E3, 0x04B6D13F6E29A85C, 0x1E0893C75AB42F6D,
   0x0963AF51C28DE04B]
def hashB : List Nat :=
  [0x0B2791E43A5DC608, 0x05E1B38C72F60D94, 0x18B306DF5A21E94C, 0x02D84F6A9B13C57E, 0x1F71C52E806B4DA9, 0x0A4CE71B36D9850F,
   0x13682AD5E0C7B19A]
def hashC : List Nat :=
  [0x1D460B9F27C3E851, 0x0A8D64F13E27B9C5, 0x0671C3A8E54F290D, 0x13E5A92C07B8D641, 0x08F23D64B1AE57C3, 0x15AB0E83D7C26F49,
   0x02CF8B1649E5A3D7]
def hashD : List Nat :=
  [0x0362F8A14D907B2E, 0x1B057ED2C86413A7, 0x0E9C2B571AD38F60, 0x094AD17E3C65B20F, 0x1C3760B9E2D48A15, 0x0486BD3AF159C27E,
   0x11D9E4C07A365B82]

def hashP : Nat := 2 ^ 61 - 1

/-- h_j(i) and s_j(i). -/
def Skein.bucket (k : Skein) (j i : Nat) : Nat := ((hashA.getD j 0 * i + hashB.getD j 0) % hashP) / 2 ^ (61 - k.logw)
def hashSign (j i : Nat) : Int := if (hashC.getD j 0 * i + hashD.getD j 0) % hashP % 2 == 1 then -1 else 1

/-! ### Updates (R184, R186) -/

def wideMax : Int := 2 ^ 63 - 1
def satWide (x : Int) : Int := satInt x (-wideMax) wideMax

/-- The value of an update entry on the skein's grid: NaN gives 0 (R184). -/
def Skein.grid (k : Skein) (x : Nat) : Int :=
  match fp32.value x with
  | .fin neg m e => satWide (roundInt .rne neg m (e - k.expo))
  | .inf neg => if neg then -wideMax else wideMax
  | _ => 0

/-- The deltas of update entries (index, value) by counter address (R184). -/
def Skein.deltas (k : Skein) (es : List (Nat × Nat)) : Table Int :=
  es.foldl (fun t e =>
    let v := k.grid e.2
    (upto k.depth).foldl (fun t j =>
      let a := k.addr j (k.bucket j e.1)
      Table.set t a (satWide (Table.getD t a 0 + hashSign j e.1 * v))) t) []

/-- Read, change and write one counter for an operation (R230): the key of a poisoned unit stops it. A later store of the strand to the
counter waits for it (State.updating). -/
def State.bump (s : State) (o : Nat) (e : EngOp) (a : Nat) (f : Int → Int) : State × Option Nat :=
  let key := keyW (dieOf e.core) a
  match (if s.poison.isEmpty then none else ((upto 4).map (fun i => key + i)).find? (s.bumpPoison e)) with
  | some p => (s, some p)
  | none =>
    let v := ctrValue (ofBytes ((upto 4).map (fun i => s.view e.core e.strand e.bno (key + i))))
    s.engCells o e (cellsAt key (bytesLE 4 (wrap 32 (satCtr (f v)))))

/-- A counter as a sketch operation reads it. -/
def State.counter (s : State) (e : EngOp) (a : Nat) : Int :=
  let key := keyW (dieOf e.core) a
  ctrValue (ofBytes ((upto 4).map (fun i => s.opView e (key + i))))

/-! ### Queries (R185, R228) -/

def insertInt (x : Int) : List Int → List Int
  | [] => [x]
  | y :: ys => if x ≤ y then x :: y :: ys else y :: insertInt x ys

def sortInts : List Int → List Int
  | [] => []
  | x :: xs => insertInt x (sortInts xs)

/-- The result of a query of one index. -/
def Skein.query (k : Skein) (ctr : Nat → Int) (i : Nat) : Nat :=
  let ys := sortInts ((upto k.depth).map (fun j => hashSign j i * ctr (k.addr j (k.bucket j i))))
  let m := ys.getD ((k.depth - 1) / 2) 0
  fp32.round .rne (.fin (decide (m < 0)) m.natAbs k.expo)

/-! ### Starts -/

/-- Read a skein at its W address (R183, R224, R229). -/
def State.readSkein (s : State) (o : Nat) (e : EngOp) (a : Nat) : Eng Skein × State :=
  match s.addrBad e.core e.strand true (a : Int) 32 32 with
  | some (cause, row) => (.bad cause a (row * 2 ^ 8 + spaceBits 1) 0, s)
  | none =>
    match s.engRead o e 1 ((upto 32).map (fun i => ((a + i : Nat) : Int))) with
    | (.wait, s1) => (.wait, s1)
    | (.bad c v st _, s1) => (.bad c v st 0, s1)
    | (.ok bs, s1) =>
      match skeinOf (dwords bs 4) with
      | none => (.bad 0x18 a (spaceBits 1) 0, s1)
      | some k =>
        match k.reserved with
        | some w => (.bad 0x1A w (3 * 2 ^ 8 + spaceBits 1) 0, s1)
        | none => (.ok k, s1)

/-- The skeins an operation names. -/
def OpKind.skeins : OpKind → List Nat
  | .skupd k _ | .skqry k _ _ | .skscale k _ | .skclr k => [k]
  | .skadd a b => [a, b]
  | _ => []

def State.readSkeins (s : State) (o : Nat) (e : EngOp) : List Nat → Eng (List Skein) × State
  | [] => (.ok [], s)
  | a :: as =>
    match s.readSkein o e a with
    | (.wait, s1) => (.wait, s1)
    | (.bad c v st _, s1) => (.bad c v st 0, s1)
    | (.ok k, s1) =>
      match State.readSkeins s1 o e as with
      | (.ok ks, s2) => (.ok (k :: ks), s2)
      | (r, s2) => (r, s2)

/-- Entries of an update list, and the first that has another bit set. -/
def entriesOf (ds : List Nat) : Nat → List (Nat × Nat)
  | 0 => []
  | n + 1 => (ds.getD 0 0, ds.getD 1 0) :: entriesOf (ds.drop 2) n

/-- The counter updates an operation makes. -/
def EngOp.updates (e : EngOp) : Nat :=
  match e.kind with
  | .skupd .. => e.vals.length
  | .skadd .. | .skscale .. | .skclr .. => match e.skeins with | k :: _ => k.width * k.depth | [] => 0
  | _ => 0

/-- Updates made in one cycle, and all that R173 counts. -/
def EngOp.rate (e : EngOp) : Nat :=
  let v := match e.skeins with | k :: _ => k.vaults | [] => 1
  match e.kind with | .skupd .. => 8 * v | _ => 64 * v

def EngOp.work (e : EngOp) : Nat :=
  match e.kind with
  | .skupd _ l => (fld l 32 16 + 1) * (match e.skeins with | k :: _ => k.depth | [] => 0)
  | _ => e.updates

/-- The start of a sketch operation (R183-R187): its skeins are read, once (R229), then its list, and its updates fall due. -/
def State.startSketch (s : State) (o : Nat) (e : EngOp) : Began :=
  match (if e.skeins.isEmpty then s.readSkeins o e e.kind.skeins else (.ok e.skeins, s)) with
  | (.wait, s0) => .wait s0
  | (.bad c a st _, s0) => .fail s0 (e.fault c a 0 st)
  | (.ok ks, s0) =>
    let s1 := s0.modOp o (fun x => { x with skeins := ks })
    let now := (s1.core e.core).cyc
    let go := fun (s : State) => Began.go (s.at_ e.core (now + 20) true e.strand (.sketchUpdate o))
    match e.kind, ks with
    | .skqry .., _ => .go (s1.presentIn o e 30)
    | .skadd a _, x :: y :: _ =>
      if x.logw == y.logw && x.depth == y.depth && x.mask == y.mask then go s1 else .fail s1 (e.fault 0x18 a 0 (spaceBits 1))
    | .skscale _ q, _ => if Nat.ble (2 ^ 32) q then .fail s1 (e.fault 0x18 e.pc 0 0) else go s1
    | .skupd _ l, k :: _ =>
      let a := fld l 0 22
      let n := fld l 32 16 + 1
      if fld l 22 10 != 0 || fld l 48 16 != 0 || a % 16 != 0 then .fail s1 (e.fault 0x18 e.pc 0 0)
      else match s1.engReadP o e a (16 * n) with
        | (.wait, s2) => .wait s2
        | (.bad c v st i, s2) => .fail s2 (e.fault c v (i / 16) st)
        | (.ok bs, s2) =>
          let es := entriesOf (dwords bs (2 * n)) n
          (match (numbered 0 es).find? (fun p => Nat.ble (2 ^ 48) p.2.1 || Nat.ble (2 ^ 32) p.2.2) with
          | some (u, _) => .fail s2 (e.fault 0x18 (a + 16 * u) u 0)
          | none => go (s2.modOp o (fun x => { x with vals := k.deltas es, data := bs })))
    | _, _ => go s1

/-! ### Rows -/

/-- Whether an earlier sketch operation of the same strand is outstanding (R187). -/
def State.sketchBehind (s : State) (o : Nat) (e : EngOp) : Bool :=
  s.ops.any (fun p => p.2.core == e.core && p.2.strand == e.strand && Nat.blt p.1 o && !p.2.kind.skeins.isEmpty)

/-- The counter that the next update changes, and what it becomes. -/
def EngOp.nextUpdate (e : EngOp) (s : State) : Nat × (Int → Int) :=
  match e.kind, e.skeins with
  | .skupd .., _ => match e.vals[e.next]? with | some (a, d) => (a, fun v => v + d) | none => (0, id)
  | .skadd .., x :: y :: _ =>
    let d := s.counter e (y.addr (e.next / y.width) (e.next % y.width))
    (x.addr (e.next / x.width) (e.next % x.width), fun v => v + d)
  | .skscale _ q, x :: _ =>
    (x.addr (e.next / x.width) (e.next % x.width), fun v =>
      let p := v * sval 32 q
      roundInt .rne (decide (p < 0)) p.natAbs (-31))
  | _, x :: _ => (x.addr (e.next / x.width) (e.next % x.width), fun _ => 0)
  | _, [] => (0, id)

/-- The poisoned byte of the counter that SKADD adds. -/
def State.addedPoison (s : State) (e : EngOp) : Option Nat :=
  match e.kind, e.skeins with
  | .skadd .., _ :: y :: _ =>
    if s.poison.isEmpty then none
    else
      let a := y.addr (e.next / y.width) (e.next % y.width)
      ((upto 4).map (fun i => keyW (dieOf e.core) (a + i))).find? (s.opPoison e)
  | _, _ => none

/-- The next update of an operation; SKCLR reads no counter. -/
def State.oneUpdate (s : State) (o : Nat) (e : EngOp) : State × Option Nat :=
  let (a, f) := e.nextUpdate s
  match s.addedPoison e with
  | some p => (s, some p)
  | none =>
    match e.kind with
    | .skclr _ => s.engCells o e (cellsAt (keyW (dieOf e.core) a) (bytesLE 4 0))
    | _ => s.bump o e a f

/-- Whether a W address lies in a counter of a skein (R225). -/
def Skein.holds (k : Skein) (wa : Nat) : Bool :=
  (upto k.vaults).any (fun lo => k.home + deposit lo k.mask == wa / 2 ^ 25)
    && (upto k.depth).any (fun j =>
      let lo := k.base + j * k.stride
      Nat.ble lo (wa % 2 ^ 25) && Nat.blt (wa % 2 ^ 25) (lo + 4 * (k.width / k.vaults)))

/-- The W addresses of the counters of a skein that hold 0x8000_0000 (R226), the strand's earlier stores included: their highest byte is
0x80. -/
def State.minCounters (s : State) (e : EngOp) (k : Skein) : List Nat :=
  let lo := keyW (dieOf e.core) 0
  let pending := (s.core e.core).flight.stores.flatMap (fun st => if st.2.strand == e.strand && Nat.blt st.2.bno e.bno then st.2.cells else [])
  let tops := (s.mem ++ pending).filter (fun c => c.2 == 0x80 && c.1 % 4 == 3 && Nat.ble lo c.1 && Nat.blt c.1 (lo + 2 ^ 31)
    && k.holds (c.1 - lo))
  (sortUniq (tops.map (fun c => c.1 - lo - 3))).filter (fun a =>
    ofBytes ((upto 4).map (fun i => s.view e.core e.strand e.bno (lo + a + i))) == 2 ^ 31)

/-- The last line of R184 for the counters that no entry hits: one that holds 0x8000_0000 is read as -(2^31 - 1) and written back so. -/
def State.settleCounters (s : State) (o : Nat) (e : EngOp) : List Nat → State
  | [] => s
  | a :: as => State.settleCounters (s.engCells o e (cellsAt (keyW (dieOf e.core) a) (bytesLE 4 (2 ^ 31 + 1)))).1 o e as

/-- The entry of an update list whose counter of some row lies at W address a (R344), 0 for the other operations. -/
def EngOp.entryAt (e : EngOp) (a : Nat) : Nat :=
  match e.kind, e.skeins with
  | .skupd .., k :: _ =>
    ((numbered 0 (entriesOf (dwords e.data (e.data.length / 8)) (e.data.length / 16))).find? (fun p =>
      (upto k.depth).any (fun j => k.addr j (k.bucket j p.2.1) == a))).elim 0 Prod.fst
  | _, _ => 0

/-- The counters that the next update of a sketch operation writes: its own, and with the last of a SKUPD those it only saturates. -/
def EngOp.nextCounters (e : EngOp) (s : State) : List Nat :=
  let a := (e.nextUpdate s).1
  match e.kind, e.skeins with
  | .skupd .., k :: _ => if e.next + 1 == e.updates then a :: s.minCounters e k else [a]
  | _, _ => [a]

/-- One counter update of a sketch operation (R230), after the strand's earlier sketch operations and its earlier accesses to the
counter (R172). -/
def execSketchUpdate (op : Nat) (s : State) : Host.Outcome State Fault Refusal :=
  match s.op? op with
  | none => .next s
  | some e =>
    let a := (e.nextUpdate s).1
    if e.skeins.isEmpty || Nat.ble e.updates e.next then .next s
    else if s.sketchBehind op e || (e.nextCounters s).any (fun b => s.opEarly e (keyW (dieOf e.core) b)) then .next (s.retryOp e true (.sketchUpdate op))
    else match s.oneUpdate op e with
      | (s1, some key) => .next (s1.failOp op (e.fault 0x16 (granuleAddr key) (e.entryAt a) (poisonBits key + spaceBits 1)))
      | (s0, none) =>
        let n := e.next + 1
        let s1 := match e.kind, e.skeins with
          | .skupd .., k :: _ => if n == e.updates then s0.settleCounters op e (s0.minCounters e k) else s0
          | _, _ => s0
        let s2 := s1.modOp op (fun x => { x with next := n })
        let cyc := (s.core e.core).cyc
        if Nat.blt n e.updates then .next (s2.at_ e.core (Nat.max cyc (e.at_ + 20 + n / e.rate)) true e.strand (.sketchUpdate op))
        else .next (s2.at_ e.core (Nat.max cyc (e.at_ + 20 + ceilDiv e.work e.rate)) true e.strand (.engineComplete op))

/-- The slot of a query (R185). -/
def Skein.answer (k : Skein) (ctr : Nat → Int) (idx : List Nat) : SlotBits :=
  BitVec.ofNat 2048 (ofLanes 32 (idx.map (fun i => k.query ctr (i % 2 ^ 48))))

/-- The end of a SKQRY: its slot is written; a poisoned counter fails it. It waits for the strand's earlier accesses to its counters
(R234). -/
def State.endQuery (s : State) (o : Nat) (e : EngOp) (idx : List Nat) : State :=
  match e.skeins with
  | [] => s
  | k :: _ =>
    let bad := if s.poison.isEmpty then none else (numbered 0 idx).findSome? (fun p => (upto k.depth).findSome? (fun j =>
      let key := keyW (dieOf e.core) (k.addr j (k.bucket j (p.2 % 2 ^ 48)))
      if s.opPoison e key then some (key, p.1) else none))
    let early := idx.any (fun i => (upto k.depth).any (fun j => s.opEarly e (keyW (dieOf e.core) (k.addr j (k.bucket j (i % 2 ^ 48))))))
    if early then s.again e.core false e.strand (.engineComplete o)
    else match bad with
    | some (key, lane) => s.failNow o e (e.fault 0x16 (granuleAddr key) lane (poisonBits key + spaceBits 1))
    | none => s.presentNow o e 0x0B (k.answer (s.counter e) idx)

end Sys2Proof.Machine
end

