-- ==== Sys2Proof/Machine/Pump.lean ====
section
/-! DEFINITION. Pumps (R208-R222, R379-R383): the submission of programs, binding, the timing checks, the commands, the data routes,
refresh and its guard, service windows, page splits. -/

namespace Sys2Proof.Machine

/-! ### Words and addresses -/

/-- The pump status word (R215). -/
def pumpStatus (cmd chk off : Nat) : Nat := cmd * 2 ^ 28 + chk * 2 ^ 24 + Nat.min off (2 ^ 24 - 1)

/-- The page number of a page entry: DIE, GRP, BANK, RBLK as one frame (R216, R267). -/
def pageOf (entry : Nat) : Nat := entry % 2 ^ 23

/-- Whether a page's row block lies in a function's tenant row window (R217). -/
def State.rowWindow (s : State) (fn entry : Nat) : Bool :=
  let w := (Table.getD s.host.prwin fn 0).toNat
  fn == 0 || (bit w 63 && Nat.ble (fld w 0 14) (fld entry 0 14) && Nat.ble (fld entry 0 14) (fld w 32 14))

/-- What keeps a pump from n bytes of its program's P or W space (R116, R421, R393): the cause and the fault address. -/
def State.pumpItem (s : State) (g : Prog) (w : Bool) (a n : Nat) (read : Bool) : Option (Nat × Nat) :=
  match s.addrBad g.core g.strand w (a : Int) n 8 with
  | some (cause, _) => some (cause, a)
  | none =>
    let t := s.strand g.core g.strand
    let bno := match s.op? g.op with | some e => e.bno | none => t.flow.bno + 1
    if !w && (t.blocksAt bno a n).any (fun b => match t.block b.1 b.2 with | .clean => false | .dirty => false | _ => true) then some (0x0A, a)
    else
      let key := if w then keyW (dieOf g.core) a else keyP g.core a
      if !read || s.poison.isEmpty then none
      else (((upto n).map (fun i => key + i)).find? (match s.op? g.op with | some e => s.opPoison e | none => s.poisoned)).map
        (fun k => (0x16, granuleAddr k))

/-- Bytes of the program's P or W space as its operation reads them (R172). -/
def State.pumpBytes (s : State) (g : Prog) (w : Bool) (a n : Nat) : List Byte :=
  let key := if w then keyW (dieOf g.core) a else keyP g.core a
  (upto n).map (fun i => match s.op? g.op with | some e => s.opView e (key + i) | none => s.byte (key + i))

/-- Word i of a program (R209). -/
def State.progWord (s : State) (g : Prog) (i : Nat) : Except (Nat × Nat) Nat :=
  let a := g.padr + 8 * i
  match s.pumpItem g g.w a 8 true with
  | some x => .error x
  | none => .ok (ofBytes (s.pumpBytes g g.w a 8))

/-- A failure of a program (R215). -/
def State.pumpTrap (s : State) (g : Prog) (cause addr index cmd chk off : Nat) : Trap :=
  match s.op? g.op with
  | some e => e.fault cause addr index (pumpStatus cmd chk off)
  | none => { cause := cause, kind := .deferred, addr := dw addr, aux := 0, engine := none, itl := 0 }

def pumpDelta (v : Nat) : Nat := fld v 44 16
def pumpRt (v : Nat) : Nat := fld v 42 2
def pumpDofs (v : Nat) : Nat := fld v 22 20
def pumpSlot (v : Nat) : Nat := fld v 4 12
def pumpLen (v : Nat) : Nat := fld v 16 16

/-- The bits a command may use beside CMD and DELTA (R210, R211). -/
def pumpUsed (cmd : Nat) : Nat :=
  match cmd with
  | 1 => 2 ^ 21 - 1 | 2 => 2 ^ 44 - 1 | 3 => 2 ^ 44 - 1 | 4 => 15 | 7 => 15 | 8 => (2 ^ 16 - 1) * 2 ^ 16 | _ => 0

/-- Whether a word keeps its layout (R211). -/
def pumpWordOk (v : Nat) : Bool :=
  let cmd := fld v 60 4
  let low := v % 2 ^ 44
  (Nat.ble 1 cmd && Nat.ble cmd 9 || cmd == 15) && (upto 44).all (fun i => !bit low i || bit (pumpUsed cmd) i)
    && !(cmd == 2 && pumpRt v == 3) && !(cmd == 3 && Nat.ble 2 (pumpRt v)) && !(cmd == 8 && pumpLen v == 0)

/-- The words of a KSIG's tail from index i up (R222): none is a bad tail; a word that cannot be read gives its index and fault. -/
def State.tailWords (s : State) (g : Prog) (i : Nat) : Nat → Except (Nat × Nat × Nat) (Option (List Nat))
  | 0 => .ok none
  | n + 1 =>
    match s.progWord g i with
    | .error (c, a) => .error (i, c, a)
    | .ok v =>
      let cmd := fld v 60 4
      if !pumpWordOk v || !(cmd == 4 || cmd == 5 || cmd == 6 || cmd == 7 || cmd == 15) then .ok none
      else if cmd == 15 then .ok (some [v])
      else match State.tailWords s g (i + 1) n with
        | .ok (some vs) => .ok (some (v :: vs))
        | r => r

/-- The queue a program's queue route names. -/
def State.routeQueue (s : State) (g : Prog) : Queue := s.queue g.core g.strand (fld g.hdr0 53 4)

/-- The data address of a RD or WR by its route (R217, R219): space W or not, address. -/
def Prog.dataAddr (g : Prog) (v : Nat) : Bool × Nat :=
  let p := fld v 60 4 == 3 && pumpRt v == 1
  (!p, (if p then fld g.hdr0 31 22 else fld g.hdr0 0 31) + 32 * pumpDofs v)

/-- Why command word v at index i and cycle c fails the program, in the order of R215. -/
def State.cmdTrap (s : State) (p : Pump) (g : Prog) (i v c : Nat) : Option Trap :=
  let cmd := fld v 60 4
  let bank := fld v 0 4
  let off := g.off + pumpDelta v
  let wa := g.padr + 8 * i
  let bad := fun (cause addr chk : Nat) => some (s.pumpTrap g cause addr i cmd chk off)
  let entry := g.slots.getD (pumpSlot v) 0
  let queueRd := cmd == 2 && pumpRt v == 1
  let sketchRd := cmd == 2 && pumpRt v == 2
  let tail := if cmd == 9 then s.tailWords g (i + 1) 8 else .ok (some [])
  if !pumpWordOk v || (queueRd && (!g.qok || Nat.ble 8 (pumpDofs v) || (pumpDofs v != 0 && !(s.routeQueue g).wide)))
      || (sketchRd && (g.skein.isNone || pumpDofs v != 0)) || (match tail with | .ok none => true | _ => false) then bad 0x18 wa 0
  else match tail with
  | .error (j, cause, a) => some (s.pumpTrap g cause a j cmd 0 off)
  | _ =>
    if i != 2 && pumpDelta v == 0 then bad 0x0D wa 0xE
    else if (cmd == 1 || cmd == 2 || cmd == 3) && (Nat.ble g.nsl (pumpSlot v) || fld entry 14 4 != bank
        || (cmd != 1 && (match (p.hist.bank bank).opened with | some (sl, _) => sl != pumpSlot v | none => false))) then bad 0x0E wa 0
    else if cmd == 3 && Nat.blt 1 (Table.getD s.disp.refs (pageOf entry) 0) then bad 0x0F (pageOf entry * 2 ^ 18) 0
    else
      let data :=
        if cmd == 3 || (cmd == 2 && pumpRt v == 0) then s.pumpItem g (g.dataAddr v).1 (g.dataAddr v).2 32 (cmd == 3)
        else if sketchRd then (g.skein.bind Prod.snd).map (fun a => (0x1A, a)) else none
      match data, p.failing cmd bank c with
      | some (cause, a), _ => bad cause a 0
      | none, k :: _ => bad 0x0D wa k
      | none, [] => none

/-! ### What a pump does next -/

/-- The next thing a pump does in a CK cycle. -/
inductive PumpDo
  | finish (op : Nat) (fail : Option Trap)
  | data (id : Nat) (wr : Bool)
  | rise
  | bind
  | start
  | refresh
  | command (v : Nat)
  | cut (t : Trap) (op : Nat)
  | own (cmd bank : Nat)
  | tail (v : Nat)
  | split
deriving DecidableEq, Repr

/-- The PSPLIT that is the first request to wait for a pump's channel, with its old and its new page (R189, R221). -/
def State.splitOn (s : State) (pump : Nat) : Option (Nat × EngOp × Nat × Nat) :=
  match s.fab.calls.find? (fun c => (s.callPumps c).contains pump) with
  | some c =>
    c.split.bind (fun o => (s.op? o).bind (fun e => match e.vals with
      | (_, old) :: (_, new) :: _ => some (o, e, old.toNat, new.toNat)
      | _ => none))
  | none => none

/-- The channel copies one row of a page to another in CK cycle c: it reads the row, and writes it once the data is there (R221). It takes
the next row once the requests before it have moved their data. -/
def Pump.copyRow (p : Pump) (old new row c : Nat) : Option Pump :=
  let (h1, last, pre) := p.request p.hist (fld old 14 4) (old % 2 ^ 14 * 32 + row) 64 false c
  let (h2, last2, pre2) := p.request h1 (fld new 14 4) (new % 2 ^ 14 * 32 + row) 64 true (last + p.rl + 2)
  if Nat.ble p.colEnd c && p.fits h2 c then
    some { p with hist := h2, dyn := none, colEnd := last2, dynPre := Nat.max p.dynPre (Nat.max pre pre2) }
  else none

/-- The next row that a pump can copy for a PSPLIT: the operation, its pages, the row, and the pump after it. -/
def State.splitNext (s : State) (pump : Nat) : Option (Nat × EngOp × Nat × Nat × Nat × Pump) :=
  match s.splitOn pump with
  | none => none
  | some (o, e, old, new) =>
    let row := splitRows e.vals (pump % 4)
    ((s.pump pump).copyRow old new row s.env.ck).map (fun p => (o, e, old, new, row, p))

/-- The next thing pump p does in the CK cycle `c`. A program starts once the refreshes that the pump made for it are complete, TRFCAB after
the last (R214, R220), and with every bank closed. DESIGN CHOICE (log entry 31): it is bound in the first CK cycle after its submission in
which no other program is on the pump, before the owed refreshes; a word that cannot be read cuts the program off at once, with the offset
of the command before it. -/
def State.pumpNext (s : State) (pump : Nat) : Option PumpDo :=
  let p := s.pump pump
  let c := s.env.ck
  let busy := p.cmdAt == some c
  let rest := if (s.splitNext pump).isSome then some .split else none
  match p.ended.find? (fun e => Nat.blt e.last c && !p.data.any (fun d => d.2.op == e.op)) with
  | some e => some (.finish e.op e.fail)
  | none =>
    match p.data.find? (fun d => Nat.ble d.2.due c) with
    | some (id, d) => some (.data id (d.route == 3))
    | none =>
      if (match p.timer with | some t => Nat.ble t c | none => false) then some .rise
      else match p.prog with
      | none =>
        (match p.queue with
        | g :: _ => if Nat.blt g.start c then some .bind else if p.owed != 0 && p.legal 6 0 c && !busy then some .refresh else rest
        | [] => if p.owed != 0 && p.legal 6 0 c && !busy then some .refresh else rest)
      | some g =>
        match g.phase with
        | .queued => none
        | .bound =>
          if p.owed != 0 then (if p.legal 6 0 c && !busy then some .refresh else rest)
          else if Nat.ble g.start c && since p.refAt p.tRFCab c && Nat.blt p.dynPre c then some .start else rest
        | .running =>
          (match s.progWord g g.next with
          | .error (cause, a) => some (.cut (s.pumpTrap g cause a g.next 0 0 g.off) g.op)
          | .ok v =>
            let at_ := g.start + g.off + pumpDelta v
            if Nat.ble at_ c then
              (match g.lost with
              | some (arr, t) => if Nat.blt arr at_ then some (.cut t g.op) else some (.command v)
              | none => some (.command v))
            else match p.window with
              | some (lo, hi) =>
                if Nat.ble lo c && Nat.ble (c + p.tRFCab) (hi + 1) && p.owed != 0 && p.legal 6 0 c && !busy then some .refresh else rest
              | none => none)
        | .tail =>
          (match g.tail with
          | [] => none
          | v :: _ =>
            let cmd := fld v 60 4
            let bank := fld v 0 4
            if busy || Nat.blt c (g.start + g.off + pumpDelta v) then none
            else if (cmd == 6 || cmd == 15) && p.hist.anyOpen then (if p.legal 5 0 c then some (.own 5 0) else none)
            else if cmd == 7 && p.hist.isOpen bank then (if p.legal 4 bank c then some (.own 4 bank) else none)
            else if p.legal cmd bank c then some (.tail v) else none)
        | .closing =>
          if g.closed then (if p.legal 6 0 c && !busy then some (.own 6 0) else none)
          else if p.legal 5 0 c && !(busy && p.hist.anyOpen) then some (.own 5 0) else none

/-- The fields of a command the pump issues of its own. -/
def ownFields (bank : Nat) : PumpFields := { delta := 0, rt := 0, dofs := 0, col := 0, slot := 0, bank := BitVec.ofNat 4 bank }

/-- The row of what a pump does next. -/
def PumpDo.row (pump : Nat) : PumpDo → Option Instr
  | .finish op none => some (.engineComplete op)
  | .finish op (some t) => some (.engineFail op t)
  | .data id true => some (.wrPerformed pump id)
  | .data id false => some (.rdDataDelivery pump id)
  | .rise => some (.refreshTimer pump)
  | .bind => some (.programStart pump)
  | .start => some (.programStart pump)
  | .refresh => some (.owedRefresh pump)
  | .cut t op => some (.engineFail op t)
  | .own cmd bank => some (match cmd with | 4 => .pre pump (ownFields bank) | 5 => .prea pump (ownFields 0) | _ => .refab pump (ownFields 0))
  | .tail v => decodePump pump v
  | .command v => decodePump pump v
  | .split => some (.dynamicTraffic pump)

/-- The row of what a pump does next; a word with a reserved CMD is cut off as it stands (R211). -/
def State.pumpRow (s : State) (pump : Nat) : Option Instr :=
  match s.pumpNext pump with
  | none => none
  | some d =>
    match d.row pump, d with
    | some i, _ => some i
    | none, .command v =>
      (match (s.pump pump).prog with
      | some g => some (.engineFail g.op (s.pumpTrap g 0x18 (g.padr + 8 * g.next) g.next (fld v 60 4) 0 (g.off + pumpDelta v)))
      | none => none)
    | none, _ => none

/-! ### The commands -/

/-- A running program is cut off (R215). -/
def Prog.cutBy (g : Prog) (t : Trap) : Prog := { g with phase := .closing, fail := some t }

def Pump.modProg (p : Pump) (f : Prog → Prog) : Pump := { p with prog := p.prog.map f }

/-- The program leaves the pump; its knot is told unless KSIG already did (R222, R380). -/
def Pump.leave (p : Pump) (g : Prog) (c : Nat) : Pump :=
  { p with
    prog := none, window := none
    ended := if g.ksig then p.ended else p.ended ++ [{ op := g.op, last := c, fail := g.fail, sealed := false }] }

/-- A closing command of the pump itself: PREA, then after a guard REFAB (R215, R220). -/
def Pump.ownCommand (p : Pump) (cmd bank c : Nat) : Pump :=
  let p1 := p.issue cmd bank 0 0 c
  match p.prog with
  | none => p1
  | some g =>
    match g.phase with
    | .closing =>
      if cmd == 5 && g.guard then p1.modProg (fun x => { x with closed := true }) else p1.leave g c
    | _ => p1

/-- A command of the tail (R222). -/
def Pump.tailCommand (p : Pump) (v c : Nat) : Pump :=
  let cmd := fld v 60 4
  let p1 := (p.issue cmd (fld v 0 4) 0 0 c).modProg (fun g => { g with tail := g.tail.drop 1, off := g.off + pumpDelta v })
  match p1.prog with
  | some g => if cmd == 15 then p1.leave g c else p1
  | none => p1

/-- The bytes of the burst of a RD or WR: their key in LPDDR-5X (R19). -/
def Prog.burstKey (g : Prog) (p : Pump) (pump v : Nat) : Nat :=
  let row := match (p.hist.bank (fld v 0 4)).opened with | some (_, r) => r % 32 | none => 0
  keyL (pageOf (g.slots.getD (pumpSlot v) 0) * 2 ^ 18 + row * 2 ^ 13 + fld v 16 6 * 2 ^ 7 + pump % 4 * 2 ^ 5)

/-- The data of a RD or WR that issues in this cycle. -/
def State.burst (s : State) (p : Pump) (g : Prog) (pump v : Nat) : PData :=
  let key := g.burstKey p pump v
  let base := { op := g.op, due := 0, word := g.next, off := g.off + pumpDelta v, route := 0, part := 0, dest := 0, bytes := [] : PData }
  if fld v 60 4 == 3 then
    { base with
      due := s.env.ck + p.wl + 2, route := 3, dest := key
      bytes := s.pumpBytes g (g.dataAddr v).1 (g.dataAddr v).2 32 }
  else
    { base with
      due := s.env.ck + p.rl + 18, route := pumpRt v, part := pumpDofs v % 8, bytes := s.bytes key 32
      dest := if pumpRt v == 0 then keyW (dieOf g.core) (g.dataAddr v).2 else fld g.hdr0 53 10
      bad := if s.poisoned key then some key else none }

/-- A command of a running program (R214, R215): it fails the program, or it issues. -/
def State.pumpCommand (s : State) (pump v : Nat) : State :=
  let p := s.pump pump
  let c := s.env.ck
  match p.prog with
  | none => s
  | some g =>
    match s.cmdTrap p g g.next v c with
    | some t => s.modPump pump (fun x => x.modProg (fun y => y.cutBy t))
    | none =>
      let cmd := fld v 60 4
      let entry := g.slots.getD (pumpSlot v) 0
      let (id, s1) := s.fresh
      let s2 := s1.modPump pump (fun x =>
        let x1 := (x.issue cmd (fld v 0 4) (pumpSlot v) (entry % 2 ^ 14 * 32 + fld v 16 5) c).modProg
          (fun y => { y with next := y.next + 1, off := y.off + pumpDelta v })
        { x1 with window := none, data := if cmd == 2 || cmd == 3 then Table.set x1.data id (s.burst p g pump v) else x1.data })
      match cmd with
      | 8 => s2.modPump pump (fun x => { x with window := some (c + 1, c + pumpLen v) })
      | 9 =>
        (match s.tailWords g (g.next + 1) 8 with
        | .ok (some ws) => s2.modPump pump (fun x =>
            { x.modProg (fun y => { y with phase := .tail, ksig := true, tail := ws }) with
              ended := x.ended ++ [{ op := g.op, last := c, fail := none, sealed := true }] })
        | _ => s2)
      | 15 => s2.modPump pump (fun x => match x.prog with | some y => x.leave y c | none => x)
      | _ => s2

/-- A command row: it happens when it is what the pump does next. -/
def pumpExec (i : Instr) (pump : Nat) (s : State) : Host.Outcome State Fault Refusal :=
  if s.pumpRow pump == some i then
    match s.pumpNext pump with
    | some (.command v) => .next (s.pumpCommand pump v)
    | some (.tail v) => .next (s.modPump pump (fun p => p.tailCommand v s.env.ck))
    | some (.own cmd bank) => .next (s.modPump pump (fun p => p.ownCommand cmd bank s.env.ck))
    | _ => .next s
  else .next s

/-- ACT opens a row (R211). -/
def execAct (pump : Nat) (w : PumpFields) (s : State) : Host.Outcome State Fault Refusal := pumpExec (.act pump w) pump s
/-- RD reads a burst of the open row (R211, R219). -/
def execRd (pump : Nat) (w : PumpFields) (s : State) : Host.Outcome State Fault Refusal := pumpExec (.rd pump w) pump s
/-- WR writes a burst of the open row (R211, R219). -/
def execWr (pump : Nat) (w : PumpFields) (s : State) : Host.Outcome State Fault Refusal := pumpExec (.wr pump w) pump s
/-- PRE closes a bank (R211). -/
def execPre (pump : Nat) (w : PumpFields) (s : State) : Host.Outcome State Fault Refusal := pumpExec (.pre pump w) pump s
/-- PREA closes every open bank (R211): a program's, or the pump's own closing one (R215). -/
def execPrea (pump : Nat) (w : PumpFields) (s : State) : Host.Outcome State Fault Refusal := pumpExec (.prea pump w) pump s
/-- REFAB refreshes every bank (R211, R220). -/
def execRefab (pump : Nat) (w : PumpFields) (s : State) : Host.Outcome State Fault Refusal := pumpExec (.refab pump w) pump s
/-- REFPB refreshes one bank (R211, R220). -/
def execRefpb (pump : Nat) (w : PumpFields) (s : State) : Host.Outcome State Fault Refusal := pumpExec (.refpb pump w) pump s
/-- SLOTS opens a service window (R221). -/
def execSlots (pump : Nat) (w : PumpFields) (s : State) : Host.Outcome State Fault Refusal := pumpExec (.slots pump w) pump s
/-- KSIG is the program's early completion point (R222). -/
def execKsig (pump : Nat) (w : PumpFields) (s : State) : Host.Outcome State Fault Refusal := pumpExec (.ksig pump w) pump s
/-- PEND ends the program (R214, R222). -/
def execPend (pump : Nat) (w : PumpFields) (s : State) : Host.Outcome State Fault Refusal := pumpExec (.pend pump w) pump s

/-! ### Submission, binding and start -/

/-- Whether one submitted program goes before another (R188). -/
def Prog.before (a b : Prog) : Bool :=
  if a.start != b.start then Nat.blt a.start b.start
  else if a.core != b.core then Nat.blt a.core b.core
  else if a.strand != b.strand then Nat.blt a.strand b.strand else Nat.blt a.op b.op

def insertProg (g : Prog) : List Prog → List Prog
  | [] => [g]
  | x :: xs => if g.before x then g :: x :: xs else x :: insertProg g xs

/-- The start of a PUMP (R188): its program is submitted. -/
def State.startPump (s : State) (o : Nat) (e : EngOp) (sub list : Nat) : Began :=
  let nsl := fld list 32 13
  if fld sub 37 27 != 0 || Nat.ble 24 (fld sub 32 5) || fld sub 0 31 % 8 != 0 || fld list 45 19 != 0 || fld list 22 10 != 0
      || nsl == 0 || Nat.blt 4096 nsl || fld list 0 22 % 8 != 0 then .fail s (e.fault 0x18 e.pc 0 0)
  else
    let g : Prog := { op := o, fn := e.fn, task := e.task, core := e.core, strand := e.strand, w := bit sub 31, padr := fld sub 0 31,
                      ladr := fld list 0 22, nsl := nsl, start := s.env.ck }
    .go (s.modPump (dieOf e.core * 24 + fld sub 32 5) (fun p => { p with queue := insertProg g p.queue }))

/-- The page entries of a program, read and checked (R216). -/
def State.bindSlots (s : State) (g : Prog) (pump : Nat) : Nat → List Nat → Except Trap (List Nat)
  | 0, acc => .ok acc
  | n + 1, acc =>
    let i := acc.length
    let a := g.ladr + 8 * i
    match s.pumpItem g false a 8 true with
    | some (cause, x) => .error (s.pumpTrap g cause x i 0 0 0)
    | none =>
      let v := ofBytes (s.pumpBytes g false a 8)
      if !bit v 63 || fld v 23 40 != 0 || fld v 21 2 != pump / 24 || fld v 18 3 != pump % 24 / 4 || !s.rowWindow g.fn v then
        .error (s.pumpTrap g 0x0E a i 0 0 0)
      else State.bindSlots s g pump n (acc ++ [v])

/-- The header and the binding of a program (R209, R216). -/
def State.bindProg (s : State) (g : Prog) (pump : Nat) : Except Trap Prog :=
  match s.progWord g 0, s.progWord g 1 with
  | .error (c, a), _ => .error (s.pumpTrap g c a 0 0 0 0)
  | .ok _, .error (c, a) => .error (s.pumpTrap g c a 1 0 0 0)
  | .ok h0, .ok h1 =>
    if fld h0 0 5 != 0 || fld h0 31 5 != 0 then .error (s.pumpTrap g 0x18 g.padr 0 0 0 0)
    else if fld h1 31 32 != 0 then .error (s.pumpTrap g 0x18 (g.padr + 8) 1 0 0 0)
    else match s.bindSlots g pump g.nsl [] with
      | .error t => .error t
      | .ok vs => .ok { g with phase := .bound, start := s.env.ck + ceilDiv g.nsl 8, hdr0 := h0, hdr1 := h1, slots := vs }

/-- The skein of a program's sketch route (R219, R224). -/
def State.routeSkein (s : State) (g : Prog) : Option (Skein × Option Nat) :=
  let a := fld g.hdr1 0 31
  if !bit g.hdr1 63 || (s.addrBad g.core g.strand true (a : Int) 32 32).isSome || (s.pumpItem g true a 32 true).isSome then none
  else (skeinOf (dwords (s.pumpBytes g true a 32) 4)).map (fun k => (k, k.reserved))

/-- A program's start: what it requires of its routes is looked at now (R219). -/
def State.runProg (s : State) (g : Prog) : Prog :=
  let q := s.routeQueue g
  { g with
    phase := .running, start := s.env.ck, skein := s.routeSkein g
    qok := bit g.hdr0 63 && q.en && !q.gsrc && !q.gtgt && tagOk (fld g.hdr0 57 6) && fld g.hdr0 57 6 != 0 }

/-- PROGRAM_START: the pump's next program is bound, and later, once the refreshes are made, starts (R214, R216, R220). -/
def execProgramStart (pump : Nat) (s : State) : Host.Outcome State Fault Refusal :=
  match s.pumpNext pump with
  | some .bind =>
    (match (s.pump pump).queue with
    | [] => .next s
    | g :: gs =>
      let g1 := match s.bindProg g pump with
        | .ok x => x
        | .error t => { g with phase := .closing, fail := some t }
      .next (s.modPump pump (fun p => { p with queue := gs, prog := some g1 })))
  | some .start =>
    (match (s.pump pump).prog with
    | none => .next s
    | some g =>
      let g1 := s.runProg g
      .next ((s.modPump pump (fun p => { p with prog := some g1 })).modOp g.op (fun e => { e with skeins := (g1.skein.map Prod.fst).toList })))
  | _ => .next s

/-! ### Data (R219) -/

def State.dropData (s : State) (pump id : Nat) : State := s.modPump pump (fun p => { p with data := Table.erase p.data id })

/-- The knot of the data's program leaves pending no earlier than the cycle after this one. -/
def State.dataDone (s : State) (pump op : Nat) : State :=
  s.modPump pump (fun p => { p with ended := p.ended.map (fun e => if e.op == op then { e with last := Nat.max e.last s.env.ck } else e) })

/-- A burst is lost on its route: the program fails at its first command after this cycle (R219); after PEND the knot fails; after a
valid KSIG nothing fails (R222). -/
def State.lost (s : State) (pump : Nat) (d : PData) (cause addr : Nat) : State :=
  match s.op? d.op with
  | none => s
  | some e =>
    let t := e.fault cause addr d.word (pumpStatus 2 0 d.off)
    s.modPump pump (fun p =>
      { p with
        prog := p.prog.map (fun g => if g.op == d.op && g.lost.isNone && !g.ksig then { g with lost := some (s.env.ck, t) } else g)
        ended := p.ended.map (fun x => if x.op == d.op && !x.sealed && x.fail.isNone then { x with fail := some t } else x) })

/-- The byte address of a program word, for the record of a lost burst. -/
def State.wordAddr (s : State) (op word : Nat) : Nat :=
  match s.op? op with
  | some e => (match e.kind with | .pump sub _ => fld sub 0 31 + 8 * word | _ => 0)
  | none => 0

/-- The queue route (R219): parts gather in the assembly slot; four scalar slots, or the whole vector slot with part 7, arrive as a
grafted arrival does (R34), each laid out by TAGQ (R48, R51). DESIGN CHOICE (log entry 31): R219 names a full queue only; a scalar queue with
fewer than four free slots discards the whole burst as a full one does. -/
def State.queueRoute (s : State) (pump : Nat) (d : PData) (e : EngOp) : State :=
  let q := d.dest % 16
  let tag := d.dest / 16
  let x := s.queue e.core e.strand q
  if x.wide then
    let old := if e.data.isEmpty then List.replicate 256 0 else e.data
    let asm := old.take (32 * d.part) ++ d.bytes ++ old.drop (32 * d.part + 32)
    if d.part != 7 then s.modOp d.op (fun y => { y with data := asm })
    else
      let s1 := s.modOp d.op (fun y => { y with data := [] })
      if x.free == 0 then s1.lost pump d 0x1B (s.wordAddr d.op d.word)
      else s1.arrive e.core e.strand q tag (slotLayout true true tag (ofBytes asm))
  else if Nat.blt x.free 4 then s.lost pump d 0x1B (s.wordAddr d.op d.word)
  else (dwords d.bytes 4).foldl (fun (s1 : State) w => s1.arrive e.core e.strand q tag (slotLayout false ((s.strand e.core e.strand).laneBits tag != 4) tag w)) s

/-- Update counters one after another: the key of a poisoned unit stops it. -/
def State.bumps (s : State) (o : Nat) (e : EngOp) : List (Nat × Int) → State × Option Nat
  | [] => (s, none)
  | (a, d) :: ds =>
    match s.bump o e a (fun x => x + d) with
    | (s1, some k) => (s1, some k)
    | (s1, none) => State.bumps s1 o e ds

/-- The counter updates of a burst of the sketch route (R219): its two entries are one update. -/
def PData.deltas (d : PData) (k : Skein) : Table Int :=
  let w := fun (i : Nat) => ofBytes ((d.bytes.drop (8 * i)).take 8)
  k.deltas [(w 0 % 2 ^ 48, w 1 % 2 ^ 32), (w 2 % 2 ^ 48, w 3 % 2 ^ 32)]

/-- The sketch route (R219): the counters that the entries hit, then those that the last line of R184 saturates. -/
def State.sketchRoute (s : State) (pump : Nat) (d : PData) (e : EngOp) : State :=
  match e.skeins with
  | [] => s
  | k :: _ =>
    match s.bumps d.op e (d.deltas k) with
    | (s1, none) => s1.settleCounters d.op e (s1.minCounters e k)
    | (s1, some key) => s1.lost pump d 0x16 (granuleAddr key)

/-- The keys of W that the data of a RD writes by its route (R219). -/
def State.routeKeys (s : State) (d : PData) (e : EngOp) : List Nat :=
  match d.route, e.skeins with
  | 0, _ => (upto d.bytes.length).map (fun i => d.dest + i)
  | 2, k :: _ => ((d.deltas k).map Prod.fst ++ s.minCounters e k).map (keyW (dieOf e.core))
  | _, _ => []

/-- The data arrives a CK cycle later. -/
def State.delayData (s : State) (pump id : Nat) (d : PData) : State :=
  s.modPump pump (fun p => { p with data := Table.set p.data id { d with due := s.env.ck + 1 } })

/-- RD_DATA_DELIVERY: the data of a RD arrives by its route (R219), after the strand's earlier accesses to what it writes (R172); an
uncorrectable burst is discarded (R393). -/
def execRdDataDelivery (pump id : Nat) (s : State) : Host.Outcome State Fault Refusal :=
  match Table.get? (s.pump pump).data id with
  | none => .next s
  | some d =>
    if d.route == 3 || Nat.blt s.env.ck d.due then .next s
    else
      let s1 := (s.dropData pump id).dataDone pump d.op
      match s.op? d.op with
      | none => .next s1
      | some e =>
        if d.bad.isNone && (s.routeKeys d e).any (s.opEarly e) then .next (s.delayData pump id d)
        else match d.bad, d.route with
        | some key, _ => .next (s1.lost pump d 0x16 (granuleAddr key))
        | none, 0 =>
          (match s1.engCells d.op e (cellsAt d.dest d.bytes) with
          | (s2, none) => .next s2
          | (s2, some key) => .next (s2.lost pump d 0x16 (granuleAddr key)))
        | none, 1 => .next (s1.queueRoute pump d e)
        | none, _ => .next (s1.sketchRoute pump d e)

/-- WR_PERFORMED: the data of a WR reaches its page (R219). -/
def execWrPerformed (pump id : Nat) (s : State) : Host.Outcome State Fault Refusal :=
  match Table.get? (s.pump pump).data id with
  | none => .next s
  | some d =>
    if d.route != 3 || Nat.blt s.env.ck d.due then .next s
    else
      let s1 := (s.dropData pump id).dataDone pump d.op
      match s.op? d.op with
      | some e => .next (s1.engCells d.op e (cellsAt d.dest d.bytes)).1
      | none => .next (s1.putCells (cellsAt d.dest d.bytes)).1

/-! ### Refresh (R220, R381) -/

/-- The refresh guard (R381): it withholds the next command of a running program and fails it, or ends a tail. -/
def State.guard (s : State) (g : Prog) : Prog :=
  match g.phase with
  | .running =>
    let t := match s.progWord g g.next with
      | .ok v => s.pumpTrap g 0x0D (g.padr + 8 * g.next) g.next (fld v 60 4) 0xD (g.off + pumpDelta v)
      | .error _ => s.pumpTrap g 0x0D (g.padr + 8 * g.next) g.next 0 0xD g.off
    { g with phase := .closing, guard := true, fail := some t }
  | .tail => { g with phase := .closing, guard := true }
  | _ => g

/-- REFRESH_TIMER: D rises (R220), and at 9 the guard acts. -/
def execRefreshTimer (pump : Nat) (s : State) : Host.Outcome State Fault Refusal :=
  match s.pumpNext pump with
  | some .rise =>
    let p := s.pump pump
    let p1 := { p with owed := p.owed + 1, timer := some (s.env.ck + Nat.max 1 p.tREFI) }
    .next (s.modPump pump (fun _ => if Nat.ble 9 p1.owed then p1.modProg s.guard else p1))
  | _ => .next s

/-- OWED_REFRESH: a REFAB between programs or in a service window (R220, R221). -/
def execOwedRefresh (pump : Nat) (s : State) : Host.Outcome State Fault Refusal :=
  match s.pumpNext pump with
  | some .refresh =>
    .next (s.modPump pump (fun p => { p.issue 6 0 0 0 s.env.ck with refAt := if p.window.isNone then some s.env.ck else p.refAt }))
  | _ => .next s

/-! ### Page splits (R189, R382, R383) -/

/-- Whether a page word names a page: V is set and GRP is a pump group. -/
def pageWord (v : Nat) : Bool := bit v 63 && Nat.blt (fld v 18 3) 6

/-- The start of a PSPLIT: a reserved bit or a group 6 or 7 in the entry, or a reserved bit in B, is a layout fault (R354); any other B
that R189 refuses a pump address fault. `vals` keep the old and the new page. -/
def State.startPsplit (s : State) (o : Nat) (e : EngOp) (va page : Nat) : Began :=
  if va % 8 != 0 then .fail s (e.fault 0x18 va 0 (spaceBits 2))
  else match s.engRead o e 2 ((upto 8).map (fun i => ((va + i : Nat) : Int))) with
    | (.wait, s1) => .wait s1
    | (.bad c a st _, s1) => .fail s1 (e.fault c a 0 st)
    | (.ok bs, s1) =>
      let old := ofBytes bs
      if fld old 23 40 != 0 || (bit old 63 && !pageWord old) then .fail s1 (e.fault 0x18 va 0 (spaceBits 2))
      else if pageWord old && Table.getD s1.disp.refs (pageOf old) 0 == 1 then .go (s1.completeIn o e 0)
      else if fld page 23 40 != 0 then .fail s1 (e.fault 0x18 va 0 (spaceBits 2))
      else if !pageWord old || !pageWord page || fld old 18 5 != fld page 18 5 || !s1.rowWindow e.fn page
          || Table.getD s1.disp.refs (pageOf page) 0 != 0 then .fail s1 (e.fault 0x0E va 0 (spaceBits 2))
      else .go ((s1.modOp o (fun x => { x with vals := [(0, (pageOf old : Int)), (1, (pageOf page : Int))] })).setCalls
        (s1.fab.calls ++ [{ write := true, bursts := [], left := [], split := some o }]))

/-- The keys of a row of a page on one channel (R19). -/
def rowKeys (page row ch : Nat) : List Nat :=
  (upto 64).flatMap (fun i => (upto 32).map (fun j => keyL (page * 2 ^ 18 + row * 2 ^ 13 + i * 2 ^ 7 + ch * 2 ^ 5 + j)))

/-- DYNAMIC_TRAFFIC: the pump copies one row of its channel of a page being split (R189, R221). `next` counts the rows of the four
channels. -/
def execDynamicTraffic (pump : Nat) (s : State) : Host.Outcome State Fault Refusal :=
  match s.pumpNext pump, s.splitNext pump with
  | some .split, some (o, e, old, new, row, p) =>
    let ch := pump % 4
    let from_ := rowKeys old row ch
    let s0 := s.modPump pump (fun _ => p)
    (match s0.firstPoison from_ with
    | some k => .next (s0.failOp o (e.fault 0x16 (granuleAddr k) 0 (poisonBits k + spaceBits 2)))
    | none =>
      let s1 := (s0.putCells ((rowKeys new row ch).zip (from_.map s0.byte))).1
      let s2 := s1.modOp o (fun x =>
        { x with next := x.next + 1, vals := x.vals.filter (fun v => v.1 != 2 + ch) ++ [(2 + ch, ((row + 1 : Nat) : Int))] })
      .next (if e.next + 1 == 128 then s2.at_ e.core ((s2.core e.core).cyc) true e.strand (.psplitCommit o) else s2))
  | _, _ => .next s

/-- Whether a program of the same task that is not over has a page bound (R383). -/
def State.boundBy (s : State) (e : EngOp) (page : Nat) : Bool :=
  s.pumps.any (fun (x : Nat × Pump) => match x.2.prog with
    | some g => g.fn == e.fn && g.task == e.task && g.phase != .queued && g.slots.any (fun v => pageOf v == page)
    | none => false)

/-- The counts of a page split change (R189). -/
def State.splitDone (s : State) (op old new : Nat) : State :=
  ((s.setRefs new 1).setRefs old (Table.getD s.disp.refs old 0 - 1)).endOp op true

/-- PSPLIT_COMMIT: the list entry and then the counts change, in one step where the entry lies in this module (R189, R383), and with the
acknowledgement where it lies in another (R305). -/
def execPsplitCommit (op : Nat) (s : State) : Host.Outcome State Fault Refusal :=
  match s.op? op with
  | none => .next s
  | some e =>
    match e.kind, e.vals with
    | .psplit va page, (_, old) :: (_, new) :: _ =>
      let again := fun (s1 : State) => s1.retryOp e true (.psplitCommit op)
      let as := (upto 8).map (fun i => ((va + i : Nat) : Int))
      let bs := bytesLE 8 page
      if e.next != 128 then .next s
      else if !e.data.isEmpty then
        (match s.farDone op e bs with
        | (.ok _, s1) => .next (s1.splitDone op old.toNat new.toNat)
        | (.wait, s1) => .next (again s1)
        | (.bad c a st _, s1) => .next (s1.failOp op (e.fault c a 0 st)))
      else if s.boundBy e old.toNat then .next (again s)
      else
        (match s.spots e 2 true 0 as with
        | (.wait, s1) => .next (again s1)
        | (.bad c a st _, s1) => .next (s1.failOp op (e.fault c a 0 st))
        | (.ok xs, s1) =>
          match s1.writeHere op e xs bs with
          | (none, s2) => .next (again s2)
          | (some (some k), s2) => .next (s2.failOp op (e.fault 0x16 (granuleAddr k) 0 (poisonBits k + spaceBits 2)))
          | (some none, s2) =>
            match farRuns 0 (as.zip xs) with
            | [] => .next (s2.splitDone op old.toNat new.toNat)
            | rs =>
              match s2.startRuns op e .write bs rs with
              | .ok s3 => .next (again (s3.modOp op (fun x => { x with data := bs })))
              | .error a => .next (s2.failOp op (e.fault 0x14 a 0 (spaceBits 2))))
    | _, _ => .next s

/-! ### Scrub (R397) -/

/-- The scrub reads a unit: an LPDDR-5X row as dynamic traffic of its channel (R221, R397), which may not take it now. -/
def State.scrubReads (s : State) (store : ScrubStore) (key : Nat) : Bool × State :=
  match store with
  | .lpddr => s.takeBursts false [key]
  | _ => (true, s)

/-- The text page of a die that a key lies in (R284). -/
def textPageAt (key : Nat) : Option (Nat × Nat) :=
  let wa := (key - 2 ^ 34) % 2 ^ 31
  let off := wa % 2 ^ 25
  if Nat.ble (2 ^ 34) key && Nat.blt key (2 ^ 42) && Nat.ble 0x01F00000 off && Nat.blt off 0x01FC0000 then
    some (dieOfKey key, wa / 2 ^ 25 * 3 + (off - 0x01F00000) / 0x40000)
  else none

/-- A scrub that finds an uncorrectable unit of a text page finds the page poisoned (R398). -/
def State.scrubPage (s : State) (key : Nat) : State :=
  match textPageAt key with
  | some (d, p) => s.modDie d (fun x => { x with badText := insertPage p x.badText })
  | none => s

/-- PATROL_SCRUB: the scrub reads a unit; an uncorrectable one is poisoned; the event is counted (R397). -/
def execPatrolScrub (store : ScrubStore) (key : Nat) (found : ScrubFinding) (s : State) : Host.Outcome State Fault Refusal :=
  match s.scrubReads store key with
  | (false, s0) => .next s0
  | (true, s0) =>
    match rasField store found with
    | none => .next s0
    | some lo =>
      let s1 := s0.rasInc (dieOfKey key) lo
      .next (match found with
        | .uncorrectable => let s1 := s1.scrubPage key
          if s1.poisoned key then s1 else { s1 with poison := s1.poison ++ [unitOf key] }
        | _ => s1)

end Sys2Proof.Machine
end

