-- ==== Sys2Proof/Machine/Stores.lean ====
section
/-! DEFINITION. Stores performed (R123, R124, R172, R385, R393): what a store waits for, what the engine operations of its strand still read
as it was, and its bytes. -/

namespace Sys2Proof.Machine

/-! ### What engine operations still read (R172) -/

/-- The keys of the granules that some cells lie in (R233). -/
def granuleKeys (cells : List (Nat × Byte)) : List Nat :=
  (sortUniq (cells.map (fun c => c.1 / 64))).flatMap (fun g => (upto 64).map (fun i => g * 64 + i))

/-- The bytes at keys as they stand, none in a poisoned unit, laid into a shadow that does not have them yet. -/
def State.shadowed (s : State) (m : Table (Option Byte)) : List Nat → Table (Option Byte)
  | [] => m
  | k :: ks =>
    State.shadowed s (if (Table.get? m k).isSome then m else Table.set m k (if s.poisoned k then none else some (s.byte k))) ks

/-- A store of bundle `bno` and an operation of its strand (R172): one issued in that bundle or before still reads the store's granules as
they were; a later one reads the store. -/
def State.shadowOp (s : State) (core strand bno : Nat) (cells : List (Nat × Byte)) (p : Nat × EngOp) : Nat × EngOp :=
  if p.2.core == core && p.2.strand == strand then
    (p.1, { p.2 with shadow := if Nat.ble p.2.bno bno then s.shadowed p.2.shadow (granuleKeys cells) else shadowWrite p.2.shadow cells })
  else p

def State.shadowOps (s : State) (core strand bno : Nat) (cells : List (Nat × Byte)) : State :=
  { s with ops := s.ops.map (s.shadowOp core strand bno cells) }

/-! ### What a store waits for -/

/-- The skein whose counters a pump program updates (R219): bound, as its header names it, or as the header stands. -/
def State.progSkein (s : State) (g : Prog) : Option Skein :=
  match g.phase with
  | .queued => (match s.progWord g 1 with | .ok h => (s.routeSkein { g with hdr1 := h }).map Prod.fst | .error _ => none)
  | .bound => (s.routeSkein g).map Prod.fst
  | _ => g.skein.map Prod.fst

/-- The program of an operation, submitted or not yet. -/
def State.progOf (s : State) (o : Nat) (e : EngOp) (sub list : Nat) : Prog :=
  ((s.pumps.flatMap (fun (p : Nat × Pump) => p.2.prog.toList ++ p.2.queue)).find? (fun g => g.op == o)).getD
    { op := o, fn := e.fn, task := e.task, core := e.core, strand := e.strand, w := bit sub 31, padr := fld sub 0 31, ladr := fld list 0 22,
      nsl := fld list 32 13 }

/-- Whether an operation may still read, change and write the unit of a key (R182, R184, R186, R219): a store of its own strand in its own
bundle or a later one comes after that update, whole (R172, R230). Before a sketch operation has read its skein any key of W may be. -/
def State.updates (s : State) (o : Nat) (e : EngOp) (key : Nat) : Bool :=
  let wa := key - keyW (dieOf e.core) 0
  let inW := Nat.ble (2 ^ 34) key && Nat.blt key (2 ^ 42)
  let sketch := inW && (match e.skeins with | [] => true | k :: _ => Nat.blt e.next e.updates && k.holds wa)
  match e.kind with
  | .scata _ _ tagA _ a _ =>
    key / 2 ^ 22 == e.core && (scataLanes tagA a).any (fun p => decide (p.2 ≤ (key % 2 ^ 22 : Nat)) && decide (((key % 2 ^ 22 : Nat) : Int) < p.2 + 4))
  | .skupd .. => sketch
  | .skadd .. => sketch
  | .skscale .. => sketch
  | .skclr .. => sketch
  | .pump sub list => inW && (match s.progSkein (s.progOf o e sub list) with | some k => k.holds wa | none => false)
  | _ => false

/-- Whether an update that comes before a store is still to be made. -/
def State.updating (s : State) (c : Nat) (st : PStore) : Bool :=
  s.ops.any (fun p => p.2.core == c && p.2.strand == st.strand && Nat.ble p.2.bno st.bno && st.cells.any (fun x => s.updates p.1 p.2 x.1))

/-- What an output store of a stitch run writes is read by the operations that a chain of knots orders after the run (R234). -/
def State.showRow (s : State) (c : Nat) (cells : List (Nat × Byte)) : State :=
  match (s.core c).row.run with
  | some r => s.showBehind r.op cells
  | none => s

/-- A store is performed (R123): its bytes are written. Cells in a poisoned unit that it does not cover are discarded (R393). -/
def execStorePerformed (core id : Nat) (s : State) : Host.Outcome State Fault Refusal :=
  match Table.get? (s.core core).flight.stores id with
  | none => .next s
  | some st =>
    let later := s.again core false st.strand (.storePerformed core id)
    if (s.core core).flight.earlier (dieOf core) st id || (!st.row && s.updating core st) then .next later
    else match (if st.row then some s else s.storeTouches core st st.grans) with
      | none => .next later
      | some s1 =>
        let s2 := if st.row then s1.showRow core st.cells else s1.shadowOps core st.strand st.bno st.cells
        let s3 := s2.modFlight core (fun f => { f with stores := Table.erase f.stores id })
        match s3.putCells st.cells with
        | (s4, none) => .next s4
        | (s4, some key) => .next (if st.row then s4.rowPoison core st key else s4.deferPoison core st.strand st.tl key)

end Sys2Proof.Machine
end

