-- ==== Sys2Proof/Machine/EngineRows.lean ====
section
/-! DEFINITION. The E slot (R169-R195): what each syllable captures at issue, and the start, completion and failure of an operation. -/

namespace Sys2Proof.Machine

/-! ### Issue -/

/-- The scalar values of A and B. -/
def State.opA (s : State) (f : Fields) : Nat := (s.opd f.a).u
def State.opB (s : State) (f : Fields) : Nat := (s.opd f.b).u

/-- The narrow tags whose fd image names 4-bit elements, as a bitmap (R45, R118). -/
def State.nibbles (s : State) : Nat := ofBits ((upto 16).filter (fun i => s.me.laneBits (0x10 + i) == 4))

/-- Whether dst is a WIDE queue of the strand. -/
def State.dstIsWide (s : State) (f : Fields) : Bool := f.dst != 31 && (s.me.queue f.dst.toNat).wide

/-- COPY (R177). -/
def copyEff (f : Fields) (s : State) : State := engEff 0 f (fun s => .copy (s.opA f) (s.opB f)) s
/-- COPYF (R179). -/
def copyfEff (f : Fields) (s : State) : State := engEff 0 f (fun s => .copyf (f.m 6 2) (s.opA f) (s.opB f)) s
/-- CPQ (R180): c slots are reserved. -/
def cpqEff (f : Fields) (s : State) : State :=
  engAppend 0 f 0 (s.opB f) (fun s => .cpq (s.opA f) (s.opB f) (s.dstIsWide f) s.nibbles) s
/-- SCATA (R181). -/
def scataEff (f : Fields) (s : State) : State :=
  let a := s.opd f.a
  let b := s.opd f.b
  engEff 1 f (fun _ => .scata (f.m 6 2) (f.m 8 2) a.tag b.tag (BitVec.ofNat 2048 a.val) (BitVec.ofNat 2048 b.val)) s
/-- SKUPD (R184). -/
def skupdEff (f : Fields) (s : State) : State := engEff 2 f (fun s => .skupd (s.opA f) (s.opB f)) s
/-- The indices of a SKQRY: of a vector B, or the one index (R185). -/
def State.queryIndex (s : State) (f : Fields) : List Nat × Bool :=
  let b := s.opd f.b
  if !f.b.isLit && ((s.core s.bundle.core).win s.bundle.strand f.b.qsel.toNat).wide then (lanes 64 b.val, true) else ([b.u], false)
/-- SKQRY (R185). -/
def skqryEff (f : Fields) (s : State) : State :=
  engAppend 2 f 0x0B 1 (fun s => .skqry (s.opA f) (s.queryIndex f).1 (s.queryIndex f).2) s
/-- SKADD (R186). -/
def skaddEff (f : Fields) (s : State) : State := engEff 2 f (fun s => .skadd (s.opA f) (s.opB f)) s
/-- SKSCALE (R186). -/
def skscaleEff (f : Fields) (s : State) : State := engEff 2 f (fun s => .skscale (s.opA f) (s.opB f)) s
/-- SKCLR (R186). -/
def skclrEff (f : Fields) (s : State) : State := engEff 2 f (fun s => .skclr (s.opA f)) s
/-- PUMP (R188). -/
def pumpEff (f : Fields) (s : State) : State := engEff 3 f (fun s => .pump (s.opA f) (s.opB f)) s
/-- PSPLIT (R189). -/
def psplitEff (f : Fields) (s : State) : State := engEff 3 f (fun s => .psplit (s.opA f) (s.opB f)) s
/-- MAPR (R190). -/
def maprEff (f : Fields) (s : State) : State := engEff 4 f (fun s => .mapr (s.opA f) (s.opB f)) s
/-- MAPREQ (R191). -/
def mapreqEff (f : Fields) (s : State) : State := engEff 4 f (fun s => .mapreq (s.opA f) (s.opB f)) s
/-- KJOIN (R192). -/
def kjoinEff (f : Fields) (s : State) : State := engEff 7 f (fun _ => .kjoin) s
/-- MLDR (R194): one slot is reserved. -/
def mldrEff (f : Fields) (s : State) : State :=
  engAppend 5 f (mldrTag (f.m 8 2)) 1 (fun s => .mldr (f.m 6 2) (f.m 8 2) (s.opA f) (s.opB f)) s
/-- COLL (R196). -/
def collEff (f : Fields) (s : State) : State := engEff 5 f (fun s => .coll (s.opA f) (s.opB f)) s

def execCopy (f : Fields) (s : State) : Host.Outcome State Fault Refusal := issueOne (.copy f) (copyEff f) s
def execCopyf (f : Fields) (s : State) : Host.Outcome State Fault Refusal := issueOne (.copyf f) (copyfEff f) s
def execCpq (f : Fields) (s : State) : Host.Outcome State Fault Refusal := issueOne (.cpq f) (cpqEff f) s
def execScata (f : Fields) (s : State) : Host.Outcome State Fault Refusal := issueOne (.scata f) (scataEff f) s
def execSkupd (f : Fields) (s : State) : Host.Outcome State Fault Refusal := issueOne (.skupd f) (skupdEff f) s
def execSkqry (f : Fields) (s : State) : Host.Outcome State Fault Refusal := issueOne (.skqry f) (skqryEff f) s
def execSkadd (f : Fields) (s : State) : Host.Outcome State Fault Refusal := issueOne (.skadd f) (skaddEff f) s
def execSkscale (f : Fields) (s : State) : Host.Outcome State Fault Refusal := issueOne (.skscale f) (skscaleEff f) s
def execSkclr (f : Fields) (s : State) : Host.Outcome State Fault Refusal := issueOne (.skclr f) (skclrEff f) s
def execPump (f : Fields) (s : State) : Host.Outcome State Fault Refusal := issueOne (.pump f) (pumpEff f) s
def execPsplit (f : Fields) (s : State) : Host.Outcome State Fault Refusal := issueOne (.psplit f) (psplitEff f) s
def execMapr (f : Fields) (s : State) : Host.Outcome State Fault Refusal := issueOne (.mapr f) (maprEff f) s
def execMapreq (f : Fields) (s : State) : Host.Outcome State Fault Refusal := issueOne (.mapreq f) (mapreqEff f) s
def execKjoin (f : Fields) (s : State) : Host.Outcome State Fault Refusal := issueOne (.kjoin f) (kjoinEff f) s
def execMldr (f : Fields) (s : State) : Host.Outcome State Fault Refusal := issueOne (.mldr f) (mldrEff f) s
def execColl (f : Fields) (s : State) : Host.Outcome State Fault Refusal := issueOne (.coll f) (collEff f) s

/-! ### Start (R169) -/

/-- The start of a SCATA: it takes its turn in its core's order (R182). -/
def State.startScata (s : State) (o : Nat) (e : EngOp) : Began :=
  let wait := if (s.core e.core).scaOrder.isEmpty then 14 else 1
  .go ((s.modCore e.core (fun x => { x with scaOrder := x.scaOrder ++ [o] })).at_ e.core ((s.core e.core).cyc + wait) true e.strand
    (.scataUpdate o))

/-- What an operation does at its start. -/
def State.startOp (s : State) (o : Nat) (e : EngOp) : Began :=
  match e.kind with
  | .copy d disp => s.startCopy o e .copy d disp
  | .copyf z d _ => s.startCopy o e (.fill z) d 0
  | .cpq d _ _ _ => s.startCopy o e .queue d 0
  | .scata .. => s.startScata o e
  | .skupd .. => s.startSketch o e
  | .skqry .. => s.startSketch o e
  | .skadd .. => s.startSketch o e
  | .skscale .. => s.startSketch o e
  | .skclr .. => s.startSketch o e
  | .pump sub l => s.startPump o e sub l
  | .psplit va page => s.startPsplit o e va page
  | .mapr w va => s.startMapr o e w va
  | .mapreq va n => s.mapreq o e va n
  | .kjoin => .go (s.completeIn o e 0)
  | .mldr i f g b => s.startMldr o e i f g b
  | .coll a b => s.startColl o e a b
  | .strun => .go s

/-- ENGINE_START: an operation starts once its knots are satisfied (R169); what it must wait for makes it try again in the next cycle; a
COLL under way goes on. -/
def execEngineStart (op : Nat) (s : State) : Host.Outcome State Fault Refusal :=
  match s.op? op with
  | none => .next s
  | some e =>
    match e.phase with
    | .waiting => .next s
    | .working => .next (match e.kind with | .coll .. => s.collGo op | _ => s)
    | .ready =>
      match s.startOp op e with
      | .wait s1 => .next (s1.retryOp e true (.engineStart op))
      | .fail s1 t => .next (s1.failOp op t)
      | .go s1 => .next (s1.modOp op (fun x => { x with phase := .working, at_ := (s.core e.core).cyc, era := some (s.fnFab e.fn).era }))

/-! ### Completion and failure (R171) -/

/-- A program's operation that has ended is forgotten by its pump. -/
def State.dropEnded (s : State) (op : Nat) : State :=
  { s with pumps := s.pumps.map (fun (p : Nat × Pump) => (p.1, { p.2 with ended := p.2.ended.filter (fun e => e.op != op) })) }

/-- ENGINE_COMPLETE: the operation's results are written and its knot becomes done (R171). -/
def execEngineComplete (op : Nat) (s : State) : Host.Outcome State Fault Refusal :=
  match s.op? op with
  | none => .next s
  | some e =>
    if e.phase != .working then .next s
    else match e.kind with
      | .cpq _ count _ _ => .next (s.endCpq op e count)
      | .skqry _ idx _ =>
        if e.units == 1 then .next (s.endOp op true)
        else if s.sketchBehind op e then .next (s.retryOp e false (.engineComplete op)) else .next (s.endQuery op e idx)
      | .mldr i f _ _ => if e.units == 1 then .next (s.endOp op true) else .next (s.endMldr op e i f)
      | .pump .. => .next ((s.dropEnded op).endOp op true)
      | .strun => .next ((s.rowComplete op e).getD (s.retryOp e true (.engineComplete op)))
      | _ => .next (s.endOp op true)

/-- The pump whose running program an operation is. -/
def State.pumpOfOp (s : State) (op : Nat) : Option Nat :=
  (s.pumps.find? (fun p => match p.2.prog with | some g => g.op == op && g.phase == .running | none => false)).map Prod.fst

/-- ENGINE_FAIL: a running pump program is cut off (R215); any other operation fails with its fault (R171). -/
def execEngineFail (op : Nat) (t : Trap) (s : State) : Host.Outcome State Fault Refusal :=
  match s.pumpOfOp op with
  | some p => .next (s.modPump p (fun x => x.modProg (fun g => g.cutBy t)))
  | none =>
    match s.op? op with
    | some e =>
      let s1 := match e.kind, (s.core e.core).row.run with
        | .strun, some r => if r.op == op then s.endRow e.core else s
        | _, _ => s
      .next ((s1.dropEnded op).failOp op t)
    | none => .next s

end Sys2Proof.Machine
end

