-- ==== Sys2Proof/Machine/Spc.lean ====
section
/-! DEFINITION. Swistan portable code (R290-R292): the instructions it covers, the Swistan extension, and what its translation refuses. The
encodings of the covered RISC-V parts are those of the RISC-V unprivileged specification and of RVV 1.0, which R290 names (log entry 10). -/

namespace Sys2Proof.Machine

/-! ### Instructions -/

/-- The computations of RV64I and M on two registers, or a register and an immediate. -/
inductive Alu
  | add | sub | sll | slt | sltu | xor | srl | sra | or | and | mul | mulh | mulhsu | mulhu | div | divu | rem | remu
deriving DecidableEq, Repr

/-- The conditions of the branches. -/
inductive Cond
  | eq | ne | lt | ge | ltu | geu
deriving DecidableEq, Repr

/-- The lane-wise integer computations of RVV that R290 covers. -/
inductive VInt
  | add | sub | rsub | minu | min | maxu | max | and | or | xor | sll | srl | sra | saddu | sadd | ssubu | ssub
  | mul | mulh | mulhu | mulhsu | macc | nmsac | madd | nmsub
deriving DecidableEq, Repr

/-- The integer compares of RVV. -/
inductive VCmp
  | eq | ne | ltu | lt | leu | le | gtu | gt
deriving DecidableEq, Repr

/-- The lane-wise floating-point computations of RVV that R290 covers. -/
inductive VFlt
  | add | sub | mul | div | min | max | sgnj | sgnjn | sgnjx | madd | nmadd | msub | nmsub | macc | nmacc | msac | nmsac
deriving DecidableEq, Repr

/-- The floating-point compares of RVV. -/
inductive VFcmp
  | eq | ne | lt | le
deriving DecidableEq, Repr

/-- How a conversion rounds: by frm, toward zero, or to odd (the larger of two adjacent values where the smaller is even). -/
inductive VRound
  | frm | rtz | odd
deriving DecidableEq, Repr

/-- The numbers a conversion reads or gives. -/
inductive VKind
  | uint | int | flt
deriving DecidableEq, Repr

/-- The width of a conversion's result against that of its source. -/
inductive VSize
  | same | widen | narrow
deriving DecidableEq, Repr

/-- The unary floating-point computations of RVV: conversions, the square root, the class. -/
inductive VFun
  | cvt (z : VSize) (src dst : VKind) (rd : VRound) | sqrt | fclass
deriving DecidableEq, Repr

/-- The reductions of RVV that R290 covers. -/
inductive VRed
  | sum | maxu | max | minu | min | fsum | fmax | fmin
deriving DecidableEq, Repr

/-- The mask logic of RVV. -/
inductive VMask
  | and | nand | andn | or | nor | orn | xor | xnor
deriving DecidableEq, Repr

/-- The second operand of a vector computation. -/
inductive VSrc
  | v (r : Nat) | x (r : Nat) | imm (i : Int)
deriving DecidableEq, Repr

/-- Where the addresses of a vector access come from. -/
inductive VAddr
  | unit | strided (rs2 : Nat) | indexed (vs2 : Nat) | mask | whole (n : Nat)
deriving DecidableEq, Repr

/-- How vset{i}vl{i} gets its length, and its type. -/
inductive Avl
  | reg (rs1 : Nat) | imm (n : Nat)
deriving DecidableEq, Repr

inductive VType
  | imm (t : Nat) | reg (rs2 : Nat)
deriving DecidableEq, Repr

/-- What an extension instruction performs (R291): a native operation of a slot, a KWAIT, or the pop of a result queue. -/
inductive Ext
  | native (sl : Slot) (op : Nat) | kwait | pop
deriving DecidableEq, Repr

/-- An instruction of SPC. Offsets of jumps, branches and accesses are signed; `w32` marks the word forms. -/
inductive Spc
  | lui (rd : Nat) (imm : Int)
  | auipc (rd : Nat) (imm : Int)
  | jal (rd : Nat) (off : Int)
  | jalr (rd rs1 : Nat) (off : Int)
  | branch (c : Cond) (rs1 rs2 : Nat) (off : Int)
  | load (n : Nat) (signed : Bool) (rd rs1 : Nat) (off : Int)
  | store (n rs1 rs2 : Nat) (off : Int)
  | aluImm (op : Alu) (w32 : Bool) (rd rs1 : Nat) (imm : Int)
  | alu (op : Alu) (w32 : Bool) (rd rs1 rs2 : Nat)
  | fence
  | ecall
  | ebreak
  | csr (op : Nat) (uimm : Bool) (rd rs1 csr : Nat)
  | vset (rd : Nat) (avl : Avl) (t : VType)
  | vload (eew : Nat) (a : VAddr) (vm : Bool) (vd rs1 : Nat)
  | vstore (eew : Nat) (a : VAddr) (vm : Bool) (vs3 rs1 : Nat)
  | vint (op : VInt) (vm : Bool) (vd vs2 : Nat) (b : VSrc)
  | vcmp (op : VCmp) (vm : Bool) (vd vs2 : Nat) (b : VSrc)
  | vflt (op : VFlt) (vm : Bool) (vd vs2 vs1 : Nat)
  | vfcmp (op : VFcmp) (vm : Bool) (vd vs2 vs1 : Nat)
  | vfun (op : VFun) (vm : Bool) (vd vs2 : Nat)
  | vred (op : VRed) (vm : Bool) (vd vs2 vs1 : Nat)
  | vmask (op : VMask) (vd vs2 vs1 : Nat)
  | vcpop (vm : Bool) (rd vs2 : Nat)
  | vgather (vm : Bool) (vd vs2 : Nat) (b : VSrc) (half : Bool)
  | vslide (up vm : Bool) (vd vs2 : Nat) (b : VSrc)
  | vmerge (vd vs2 : Nat) (b : VSrc)
  | vmv (vd : Nat) (b : VSrc)
  | vmvXs (rd vs2 : Nat)
  | vmvSx (vd rs1 : Nat)
  | vmvR (n vd vs2 : Nat)
  | ext (e : Ext) (rd rs1 rs2 : Nat)
deriving DecidableEq, Repr

/-! ### Decoding (R290, R291) -/

def aluOf (f3 : Nat) : Alu :=
  match f3 with
  | 0 => .add | 1 => .sll | 2 => .slt | 3 => .sltu | 4 => .xor | 5 => .srl | 6 => .or | _ => .and

def mulOf (f3 : Nat) : Alu :=
  match f3 with
  | 0 => .mul | 1 => .mulh | 2 => .mulhsu | 3 => .mulhu | 4 => .div | 5 => .divu | 6 => .rem | _ => .remu

/-- RV64I and M on two registers. -/
def decodeAlu (w32 : Bool) (f7 f3 rd rs1 rs2 : Nat) : Option Spc :=
  let wordOk := fun (ok : List Nat) => !w32 || ok.contains f3
  if f7 == 0 && wordOk [0, 1, 5] then some (.alu (aluOf f3) w32 rd rs1 rs2)
  else if f7 == 1 && wordOk [0, 4, 5, 6, 7] then some (.alu (mulOf f3) w32 rd rs1 rs2)
  else if f7 == 0x20 && f3 == 0 then some (.alu .sub w32 rd rs1 rs2)
  else if f7 == 0x20 && f3 == 5 then some (.alu .sra w32 rd rs1 rs2)
  else none

/-- RV64I on a register and an immediate; shift amounts have six bits, in the word forms five. -/
def decodeAluImm (w32 : Bool) (w f3 rd rs1 : Nat) : Option Spc :=
  let hi := if w32 then fld w 25 7 * 2 else fld w 26 6 * 4
  let sh : Int := ((fld w 20 (if w32 then 5 else 6) : Nat) : Int)
  match f3 with
  | 1 => if hi == 0 then some (.aluImm .sll w32 rd rs1 sh) else none
  | 5 => if hi == 0 then some (.aluImm .srl w32 rd rs1 sh) else if hi == 0x40 then some (.aluImm .sra w32 rd rs1 sh) else none
  | 0 => some (.aluImm .add w32 rd rs1 (sval 12 (fld w 20 12)))
  | _ => if w32 then none else some (.aluImm (aluOf f3) false rd rs1 (sval 12 (fld w 20 12)))

/-- The CSRs that R290 covers. -/
def csrCovered (n : Nat) : Bool :=
  [0x001, 0x002, 0x003, 0x008, 0x009, 0x00A, 0x00F, 0xC20, 0xC21, 0xC22, 0x8C0, 0x8C1].contains n

def decodeSystem (w f3 rd rs1 : Nat) : Option Spc :=
  if w == 0x00000073 then some .ecall
  else if w == 0x00100073 then some .ebreak
  else if f3 % 4 != 0 && csrCovered (fld w 20 12) then some (.csr (f3 % 4) (Nat.ble 4 f3) rd rs1 (fld w 20 12))
  else none

def condOf (f3 : Nat) : Option Cond :=
  match f3 with
  | 0 => some .eq | 1 => some .ne | 4 => some .lt | 5 => some .ge | 6 => some .ltu | 7 => some .geu | _ => none

/-- The element width of a vector access. -/
def eewOf (f3 : Nat) : Option Nat :=
  match f3 with
  | 0 => some 8 | 5 => some 16 | 6 => some 32 | 7 => some 64 | _ => none

/-- The addressing of a vector load or store (R290): no segments, no fault-only-first loads, no ordered indexing. -/
def vaddrOf (load : Bool) (w f3 : Nat) : Option VAddr :=
  let nf := fld w 29 3
  let rs2 := fld w 20 5
  let vm := bit w 25
  if bit w 28 then none
  else match fld w 26 2 with
    | 0 =>
      if rs2 == 0 && nf == 0 then some .unit
      else if rs2 == 0xB && nf == 0 && f3 == 0 && vm then some .mask
      else if rs2 == 8 && vm && [0, 1, 3, 7].contains nf && (load || f3 == 0) then some (.whole (nf + 1))
      else none
    | 1 => if nf == 0 then some (.indexed rs2) else none
    | 2 => if nf == 0 then some (.strided rs2) else none
    | _ => none

/-- vset{i}vl{i}; fractional LMUL is not covered. -/
def decodeVset (w rd rs1 : Nat) : Option Spc :=
  if !bit w 31 then (if bit w 22 then none else some (.vset rd (.reg rs1) (.imm (fld w 20 11))))
  else if bit w 30 then (if bit w 22 then none else some (.vset rd (.imm rs1) (.imm (fld w 20 10))))
  else if fld w 25 7 == 0x40 then some (.vset rd (.reg rs1) (.reg (fld w 20 5))) else none

/-- Integer vector computations of OPIVV, OPIVX and OPIVI: `form` is 0 for a vector, 1 for a register, 2 for an immediate. -/
def decodeOpi (f6 form : Nat) (vm : Bool) (vd vs2 r1 : Nat) : Option Spc :=
  let s : VSrc := match form with | 0 => .v r1 | 1 => .x r1 | _ => .imm (sval 5 r1)
  let u : VSrc := match form with | 2 => .imm ((r1 : Nat) : Int) | _ => s
  let has := fun (ok : Nat) => bit ok form
  let int := fun (op : VInt) (ok : Nat) (b : VSrc) => if has ok then some (Spc.vint op vm vd vs2 b) else none
  let cmp := fun (op : VCmp) (ok : Nat) => if has ok then some (Spc.vcmp op vm vd vs2 s) else none
  match f6 with
  | 0x00 => int .add 7 s | 0x02 => int .sub 3 s | 0x03 => int .rsub 6 s
  | 0x04 => int .minu 3 s | 0x05 => int .min 3 s | 0x06 => int .maxu 3 s | 0x07 => int .max 3 s
  | 0x09 => int .and 7 s | 0x0A => int .or 7 s | 0x0B => int .xor 7 s
  | 0x0C => some (.vgather vm vd vs2 u false)
  | 0x0E => some (if form == 0 then .vgather vm vd vs2 u true else .vslide true vm vd vs2 u)
  | 0x0F => if has 6 then some (.vslide false vm vd vs2 u) else none
  | 0x17 => if vm then (if vs2 == 0 then some (.vmv vd s) else none) else some (.vmerge vd vs2 s)
  | 0x18 => cmp .eq 7 | 0x19 => cmp .ne 7 | 0x1A => cmp .ltu 3 | 0x1B => cmp .lt 3
  | 0x1C => cmp .leu 7 | 0x1D => cmp .le 7 | 0x1E => cmp .gtu 6 | 0x1F => cmp .gt 6
  | 0x20 => int .saddu 7 s | 0x21 => int .sadd 7 s | 0x22 => int .ssubu 3 s | 0x23 => int .ssub 3 s
  | 0x25 => int .sll 7 u | 0x28 => int .srl 7 u | 0x29 => int .sra 7 u
  | 0x27 => if form == 2 && vm && [0, 1, 3, 7].contains r1 then some (.vmvR (r1 + 1) vd vs2) else none
  | _ => none

/-- Vector computations of OPMVV (`x` clear) and OPMVX. -/
def decodeOpm (f6 : Nat) (x vm : Bool) (vd vs2 r1 : Nat) : Option Spc :=
  let s : VSrc := if x then .x r1 else .v r1
  let int := fun (op : VInt) => some (Spc.vint op vm vd vs2 s)
  let red := fun (op : VRed) => if x then none else some (Spc.vred op vm vd vs2 r1)
  let mask := fun (op : VMask) => if x || !vm then none else some (Spc.vmask op vd vs2 r1)
  match f6 with
  | 0x00 => red .sum | 0x04 => red .minu | 0x05 => red .min | 0x06 => red .maxu | 0x07 => red .max
  | 0x10 =>
    if x then (if vs2 == 0 && vm then some (.vmvSx vd r1) else none)
    else if r1 == 0 && vm then some (.vmvXs vd vs2)
    else if r1 == 0x10 then some (.vcpop vm vd vs2) else none
  | 0x18 => mask .andn | 0x19 => mask .and | 0x1A => mask .or | 0x1B => mask .xor
  | 0x1C => mask .orn | 0x1D => mask .nand | 0x1E => mask .nor | 0x1F => mask .xnor
  | 0x24 => int .mulhu | 0x25 => int .mul | 0x26 => int .mulhsu | 0x27 => int .mulh
  | 0x29 => int .madd | 0x2B => int .nmsub | 0x2D => int .macc | 0x2F => int .nmsac
  | _ => none

/-- The conversion that vs1 names under VFUNARY0: its low three bits say what becomes what, the upper two which side is twice as wide. -/
def vcvtOf (vs1 : Nat) : Option VFun :=
  let z := match vs1 / 8 with | 0 => some VSize.same | 1 => some .widen | 2 => some .narrow | _ => none
  z.bind (fun z =>
    let cvt := fun (src dst : VKind) (rd : VRound) => some (VFun.cvt z src dst rd)
    match vs1 % 8 with
    | 0 => cvt .flt .uint .frm | 1 => cvt .flt .int .frm | 2 => cvt .uint .flt .frm | 3 => cvt .int .flt .frm
    | 4 => if z == .same then none else cvt .flt .flt .frm
    | 5 => if z == .narrow then cvt .flt .flt .odd else none
    | 6 => cvt .flt .uint .rtz | _ => cvt .flt .int .rtz)

/-- Vector computations of OPFVV. No part of R290 has floating-point registers, so there is no vector-scalar form. -/
def decodeOpf (f6 : Nat) (vm : Bool) (vd vs2 vs1 : Nat) : Option Spc :=
  let flt := fun (op : VFlt) => some (Spc.vflt op vm vd vs2 vs1)
  let red := fun (op : VRed) => some (Spc.vred op vm vd vs2 vs1)
  let cmp := fun (op : VFcmp) => some (Spc.vfcmp op vm vd vs2 vs1)
  let un := fun (op : VFun) => some (Spc.vfun op vm vd vs2)
  match f6 with
  | 0x00 => flt .add | 0x01 => red .fsum | 0x02 => flt .sub | 0x04 => flt .min | 0x05 => red .fmin
  | 0x06 => flt .max | 0x07 => red .fmax | 0x08 => flt .sgnj | 0x09 => flt .sgnjn | 0x0A => flt .sgnjx
  | 0x12 => (vcvtOf vs1).bind un
  | 0x13 => if vs1 == 0 then un .sqrt else if vs1 == 0x10 then un .fclass else none
  | 0x18 => cmp .eq | 0x19 => cmp .le | 0x1B => cmp .lt | 0x1C => cmp .ne
  | 0x20 => flt .div | 0x24 => flt .mul
  | 0x28 => flt .madd | 0x29 => flt .nmadd | 0x2A => flt .msub | 0x2B => flt .nmsub
  | 0x2C => flt .macc | 0x2D => flt .nmacc | 0x2E => flt .msac | 0x2F => flt .nmsac
  | _ => none

def decodeOpv (w f3 rd rs1 rs2 : Nat) : Option Spc :=
  let f6 := fld w 26 6
  let vm := bit w 25
  match f3 with
  | 0 => decodeOpi f6 0 vm rd rs2 rs1
  | 3 => decodeOpi f6 2 vm rd rs2 rs1
  | 4 => decodeOpi f6 1 vm rd rs2 rs1
  | 2 => decodeOpm f6 false vm rd rs2 rs1
  | 6 => decodeOpm f6 true vm rd rs2 rs1
  | 1 => decodeOpf f6 vm rd rs2 rs1
  | 7 => decodeVset w rd rs1
  | _ => none

/-- The native instruction that an opcode of a slot names, with fields that say nothing. -/
def nativeOf (sl : Slot) (op : Nat) : Option Instr := sylOf sl op (Fields.ofNat 0)

/-- The native operation whose opcode funct7 gives; an MMA's group of A starts at a multiple of its length (R292). -/
def decodeNative (sl : Slot) (f7 rd rs1 rs2 : Nat) : Option Spc :=
  match nativeOf sl f7 with
  | some i => if (shape i).any (fun sh => sh.a == .run) && rs1 % runLength i != 0 then none else some (.ext (.native sl f7) rd rs1 rs2)
  | none => none

/-- The Swistan extension (R291). -/
def decodeExt (custom1 : Bool) (f7 f3 rd rs1 rs2 : Nat) : Option Spc :=
  match custom1, f3 with
  | false, 0 => decodeNative .m0 f7 rd rs1 rs2
  | false, 1 => decodeNative .m1 f7 rd rs1 rs2
  | false, 2 => decodeNative .e f7 rd rs1 rs2
  | true, 0 => decodeNative .x f7 rd rs1 rs2
  | true, 1 => if f7 == 0 then some (.ext .kwait rd rs1 rs2) else none
  | true, 2 => if f7 == 0 then some (.ext .pop rd rs1 rs2) else none
  | _, _ => none

/-- The instruction in a word of SPC; none is not covered (R290, R291). -/
def decodeSpc (x : Word) : Option Spc :=
  let w := x.toNat
  let f3 := fld w 12 3
  let f7 := fld w 25 7
  let rd := fld w 7 5
  let rs1 := fld w 15 5
  let rs2 := fld w 20 5
  match w % 2 ^ 7 with
  | 0x37 => some (.lui rd (sval 32 (w / 2 ^ 12 * 2 ^ 12)))
  | 0x17 => some (.auipc rd (sval 32 (w / 2 ^ 12 * 2 ^ 12)))
  | 0x6F => some (.jal rd (sval 21 (fld w 21 10 * 2 + fld w 20 1 * 2 ^ 11 + fld w 12 8 * 2 ^ 12 + fld w 31 1 * 2 ^ 20)))
  | 0x67 => if f3 == 0 then some (.jalr rd rs1 (sval 12 (fld w 20 12))) else none
  | 0x63 => (condOf f3).map (fun c =>
      .branch c rs1 rs2 (sval 13 (fld w 8 4 * 2 + fld w 25 6 * 2 ^ 5 + fld w 7 1 * 2 ^ 11 + fld w 31 1 * 2 ^ 12)))
  | 0x03 => if f3 == 7 then none else some (.load (2 ^ (f3 % 4)) (Nat.blt f3 4) rd rs1 (sval 12 (fld w 20 12)))
  | 0x23 => if Nat.ble 4 f3 then none else some (.store (2 ^ f3) rs1 rs2 (sval 12 (rd + f7 * 2 ^ 5)))
  | 0x13 => decodeAluImm false w f3 rd rs1
  | 0x1B => decodeAluImm true w f3 rd rs1
  | 0x33 => decodeAlu false f7 f3 rd rs1 rs2
  | 0x3B => decodeAlu true f7 f3 rd rs1 rs2
  | 0x0F => if f3 == 0 then some .fence else none
  | 0x73 => decodeSystem w f3 rd rs1
  | 0x07 => (eewOf f3).bind (fun e => (vaddrOf true w f3).map (fun a => .vload e a (bit w 25) rd rs1))
  | 0x27 => (eewOf f3).bind (fun e => (vaddrOf false w f3).map (fun a => .vstore e a (bit w 25) rd rs1))
  | 0x57 => decodeOpv w f3 rd rs1 rs2
  | 0x0B => decodeExt false f7 f3 rd rs1 rs2
  | 0x2B => decodeExt true f7 f3 rd rs1 rs2
  | _ => none

/-- The words of an SPC segment. -/
def spcWords : Nat → List Byte → List Word
  | 0, _ => []
  | n + 1, bs => BitVec.ofNat 32 (ofBytes (bs.take 4)) :: spcWords n (bs.drop 4)

/-- Whether the translator covers an SPC segment (R290, R291): whole words, each an instruction that SPC has. -/
def spcCovered (bs : List Byte) : Bool := bs.length % 4 == 0 && (spcWords (bs.length / 4) bs).all (fun w => (decodeSpc w).isSome)

/-! ### The operands of an extension instruction (R292) -/

/-- Where a result goes. -/
inductive SpcDst
  | none | x (rd : Nat) | v (rd : Nat)
deriving DecidableEq, Repr

/-- The result of a native operation: a scalar one to x[rd], none for rd = 0, a vector one to v[rd]. `vecB` tells a B that is a vector, with
which the result of a SKQRY is one (R185); R292 gives it x[rs2], which is none (log entry 10). -/
def extDst (i : Instr) (vecB : Bool) (rd : Nat) : SpcDst :=
  match i with
  | .cpq _ | .mldr _ => .v rd
  | _ => match (shape i).map Shape.dst with
    | some .none | none => .none
    | some .vector => .v rd
    | some .byB => if vecB then .v rd else if rd == 0 then .none else .x rd
    | some _ => if rd == 0 then .none else .x rd

/-- The syllable that an extension instruction performs, but for its source operands: mod and srcC from `swmod`. -/
def extFields (swmod : Dword) : Fields :=
  { dst := 31, a := Src.unused, b := Src.unused, c := Src.ofNat (fld swmod.toNat 10 13), mod := BitVec.ofNat 10 swmod.toNat }

end Sys2Proof.Machine
end

