-- ==== Sys2Proof/Machine/SpcExec.lean ====
section
/-! DEFINITION. What an SPC program computes (R290, R292, R293): the portable machine that a translated program gives every result of, by the
RISC-V unprivileged specification and RVV 1.0, with the choices of R293. What the native text looks like is the translator's (log entry 10). -/

namespace Sys2Proof.Machine

/-- The state of a portable program: x1 to x31, v0 to v31 (2,048 bits each), pc, memory, and the CSRs of R290. `vl` is a length, `vtype` the
low eight bits of the CSR, `vill` its top bit; `turn` counts the instructions, for the free choices of agnostic elements. -/
structure SpcState where
  xs     : Table Dword := []
  vs     : Table Nat := []
  pc     : Dword := 0
  mem    : Mem := []
  frm    : Nat := 0
  vstart : Nat := 0
  vxsat  : Bool := false
  vxrm   : Nat := 0
  vl     : Nat := 0
  vtype  : Nat := 0
  vill   : Bool := true
  swmod  : Dword := 0
  swkst  : Dword := 0
  turn   : Nat := 0
deriving DecidableEq, Repr

/-- What an instruction of a portable program comes to: the next state; a trap with its native cause and the code of a software trap
(R341); a native operation, whose operands and destination R292 gives, with the state in which its result is still to be written; a KWAIT;
the pop of a result queue (Machine/SpcRun.lean performs these three on the strand); or a case in which neither RISC-V nor R290 to R293 says
what happens. -/
inductive SpcOut
  | next (t : SpcState)
  | trap (cause code : Nat)
  | native (sl : Slot) (op : Nat) (a : List Nat) (b : Dword) (dst : SpcDst) (t : SpcState)
  | kwait (knot : Nat) (limit : Dword) (t : SpcState)
  | pop (mq rd : Nat) (t : SpcState)
  | open_
deriving DecidableEq, Repr

def SpcState.x (t : SpcState) (r : Nat) : Dword := if r == 0 then 0 else Table.getD t.xs r 0
def SpcState.setX (t : SpcState) (r : Nat) (v : Dword) : SpcState := if r == 0 then t else { t with xs := Table.set t.xs r v }
def SpcState.v (t : SpcState) (r : Nat) : Nat := Table.getD t.vs r 0
def SpcState.setV (t : SpcState) (r v : Nat) : SpcState := { t with vs := Table.set t.vs r v }

/-- The next instruction. -/
def SpcState.on (t : SpcState) : SpcState := { t with pc := t.pc + 4, turn := t.turn + 1 }

/-- A result in x[rd], and on. -/
def SpcState.put (t : SpcState) (rd : Nat) (v : Dword) : SpcOut := .next (t.setX rd v).on

/-! ### RV64I and M -/

def imm64 (i : Int) : Dword := BitVec.ofInt 64 i

/-- A value as the word forms read and give it: its low 32 bits, sign-extended. -/
def word32 (v : Dword) : Dword := (v.truncate 32).signExtend 64

/-- The quotient and remainder of RISC-V: by zero, and of the overflow (R293). -/
def quotS (n : Nat) (a b : Int) : Int := if b == 0 then -1 else if a == -((2 ^ (n - 1) : Nat) : Int) && b == -1 then a else Int.tdiv a b
def remS (n : Nat) (a b : Int) : Int := if b == 0 then a else if a == -((2 ^ (n - 1) : Nat) : Int) && b == -1 then 0 else Int.tmod a b
def quotU (n a b : Nat) : Nat := if b == 0 then 2 ^ n - 1 else a / b
def remU (a b : Nat) : Nat := if b == 0 then a else a % b

/-- A computation on n-bit values. -/
def aluBits (n : Nat) (op : Alu) (a b : BitVec n) : BitVec n :=
  let sh := b.toNat % n
  match op with
  | .add => a + b
  | .sub => a - b
  | .sll => a <<< sh
  | .srl => a >>> sh
  | .sra => a.sshiftRight sh
  | .slt => if a.toInt < b.toInt then 1 else 0
  | .sltu => if a.toNat < b.toNat then 1 else 0
  | .xor => a ^^^ b
  | .or => a ||| b
  | .and => a &&& b
  | .mul => a * b
  | .mulh => BitVec.ofInt n (a.toInt * b.toInt / ((2 ^ n : Nat) : Int))
  | .mulhsu => BitVec.ofInt n (a.toInt * ((b.toNat : Nat) : Int) / ((2 ^ n : Nat) : Int))
  | .mulhu => BitVec.ofNat n (a.toNat * b.toNat / 2 ^ n)
  | .div => BitVec.ofInt n (quotS n a.toInt b.toInt)
  | .divu => BitVec.ofNat n (quotU n a.toNat b.toNat)
  | .rem => BitVec.ofInt n (remS n a.toInt b.toInt)
  | .remu => BitVec.ofNat n (remU a.toNat b.toNat)

def aluRes (op : Alu) (w32 : Bool) (a b : Dword) : Dword :=
  if w32 then (aluBits 32 op (a.truncate 32) (b.truncate 32)).signExtend 64 else aluBits 64 op a b

def Cond.holds (c : Cond) (a b : Dword) : Bool :=
  match c with
  | .eq => a == b | .ne => a != b
  | .lt => decide (a.toInt < b.toInt) | .ge => decide (b.toInt ≤ a.toInt)
  | .ltu => Nat.blt a.toNat b.toNat | .geu => Nat.ble b.toNat a.toNat

/-- A jump: to a multiple of 4. Of another target R290 to R293 name no cause. -/
def SpcState.jump (t : SpcState) (rd : Nat) (dest : Dword) : SpcOut :=
  if dest.toNat % 4 != 0 then .open_ else .next { t.setX rd (t.pc + 4) with pc := dest, turn := t.turn + 1 }

/-- n bytes from an address up, which wraps at 2^64. -/
def SpcState.bytes (t : SpcState) (a : Dword) (n : Nat) : List Byte := (upto n).map (fun i => Memory.read t.mem ((a.toNat + i) % 2 ^ 64))

def SpcState.putBytes (t : SpcState) (a : Dword) (bs : List Byte) : SpcState :=
  { t with mem := Memory.writeCells t.mem ((upto bs.length).zip bs |>.map (fun p => ((a.toNat + p.1) % 2 ^ 64, p.2))) }

/-! ### CSRs -/

/-- The eight low bits of vtype and its vill. -/
def SpcState.vtypeCsr (t : SpcState) : Nat := if t.vill then 2 ^ 63 else t.vtype

/-- A CSR as it reads: fflags is zero (R293). -/
def SpcState.csr (t : SpcState) (n : Nat) : Nat :=
  match n with
  | 0x002 => t.frm
  | 0x003 => t.frm * 2 ^ 5
  | 0x008 => t.vstart
  | 0x009 => if t.vxsat then 1 else 0
  | 0x00A => t.vxrm
  | 0x00F => (if t.vxsat then 1 else 0) + t.vxrm * 2
  | 0xC20 => t.vl
  | 0xC21 => t.vtypeCsr
  | 0xC22 => 256
  | 0x8C0 => t.swmod.toNat
  | 0x8C1 => t.swkst.toNat
  | _ => 0

/-- A CSR written; none for a read-only one. -/
def SpcState.setCsr (t : SpcState) (n v : Nat) : Option SpcState :=
  match n with
  | 0x001 => some t
  | 0x002 => some { t with frm := v % 8 }
  | 0x003 => some { t with frm := fld v 5 3 }
  | 0x008 => some { t with vstart := v % 2 ^ 11 }
  | 0x009 => some { t with vxsat := bit v 0 }
  | 0x00A => some { t with vxrm := v % 4 }
  | 0x00F => some { t with vxsat := bit v 0, vxrm := fld v 1 2 }
  | 0x8C0 => some { t with swmod := dw v }
  | _ => none

/-- A CSR instruction: 1 writes, 2 sets bits, 3 clears them; a set or clear with no source writes nothing. A write of a read-only CSR is
illegal. -/
def SpcState.doCsr (t : SpcState) (op : Nat) (uimm : Bool) (rd rs1 n : Nat) : SpcOut :=
  let old := dw (t.csr n)
  let src : Dword := if uimm then dw rs1 else t.x rs1
  let new := match op with | 1 => src | 2 => old ||| src | _ => old &&& ~~~ src
  if op != 1 && rs1 == 0 then t.put rd old
  else match t.setCsr n new.toNat with
    | some t1 => t1.put rd old
    | none => .trap 0x02 0

/-! ### The vector state -/

def SpcState.sew (t : SpcState) : Nat := 8 * 2 ^ fld t.vtype 3 3
def SpcState.lmul (t : SpcState) : Nat := 2 ^ fld t.vtype 0 3
def SpcState.vlmax (t : SpcState) : Nat := t.lmul * 2048 / t.sew

/-- Element i, of w bits, of the group from register r up. -/
def SpcState.elem (t : SpcState) (w r i : Nat) : Nat := fld (t.v (r + i / (2048 / w))) (i % (2048 / w) * w) w

def SpcState.setElem (t : SpcState) (w r i v : Nat) : SpcState :=
  let k := r + i / (2048 / w)
  t.setV k (setFld (t.v k) (i % (2048 / w) * w) w v)

/-- Bit i of the mask in a register. -/
def SpcState.maskBit (t : SpcState) (r i : Nat) : Bool := bit (t.v r) i

/-- An element that the policy leaves agnostic: kept, or all ones (RVV 3.4.3); free. -/
def SpcState.agnostic (t : SpcState) (w i old : Nat) : Nat := if Config.freeChoice (t.turn * 2 ^ 12 + i) then old else 2 ^ w - 1

/-- What element i of a destination becomes: below vstart as it is, the body by `g` where its mask bit allows, inactive and tail elements by
their policies. -/
def SpcState.dest (t : SpcState) (w vd : Nat) (vm : Bool) (ta : Bool) (g : Nat → Nat) (i : Nat) : Nat :=
  let old := t.elem w vd i
  if Nat.blt i t.vstart || Nat.ble t.vl t.vstart then old
  else if Nat.ble t.vl i then (if ta then t.agnostic w i old else old)
  else if vm || t.maskBit 0 i then g i
  else if bit t.vtype 7 then t.agnostic w i old else old

/-- The first n elements of a group written from a function of the state before. -/
def SpcState.fillElems (t : SpcState) (w vd n : Nat) (g : Nat → Nat) : SpcState :=
  (upto n).foldl (fun u i => u.setElem w vd i (g i)) t

/-- The end of a vector instruction: vstart is zero. -/
def SpcState.vend (t : SpcState) : SpcOut := .next { t.on with vstart := 0 }

/-- A lane-wise result. -/
def SpcState.lanewise (t : SpcState) (vd : Nat) (vm : Bool) (g : Nat → Nat) : SpcState :=
  t.fillElems t.sew vd t.vlmax (t.dest t.sew vd vm (bit t.vtype 6) g)

/-- A mask result; its tail is always agnostic. -/
def SpcState.maskwise (t : SpcState) (vd : Nat) (vm : Bool) (g : Nat → Bool) : SpcState :=
  t.fillElems 1 vd 2048 (t.dest 1 vd vm true (fun i => if g i then 1 else 0))

/-- The second operand, as w bits. -/
def SpcState.second (t : SpcState) (w : Nat) (b : VSrc) (i : Nat) : Nat :=
  match b with
  | .v r => t.elem w r i
  | .x r => (t.x r).toNat % 2 ^ w
  | .imm n => wrap w n

/-- Whether a register group of vtype's LMUL starts where it may. -/
def SpcState.aligned (t : SpcState) (r : Nat) : Bool := r % t.lmul == 0

def SpcState.srcAligned (t : SpcState) : VSrc → Bool
  | .v r => t.aligned r
  | _ => true

/-! ### Vector arithmetic -/

/-- An integer lane: a is of vs2, b the second operand, d the destination; and whether it saturated. -/
def VInt.lane (op : VInt) (w a b d : Nat) : Nat × Bool :=
  let s := sval w
  let fit := fun (r : Int) => (wrap w r, false)
  let pick := fun (c : Bool) => (if c then a else b, false)
  let satU := fun (r : Int) => (wrap w (satInt r 0 (((2 ^ w : Nat) : Int) - 1)), decide (r < 0) || decide (((2 ^ w : Nat) : Int) ≤ r))
  let satS := fun (r : Int) =>
    let m : Int := ((2 ^ (w - 1) : Nat) : Int)
    (wrap w (satInt r (-m) (m - 1)), decide (r < -m) || decide (m ≤ r))
  let na : Int := ((a : Nat) : Int)
  let nb : Int := ((b : Nat) : Int)
  match op with
  | .add => fit (na + nb) | .sub => fit (na - nb) | .rsub => fit (nb - na)
  | .minu => pick (Nat.ble a b) | .maxu => pick (Nat.ble b a)
  | .min => pick (decide (s a ≤ s b)) | .max => pick (decide (s b ≤ s a))
  | .and => (Nat.land a b, false) | .or => (Nat.lor a b, false) | .xor => (Nat.xor a b, false)
  | .sll => fit (na * ((2 ^ (b % w) : Nat) : Int)) | .srl => (a / 2 ^ (b % w), false) | .sra => fit (s a / ((2 ^ (b % w) : Nat) : Int))
  | .saddu => satU (na + nb) | .ssubu => satU (na - nb) | .sadd => satS (s a + s b) | .ssub => satS (s a - s b)
  | .mul => fit (na * nb)
  | .mulh => fit (s a * s b / ((2 ^ w : Nat) : Int)) | .mulhu => (a * b / 2 ^ w, false) | .mulhsu => fit (s a * nb / ((2 ^ w : Nat) : Int))
  | .macc => fit (nb * na + ((d : Nat) : Int)) | .nmsac => fit (((d : Nat) : Int) - nb * na)
  | .madd => fit (nb * ((d : Nat) : Int) + na) | .nmsub => fit (na - nb * ((d : Nat) : Int))

def VInt.saturates : VInt → Bool
  | .saddu | .sadd | .ssubu | .ssub => true
  | _ => false

def VCmp.holds (op : VCmp) (w a b : Nat) : Bool :=
  match op with
  | .eq => a == b | .ne => a != b | .ltu => Nat.blt a b | .leu => Nat.ble a b | .gtu => Nat.blt b a
  | .lt => decide (sval w a < sval w b) | .le => decide (sval w a ≤ sval w b) | .gt => decide (sval w b < sval w a)

/-- The format of floating-point elements: 32 or 64 bits (R290). -/
def fltOf (w : Nat) : Option IEEE := if w == 32 then some fp32 else if w == 64 then some fp64 else none

/-- frm as a mode of R43. -/
def frmMode (n : Nat) : Option RM := if Nat.blt n 4 then some (RM.ofMod n) else none

/-- A floating-point lane, rounded once; NaN results are canonical (R293). -/
def VFlt.lane (op : VFlt) (f : IEEE) (rm : RM) (a b d : Nat) : Nat :=
  let x := f.value a
  let y := f.value b
  let z := f.value d
  let sum := fun (p q : XVal) => f.round rm (sumX rm [p, q])
  let sgn := fun (s : Bool) => a % 2 ^ (f.eb + f.mb) + (if s then 2 ^ (f.eb + f.mb) else 0)
  let sa := bit a (f.eb + f.mb)
  let sb := bit b (f.eb + f.mb)
  match op with
  | .add => sum x y | .sub => sum x y.neg | .mul => f.round rm (mulX x y) | .div => divX f rm x y
  | .min => minBits f a b | .max => maxBits f a b
  | .sgnj => sgn sb | .sgnjn => sgn (!sb) | .sgnjx => sgn (sa != sb)
  | .macc => sum (mulX y x) z | .nmacc => sum (mulX y x).neg z.neg | .msac => sum (mulX y x) z.neg | .nmsac => sum (mulX y x).neg z
  | .madd => sum (mulX y z) x | .nmadd => sum (mulX y z).neg x.neg | .msub => sum (mulX y z) x.neg | .nmsub => sum (mulX y z).neg x

def VFcmp.holds (op : VFcmp) (f : IEEE) (a b : Nat) : Bool :=
  fcmpHolds (match op with | .eq => 0 | .ne => 1 | .lt => 2 | .le => 3) (f.value a) (f.value b)

/-- A float to an integer of w bits as RISC-V gives it: a NaN gives the greatest value. -/
def toIntRv (rm : RM) (w : Nat) (signed : Bool) (x : XVal) : Nat :=
  let hi : Int := ((2 ^ (if signed then w - 1 else w) : Nat) : Int) - 1
  let lo : Int := if signed then -hi - 1 else 0
  wrap w (if x.isNan then hi else toIntSat rm lo hi x)

/-- An exact value rounded to odd: toward zero, and where that is not exact to the odd one of the two values about it. -/
def IEEE.roundOdd (f : IEEE) (x : XVal) : Nat :=
  let r := f.round .rtz x
  if f.round .rdn x == f.round .rup x then r else r / 2 * 2 + 1

/-- The value of a lane of w bits, if its kind has such lanes. -/
def VKind.value (v : VKind) (w a : Nat) : Option XVal :=
  match v with
  | .uint => some (.ofInt ((a : Nat) : Int))
  | .int => some (.ofInt (sval w a))
  | .flt => (fltOf w).map (fun f => f.value a)

/-- A value as a lane of w bits, if its kind has such lanes. -/
def VKind.lane (v : VKind) (rd : VRound) (rm : RM) (w : Nat) (x : XVal) : Option Nat :=
  let m := match rd with | .rtz => .rtz | _ => rm
  match v with
  | .uint => some (toIntRv m w false x)
  | .int => some (toIntRv m w true x)
  | .flt => (fltOf w).map (fun f => if rd == .odd then f.roundOdd x else f.round m x)

/-- The widths of a conversion's source and result lanes; none where the wider side has no width. -/
def VSize.widths (z : VSize) (w : Nat) : Option (Nat × Nat) :=
  match z with
  | .same => some (w, w)
  | .widen => if Nat.ble (2 * w) 64 then some (w, 2 * w) else none
  | .narrow => if Nat.ble (2 * w) 64 then some (2 * w, w) else none

/-- A unary lane, given the widths of source and result; none where a format has no lanes of its width. -/
def VFun.lane (op : VFun) (rm : RM) (ws wd a : Nat) : Option Nat :=
  match op with
  | .cvt _ src dst rd => (src.value ws a).bind (dst.lane rd rm wd)
  | .sqrt => (fltOf ws).map (fun f => sqrtX f rm (f.value a))
  | .fclass => (fltOf ws).map (fun f => 2 ^ classBit f a)

def VFun.widths (op : VFun) (w : Nat) : Option (Nat × Nat) :=
  match op with
  | .cvt z _ _ _ => z.widths w
  | _ => some (w, w)

/-- The active elements of a source group. -/
def SpcState.actives (t : SpcState) (vm : Bool) (vs2 : Nat) : List Nat :=
  ((upto t.vl).filter (fun i => vm || t.maskBit 0 i)).map (t.elem t.sew vs2)

/-- The lanes of a source group for the tree of R54: what is not active holds the identity of a sum, +0. -/
def SpcState.treeLanes (t : SpcState) (vm : Bool) (vs2 : Nat) : List Nat :=
  (upto t.vlmax).map (fun i => if Nat.blt i t.vl && (vm || t.maskBit 0 i) then t.elem t.sew vs2 i else 0)

/-- A reduction: the scalar of vs1 with the elements; the sum of floats by the tree of R54 (R293). -/
def SpcState.reduce (t : SpcState) (op : VRed) (rm : RM) (vm : Bool) (vs2 vs1 : Nat) : Option Nat :=
  let w := t.sew
  let x0 := t.elem w vs1 0
  let xs := t.actives vm vs2
  let fold := fun (g : Nat → Nat → Nat) => some (xs.foldl g x0)
  let int := fun (o : VInt) => fold (fun a b => (o.lane w a b 0).1)
  match op with
  | .sum => int .add | .maxu => int .maxu | .max => int .max | .minu => int .minu | .min => int .min
  | .fmax => (fltOf w).bind (fun f => fold (maxBits f))
  | .fmin => (fltOf w).bind (fun f => fold (minBits f))
  | .fsum => (fltOf w).map (fun f =>
      if xs.isEmpty then x0
      else fpNode .sum f rm x0 (lane (treeReduce (fpNode .sum f rm) 14 (t.treeLanes vm vs2)) 0))

def VMask.lane (op : VMask) (a b : Bool) : Bool :=
  match op with
  | .and => a && b | .nand => !(a && b) | .andn => a && !b | .or => a || b | .nor => !(a || b) | .orn => a || !b
  | .xor => a != b | .xnor => a == b

/-! ### Vector length and memory -/

/-- The length that vset{i}vl{i} gives: AVL up to VLMAX; from there to twice VLMAX the machine's own choice between half of AVL, rounded up,
and VLMAX (RVV 6.3). -/
def newVl (avl vlmax : Nat) : Nat :=
  if Nat.ble avl vlmax then avl
  else if Nat.ble (2 * vlmax) avl then vlmax
  else Nat.max (ceilDiv avl 2) (Nat.min vlmax (Config.spcVl avl vlmax))

def SpcState.setVl (t : SpcState) (rd : Nat) (a : Avl) (ty : Nat) : SpcOut :=
  let u := { t with vtype := ty % 2 ^ 8, vill := false, vstart := 0 }
  if Nat.ble 4 (ty % 8) || Nat.ble 4 (fld ty 3 3) || Nat.ble (2 ^ 8) ty then ({ u with vtype := 0, vill := true, vl := 0 }).put rd 0
  else
    let vl := match a with
      | .imm n => newVl n u.vlmax
      | .reg r => if r != 0 then newVl (t.x r).toNat u.vlmax else if rd != 0 then u.vlmax else Nat.min t.vl u.vlmax
    ({ u with vl := vl }).put rd (dw vl)

/-- A vector access: the width of an element, how many, whether masked, the address of element i, and how many registers its group takes. -/
structure VAcc where
  w    : Nat
  n    : Nat
  vm   : Bool
  addr : Nat → Dword
  regs : Nat

/-- The access of an addressing, if vtype allows it. -/
def SpcState.access (t : SpcState) (eew : Nat) (a : VAddr) (vm : Bool) (rs1 : Nat) : Option VAcc :=
  let base := t.x rs1
  let each := fun (k : Nat) (i : Nat) => base + dw (i * (k / 8))
  match a with
  | .whole n => some { w := eew, n := n * 2048 / eew, vm := true, addr := each eew, regs := n }
  | .mask => if t.vill then none else some { w := 8, n := ceilDiv t.vl 8, vm := true, addr := each 8, regs := 1 }
  | .unit => if t.vill || Nat.blt (8 * t.sew) (eew * t.lmul) then none
      else some { w := eew, n := t.vl, vm := vm, addr := each eew, regs := Nat.max 1 (eew * t.lmul / t.sew) }
  | .strided rs2 => if t.vill || Nat.blt (8 * t.sew) (eew * t.lmul) then none
      else some { w := eew, n := t.vl, vm := vm, addr := fun i => base + dw i * t.x rs2, regs := Nat.max 1 (eew * t.lmul / t.sew) }
  | .indexed vs2 => if t.vill || Nat.blt (8 * t.sew) (eew * t.lmul) then none
      else some { w := t.sew, n := t.vl, vm := vm, addr := fun i => base + dw (t.elem eew vs2 i), regs := t.lmul }

/-- Whether element i of an access is performed. -/
def VAcc.active (m : VAcc) (t : SpcState) (i : Nat) : Bool := Nat.ble t.vstart i && (m.vm || t.maskBit 0 i)

def SpcState.vload (t : SpcState) (m : VAcc) (vd : Nat) : SpcState :=
  let u := { t with vl := m.n }
  let v := u.fillElems m.w vd (m.regs * 2048 / m.w) (u.dest m.w vd m.vm (bit t.vtype 6) (fun i => ofBytes (t.bytes (m.addr i) (m.w / 8))))
  { v with vl := t.vl }

def SpcState.vstore (t : SpcState) (m : VAcc) (vs3 : Nat) : SpcState :=
  ((upto m.n).filter (m.active t)).foldl (fun u i => u.putBytes (m.addr i) (bytesLE (m.w / 8) (t.elem m.w vs3 i))) t

/-! ### One instruction -/

/-- The modes and formats a floating-point vector instruction needs; without them it is illegal. -/
def SpcState.withFlt (t : SpcState) (k : IEEE → RM → SpcOut) : SpcOut :=
  match fltOf t.sew, frmMode t.frm with
  | some f, some rm => if t.vill then .trap 0x02 0 else k f rm
  | _, _ => .trap 0x02 0

/-- A vector instruction, illegal with vill set; its register groups start where LMUL lets them, or the encoding is reserved. -/
def SpcState.vector (t : SpcState) (groups : Bool) (k : SpcState) : SpcOut := if t.vill then .trap 0x02 0 else if groups then k.vend else .open_

/-- The index of a gather: elements of SEW or of 16 bits, a register, or an immediate. -/
def SpcState.gatherIdx (t : SpcState) (b : VSrc) (half : Bool) (i : Nat) : Nat :=
  match b with
  | .v r => t.elem (if half then 16 else t.sew) r i
  | .x r => (t.x r).toNat
  | .imm n => n.toNat

/-- An extension instruction (R291, R292): with a bit of swmod[63:23] set it is illegal when it executes. -/
def SpcState.doExt (t : SpcState) (e : Ext) (rd rs1 rs2 : Nat) : SpcOut :=
  if Nat.ble (2 ^ 23) t.swmod.toNat then .trap 0x02 0
  else match e with
  | .kwait => .kwait ((t.x rs1).toNat % 16) (t.x rs2) t.on
  | .pop => .pop ((t.x rs1).toNat % 4) rd t.on
  | .native sl op =>
    (match sylOf sl op (extFields t.swmod) with
    | none => .open_
    | some i =>
      let run := (shape i).any (fun sh => sh.a == .run)
      .native sl op (if run then (upto (runLength i)).map (fun j => t.v (rs1 + j)) else [(t.x rs1).toNat]) (t.x rs2) (extDst i false rd) t.on)

/-- Whether a group of elements of w bits, at vtype's ratio of widths, starts where it may, and how many registers it takes at the most. -/
def SpcState.groupOk (t : SpcState) (w r : Nat) : Bool :=
  Nat.ble (t.lmul * w) (8 * t.sew) && r % Nat.max 1 (t.lmul * w / t.sew) == 0

/-- A unary floating-point instruction: illegal where a format has no lanes of its width, or frm no mode. DEDUCED (log entry 10): of the
conversions, which R290 covers, those to and from twice the width too, R290 excepting widening and narrowing arithmetic alone; a group of
the wider side that passes eight registers or overlaps the other is left to RVV's reserved encodings. -/
def SpcState.unary (t : SpcState) (op : VFun) (vm : Bool) (vd vs2 : Nat) : SpcOut :=
  match op.widths t.sew, frmMode t.frm with
  | some (ws, wd), some rm =>
    if t.vill || (op.lane rm ws wd 0).isNone then .trap 0x02 0
    else t.vector (t.groupOk ws vs2 && t.groupOk wd vd && (ws == wd || vd != (if Nat.blt ws wd then vs2 else vs2 + t.lmul)))
      (t.fillElems wd vd (t.lmul * 2048 / t.sew) (t.dest wd vd vm (bit t.vtype 6) (fun i => (op.lane rm ws wd (t.elem ws vs2 i)).getD 0)))
  | _, _ => .trap 0x02 0

/-- What a portable program's instruction does. -/
def spcExec (i : Spc) (t : SpcState) : SpcOut :=
  let w := t.sew
  match i with
  | .lui rd imm => t.put rd (imm64 imm)
  | .auipc rd imm => t.put rd (t.pc + imm64 imm)
  | .jal rd off => t.jump rd (t.pc + imm64 off)
  | .jalr rd rs1 off => t.jump rd ((t.x rs1 + imm64 off) &&& ~~~ (1 : Dword))
  | .branch c rs1 rs2 off => if c.holds (t.x rs1) (t.x rs2) then t.jump 0 (t.pc + imm64 off) else .next t.on
  | .load n signed rd rs1 off =>
    let v := ofBytes (t.bytes (t.x rs1 + imm64 off) n)
    t.put rd (if signed then imm64 (sval (8 * n) v) else dw v)
  | .store n rs1 rs2 off => .next (t.putBytes (t.x rs1 + imm64 off) (bytesLE n (t.x rs2).toNat)).on
  | .aluImm op w32 rd rs1 imm => t.put rd (aluRes op w32 (t.x rs1) (imm64 imm))
  | .alu op w32 rd rs1 rs2 => t.put rd (aluRes op w32 (t.x rs1) (t.x rs2))
  | .fence => .next t.on
  | .ecall => .trap 0x01 0
  | .ebreak => .trap 0x01 1
  | .csr op uimm rd rs1 n => t.doCsr op uimm rd rs1 n
  | .vset rd a (.imm ty) => t.setVl rd a ty
  | .vset rd a (.reg r) => t.setVl rd a (t.x r).toNat
  | .vload eew a vm vd rs1 =>
    (match t.access eew a vm rs1 with
    | some m => if vd % m.regs == 0 then (t.vload m vd).vend else .open_
    | none => .trap 0x02 0)
  | .vstore eew a vm vs3 rs1 =>
    (match t.access eew a vm rs1 with
    | some m => if vs3 % m.regs == 0 then (t.vstore m vs3).vend else .open_
    | none => .trap 0x02 0)
  | .vint op vm vd vs2 b =>
    let g := fun (i : Nat) => op.lane w (t.elem w vs2 i) (t.second w b i) (t.elem w vd i)
    let sat := op.saturates && (upto t.vl).any (fun i => Nat.ble t.vstart i && (vm || t.maskBit 0 i) && (g i).2)
    t.vector (t.aligned vd && t.aligned vs2 && t.srcAligned b)
      { t.lanewise vd vm (fun i => (g i).1) with vxsat := t.vxsat || sat }
  | .vcmp op vm vd vs2 b =>
    t.vector (t.aligned vs2 && t.srcAligned b) (t.maskwise vd vm (fun i => op.holds w (t.elem w vs2 i) (t.second w b i)))
  | .vflt op vm vd vs2 vs1 =>
    t.withFlt (fun f rm => t.vector (t.aligned vd && t.aligned vs2 && t.aligned vs1)
      (t.lanewise vd vm (fun i => op.lane f rm (t.elem w vs2 i) (t.elem w vs1 i) (t.elem w vd i))))
  | .vfcmp op vm vd vs2 vs1 =>
    t.withFlt (fun f _ => t.vector (t.aligned vs2 && t.aligned vs1)
      (t.maskwise vd vm (fun i => op.holds f (t.elem w vs2 i) (t.elem w vs1 i))))
  | .vfun op vm vd vs2 => t.unary op vm vd vs2
  | .vred op vm vd vs2 vs1 =>
    (match t.reduce op ((frmMode t.frm).getD .rne) vm vs2 vs1 with
    | none => .trap 0x02 0
    | some r => if op == .fsum && Nat.ble 4 t.frm || t.vstart != 0 then .trap 0x02 0
      else t.vector (t.aligned vs2)
        (if t.vl == 0 then t
         else t.fillElems w vd (2048 / w) (fun i =>
           if i == 0 then r else if bit t.vtype 6 then t.agnostic w i (t.elem w vd i) else t.elem w vd i)))
  | .vmask op vd vs2 vs1 => t.vector true (t.maskwise vd true (fun i => op.lane (t.maskBit vs2 i) (t.maskBit vs1 i)))
  | .vcpop vm rd vs2 =>
    if t.vstart != 0 then .trap 0x02 0
    else t.vector true (t.setX rd (dw ((upto t.vl).filter (fun i => t.maskBit vs2 i && (vm || t.maskBit 0 i))).length))
  | .vgather vm vd vs2 b half =>
    t.vector (t.aligned vd && t.aligned vs2 && (half || t.srcAligned b) && vd != vs2)
      (t.lanewise vd vm (fun i =>
        let j := t.gatherIdx b half i
        if Nat.blt j t.vlmax then t.elem w vs2 j else 0))
  | .vslide up vm vd vs2 b =>
    let off := match b with | .x r => (t.x r).toNat | .imm n => n.toNat | .v _ => 0
    t.vector (t.aligned vd && t.aligned vs2 && !(up && vd == vs2))
      (if up then t.lanewise vd vm (fun i => if Nat.blt i off then t.elem w vd i else t.elem w vs2 (i - off))
       else t.lanewise vd vm (fun i => if Nat.blt (i + off) t.vlmax then t.elem w vs2 (i + off) else 0))
  | .vmerge vd vs2 b =>
    t.vector (t.aligned vd && t.aligned vs2 && t.srcAligned b)
      (t.lanewise vd true (fun i => if t.maskBit 0 i then t.second w b i else t.elem w vs2 i))
  | .vmv vd b => t.vector (t.aligned vd && t.srcAligned b) (t.lanewise vd true (fun i => t.second w b i))
  | .vmvXs rd vs2 => t.vector true (t.setX rd (imm64 (sval w (t.elem w vs2 0))))
  | .vmvSx vd rs1 =>
    t.vector true (if Nat.ble t.vl t.vstart then t
      else t.fillElems w vd (2048 / w) (fun i =>
        if i == 0 then (t.x rs1).toNat % 2 ^ w else if bit t.vtype 6 then t.agnostic w i (t.elem w vd i) else t.elem w vd i))
  | .vmvR n vd vs2 =>
    if vd % n != 0 || vs2 % n != 0 then .open_
    else if t.vill then .trap 0x02 0
    else (t.fillElems w vd (n * 2048 / w) (fun i => if Nat.blt i t.vstart then t.elem w vd i else t.elem w vs2 i)).vend
  | .ext e rd rs1 rs2 => t.doExt e rd rs1 rs2

end Sys2Proof.Machine
end

