-- ==== Sys2Proof/Machine/Xmss.lean ====
section
/-! DEFINITION. XMSS-SHAKE256_20_256 verification (R289, R322; RFC 8391 as NIST SP 800-208 restricts it) over SHAKE256 (FIPS 202). Strings
of bytes are lists of bytes; n is 32 throughout. -/

namespace Sys2Proof.Machine

/-! ### SHAKE256 (FIPS 202): a state is five planes of 320 bits, lane x of a plane in its bits 64x to 64x + 63 -/

abbrev Planes := List (BitVec 320)

def laneOf (p : BitVec 320) (x : Nat) : Dword := p.extractLsb' (64 * (x % 5)) 64

/-- The plane whose lane x is `f x`. -/
def planeOf (f : Nat → Dword) : BitVec 320 := BitVec.ofNat 320 ((upto 5).foldl (fun n x => n + (f x).toNat * 2 ^ (64 * x)) 0)

/-- Theta: every plane takes the parity of the columns to its one side, and of those to its other side one bit up. -/
def mixSheets (a : Planes) : Planes :=
  let c := a.foldl (fun x y => x ^^^ y) 0
  let d := c.rotateLeft 64 ^^^ planeOf (fun x => (laneOf c (x + 1)).rotateLeft 1)
  a.map (fun p => p ^^^ d)

/-- The lanes in the order in which rho walks them from lane (x, y), numbered x + 5y, with their rotations: 1, 3, 6, 10, and on. -/
def rhoWalk : Nat → Nat → Nat → Nat → Table Nat
  | 0, _, _, _ => []
  | n + 1, t, x, y => Table.set (rhoWalk n (t + 1) y ((2 * x + 3 * y) % 5)) (x + 5 * y) ((t + 1) * (t + 2) / 2 % 64)

/-- Rho and pi: lane x of plane y is the lane x + 3y of plane x, rotated. -/
def moveLanes (a : Planes) : Planes :=
  let turns := rhoWalk 24 0 1 0
  (upto 5).map (fun y => planeOf (fun x =>
    (laneOf (a.getD x 0) (x + 3 * y)).rotateLeft (Table.getD turns ((x + 3 * y) % 5 + 5 * x) 0)))

/-- Chi, on whole planes. -/
def mixRows (a : Planes) : Planes := a.map (fun p => p ^^^ (~~~ (p.rotateRight 64) &&& p.rotateRight 128))

/-- The shift register of iota after n steps. -/
def iotaReg : Nat → Nat → Nat
  | 0, r => r
  | n + 1, r => iotaReg n (if bit r 7 then Nat.xor (2 * r) 0x171 else 2 * r)

/-- What iota puts into lane (0, 0) in a round: seven bits of the register, at places one short of the powers of two. -/
def iotaWord (round : Nat) : Nat :=
  (upto 7).foldl (fun n j => n + (if bit (iotaReg (j + 7 * round) 1) 0 then 2 ^ (2 ^ j - 1) else 0)) 0

def shakeRound (a : Planes) (round : Nat) : Planes :=
  match mixRows (moveLanes (mixSheets a)) with
  | [] => []
  | p :: ps => (p ^^^ BitVec.ofNat 320 (iotaWord round)) :: ps

/-- A block of 1,088 bits enters a state, and the permutation of 24 rounds follows. -/
def shakeBlock (a : Planes) (block : Nat) : Planes :=
  (upto 24).foldl shakeRound ((upto 5).map (fun y => a.getD y 0 ^^^ BitVec.ofNat 320 (block / 2 ^ (320 * y))))

/-- The state after a message of n full blocks and a last one, which takes SHAKE's suffix and the padding's last bit. -/
def shakeState : Nat → List Byte → Planes → Planes
  | 0, m, a => shakeBlock a (Nat.xor (ofBytes m + 0x1F * 2 ^ (8 * m.length)) (2 ^ 1087))
  | n + 1, m, a => shakeState n (m.drop 136) (shakeBlock a (ofBytes (m.take 136)))

/-- SHAKE256 with 256 bits of output. -/
def shake256 (m : List Byte) : List Byte := bytesLE 32 ((shakeState (m.length / 136) m []).getD 0 0).toNat

/-! ### The functions of SP 800-208 and the address of RFC 8391 -/

/-- The n bytes of v, highest first (toByte of RFC 8391). -/
def bytesBE (n v : Nat) : List Byte := (bytesLE n v).reverse

/-- F, H, H_msg and PRF: SHAKE256 of their number, a key and a message. -/
def keyed (which : Nat) (key m : List Byte) : List Byte := shake256 (bytesBE 32 which ++ key ++ m)

def xorB (a b : List Byte) : List Byte := (a.zip b).map (fun p => p.1 ^^^ p.2)

/-- An address of the one tree: its type, three words, and keyAndMask. -/
def adrs (kind a b c mask : Nat) : List Byte :=
  List.replicate 12 0 ++ bytesBE 4 kind ++ bytesBE 4 a ++ bytesBE 4 b ++ bytesBE 4 c ++ bytesBE 4 mask

def prf (seed ad : List Byte) : List Byte := keyed 3 seed ad

/-- RAND_HASH of two nodes at an address. -/
def randHash (seed : List Byte) (ad : Nat → List Byte) (l r : List Byte) : List Byte :=
  keyed 1 (prf seed (ad 0)) (xorB l (prf seed (ad 1)) ++ xorB r (prf seed (ad 2)))

/-- The chaining function of WOTS+: n steps from step i of chain c of leaf idx. -/
def wotsChain (seed : List Byte) (idx c : Nat) : Nat → Nat → List Byte → List Byte
  | _, 0, x => x
  | i, n + 1, x =>
    wotsChain seed idx c (i + 1) n (keyed 0 (prf seed (adrs 0 idx c i 0)) (xorB x (prf seed (adrs 0 idx c i 1))))

/-- The base-16 digits of bytes, high digit first. -/
def base16 (bs : List Byte) : List Nat := bs.flatMap (fun b => [b.toNat / 16, b.toNat % 16])

/-- The 67 chain lengths of a message of 32 bytes: its digits and those of their checksum. -/
def wotsDigits (m : List Byte) : List Nat :=
  let ds := base16 m
  let sum := (ds.map (fun d => 15 - d)).sum
  ds ++ (base16 (bytesBE 2 (sum * 16))).take 3

/-- The WOTS+ public key that a signature of 67 values gives for a message. -/
def wotsKey (seed : List Byte) (idx : Nat) (m : List Byte) (sig : List (List Byte)) : List (List Byte) :=
  ((wotsDigits m).zip sig).mapIdx (fun c p => wotsChain seed idx c p.1 (15 - p.1) p.2)

/-- One level of an L-tree; an odd node goes up as it is. -/
def ltreeLevel (seed : List Byte) (idx height : Nat) : Nat → List (List Byte) → List (List Byte)
  | i, l :: r :: xs => randHash seed (adrs 1 idx height i) l r :: ltreeLevel seed idx height (i + 1) xs
  | _, xs => xs

/-- The root of the L-tree of a leaf; seven levels take 67 nodes to one. -/
def ltree (seed : List Byte) (idx : Nat) : Nat → Nat → List (List Byte) → List (List Byte)
  | _, 0, xs => xs
  | h, n + 1, xs => ltree seed idx (h + 1) n (ltreeLevel seed idx h 0 xs)

/-- The root that a node and its authentication path give; `idx` is the node's index at height k. -/
def authRoot (seed : List Byte) : Nat → Nat → List Byte → List (List Byte) → List Byte
  | _, _, x, [] => x
  | k, idx, x, a :: as =>
    let ad := adrs 2 0 k (idx / 2)
    authRoot seed (k + 1) (idx / 2) (if idx % 2 == 0 then randHash seed ad x a else randHash seed ad a x) as

/-- n pieces of 32 bytes. -/
def pieces32 : Nat → List Byte → List (List Byte)
  | 0, _ => []
  | n + 1, bs => bs.take 32 :: pieces32 n (bs.drop 32)

/-- XMSS_verify of RFC 8391: a public key of 68 bytes (the parameter set's number 0x12, the root, the seed), a message, and a signature of
2,820 bytes. -/
def xmssVerifies (key msg sig : List Byte) : Bool :=
  let n := fun (bs : List Byte) => ofBytes bs.reverse
  let root := (key.drop 4).take 32
  let seed := (key.drop 36).take 32
  let idx := n (sig.take 4)
  let m := keyed 2 ((sig.drop 4).take 32 ++ root ++ bytesBE 32 idx) msg
  let leaf := (ltree seed idx 0 7 (wotsKey seed idx m (pieces32 67 (sig.drop 36)))).headD []
  key.length == 68 && sig.length == 2820 && n (key.take 4) == 0x12 && Nat.blt idx (2 ^ 20)
    && authRoot seed 0 idx leaf (pieces32 20 (sig.drop 2180)) == root

end Sys2Proof.Machine
end

