-- ==== Sys2Proof/Machine/Loader.lean ====
section
/-! DEFINITION. Code objects and the loader (R280-R289, R293, R318, R413), the repair of text pages (R398), the wellhead's watchdog
(R416). -/

namespace Sys2Proof.Machine

/-! ### The XQO object (R280-R282) -/

/-- A segment descriptor. -/
structure Seg where
  kind  : Nat
  flags : Nat
  off   : Nat
  size  : Nat
  place : Nat
deriving DecidableEq, Repr

/-- The number in n bytes of an object at an offset. -/
def numAt (bs : List Byte) (off n : Nat) : Nat := ofBytes ((bs.drop off).take n)

/-- The bytes of a segment. -/
def Seg.bytes (x : Seg) (bs : List Byte) : List Byte := (bs.drop x.off).take x.size

/-- The segment table. -/
def segsOf (bs : List Byte) : List Seg :=
  (upto (numAt bs 8 4)).map (fun i =>
    let o := 16 + 32 * i
    { kind := numAt bs o 4, flags := numAt bs (o + 4) 4, off := numAt bs (o + 8) 8, size := numAt bs (o + 16) 8,
      place := numAt bs (o + 24) 8 })

/-- The one segment of a kind, if the object has exactly one. -/
def only (k : Nat) (xs : List Seg) : Option Seg :=
  match xs.filter (fun x => x.kind == k) with
  | [x] => some x
  | _ => none

def hasNone (k : Nat) (xs : List Seg) : Bool := !xs.any (fun x => x.kind == k)

/-- Whether no two of the segments overlap. -/
def segsApart : List Seg → Bool
  | [] => true
  | x :: xs => xs.all (fun y => x.size == 0 || y.size == 0 || Nat.ble (x.off + x.size) y.off || Nat.ble (y.off + y.size) x.off) && segsApart xs

/-- The defects of one segment of an object of `len` bytes whose header and segment table take `top`. WR says how the driver maps a DATA
segment: the loader asks that its pages are writable whatever WR says (R285). -/
def Seg.bad (x : Seg) (top len : Nat) : Bool :=
  x.kind == 0 || Nat.blt 6 x.kind || Nat.ble 2 x.flags || x.off % 64 != 0 || Nat.blt x.off top || Nat.blt len (x.off + x.size)
    || (match x.kind with
      | 2 => x.place % 4096 != 0
      | 3 => Nat.ble (2 ^ 31) x.place || Nat.blt 0x01F00000 (x.place % 2 ^ 25 + x.size)
      | _ => x.place != 0)

/-- The entry words of the ENTRY segment. -/
def entryWords (x : Seg) (bs : List Byte) : List Nat := (upto (x.size / 4)).map (fun i => numAt bs (x.off + 4 * i) 4)

/-- The defects of an ENTRY segment, whose offsets must lie below `top` (R282). -/
def entriesBad (x : Seg) (es : List Nat) (port : Bool) (top : Nat) : Bool :=
  x.size % 4 != 0 || Nat.blt 1024 x.size
    || es.any (fun e => Nat.ble (2 ^ 22) e || fld e 20 2 == 3 || Nat.ble top (e % 2 ^ 20) || (port && e % 4 != 0))
    || Nat.blt 1 ((es.filter (fun e => fld e 20 2 == 1)).length) || Nat.blt 1 ((es.filter (fun e => fld e 20 2 == 2)).length)

/-- A native object's TEXT and SIGN segments, where they are well formed. -/
def nativeParts (bs : List Byte) (xs : List Seg) : Option (Seg × Seg) :=
  match only 1 xs, only 5 xs, xs.getLast? with
  | some t, some g, some l =>
    if hasNone 6 xs && l.kind == 5 && g.off + g.size == bs.length && t.size % 64 == 0 && Nat.ble 64 t.size
        && Nat.ble t.size (64 * 786432) && g.size == 2828 && numAt bs (g.off + 4) 4 == 0 then some (t, g) else none
  | _, _, _ => none

/-- A well-formed object (R281): its segments, entries, and for a native object its TEXT and SIGN. -/
structure Xqo where
  natgen  : Nat
  spcver  : Nat
  segs    : List Seg
  entries : List Nat
  native  : Option (Seg × Seg)
deriving DecidableEq, Repr

/-- R280 to R282: an object, or none when it is not well formed. -/
def parseObject (bs : List Byte) : Option Xqo :=
  let n := numAt bs 8 4
  let xs := segsOf bs
  if Nat.blt bs.length 16 || numAt bs 0 4 != 0x314F5158 || Nat.blt n 2 || Nat.blt 64 n || Nat.ble 2 (numAt bs 12 4)
      || Nat.blt bs.length (16 + 32 * n) || xs.any (fun x => x.bad (16 + 32 * n) bs.length) || !segsApart xs then none
  else
    let port := numAt bs 12 4 == 1
    match only 4 xs with
    | none => none
    | some e =>
      let es := entryWords e bs
      let o : Xqo := { natgen := numAt bs 4 2, spcver := numAt bs 6 2, segs := xs, entries := es, native := none }
      if port then
        match only 6 xs with
        | some p =>
          if hasNone 1 xs && hasNone 5 xs && numAt bs 4 2 == 0 && !entriesBad e es true p.size then some o else none
        | none => none
      else
        match nativeParts bs xs with
        | some (t, g) => if numAt bs 6 2 == 0 && !entriesBad e es false (t.size / 64) then some { o with native := some (t, g) } else none
        | none => none

/-! ### Acceptance (R289, R294) -/

/-- What a load will place: the text, the entries with native offsets, the launch blocks of the task entries of a portable object. -/
structure TextImage where
  text    : List Byte
  entries : List Nat
  blocks  : List (Nat × List Byte)
deriving DecidableEq, Repr

/-- The native image of a portable object (R282, R293). -/
def portImage (es : List Nat) (ws : List Word) (offs : List (Nat × List Byte)) : TextImage :=
  let pad := ws ++ List.replicate ((16 - ws.length % 16) % 16) 0
  let both := es.zip offs
  { text := pad.flatMap (fun w => bytesLE 4 w.toNat)
    entries := both.map (fun p => p.1 / 2 ^ 20 * 2 ^ 20 + p.2.1 % 2 ^ 20)
    blocks := (both.filter (fun p => fld p.1 20 2 == 0)).map Prod.snd }

/-- The bytes of a portable object's SPC segment. -/
def Xqo.spc (o : Xqo) (bs : List Byte) : List Byte := ((only 6 o.segs).map (fun x => x.bytes bs)).getD []

/-- Acceptance under the key slots: the image, or the reason of a handle fault. A portable object translates only if SPC covers each of its
words (R290, R291). -/
def accepted (slots : Table (List Byte)) (o : Xqo) (bs : List Byte) : Except Nat TextImage :=
  match o.native with
  | some (t, g) =>
    if o.natgen != 1 then .error 1
    else match Table.get? slots (numAt bs g.off 4) with
      | none => .error 3
      | some key =>
        if xmssVerifies key (bs.take g.off) ((bs.drop (g.off + 8)).take 2820) then
          .ok { text := t.bytes bs, entries := o.entries, blocks := [] }
        else .error 2
  | none =>
    if o.spcver == 0 || Nat.blt 5 o.spcver || !spcCovered (o.spc bs) then .error 4
    else
      let (w, ws, at_) := Config.dzirad bs
      .ok (portImage o.entries (w :: ws) ((upto o.entries.length).map at_))

/-! ### Places -/

/-- The lowest n free text pages of a die (R284), if it has as many. -/
def State.freeText (s : State) (d n : Nat) : Option (List Nat) :=
  let used := s.codes.flatMap (fun c => Table.getD c.2.pages d [])
  let free := (upto 192).filter (fun p => !used.contains p)
  if Nat.blt free.length n then none else some (free.take n)

/-- The lowest free index of the code table. -/
def State.freeCode (s : State) : Option Nat := ((upto 4096).drop 1).find? (fun i => (Table.get? s.codes i).isNone)

/-- The LPA of the L4 entry of a VA, when every entry above it is a valid non-leaf (R318) and none is poisoned. -/
def l4Entry (mem : Mem) (poison : List Nat) (va : Nat) : List (Nat × Nat) → Nat → Nat → Option Nat
  | [], _, _ => none
  | (lo, len) :: ls, level, tab =>
    let a := tab + 8 * fld va lo len
    if poison.contains (unitOf (keyL a)) then none
    else if ls.isEmpty then some a
    else
      let pte := Memory.readNat mem (keyL a) 8
      if pteBad level pte || bit pte 1 then none else l4Entry mem poison va ls (level + 1) (fld pte 12 45 * 2 ^ 12)

/-- The L4 entry of a function's VA in the table of a die. -/
def State.leafSlot (s : State) (d fn va : Nat) : Option Nat := l4Entry s.mem s.poison va levelBits 0 (s.ptroot d fn)

/-- Whether the text range is prepared in all four tables (R318). -/
def State.textReady (s : State) (fn va n : Nat) : Bool :=
  Nat.ble (va + n * 2 ^ 18) (2 ^ 56) && (upto 4).all (fun d => (upto n).all (fun j =>
    match s.leafSlot d fn (va + j * 2 ^ 18) with
    | some a => !bit (s.word64 (keyL a)) 0
    | none => false))

/-- The leaf of a text page (R286). -/
def textLeaf (d page : Nat) : Nat := 3 + (d * 2 ^ 31 + textPageW page) / 2 ^ 12 * 2 ^ 12 + 2 ^ 59 + 2 ^ 61 + 2 ^ 62

/-- Write a word into the text leaves of some pages of a die. -/
def State.putLeaves (s : State) (d fn va : Nat) : List (Nat × Nat) → State
  | [] => s
  | (j, w) :: js =>
    State.putLeaves (match s.leafSlot d fn (va + j * 2 ^ 18) with
      | some a => s.putBytes (keyL a) (bytesLE 8 w)
      | none => s) d fn va js

/-- Write a text into the pages of a die. -/
def State.putText (s : State) (d : Nat) (text : List Byte) : List Nat → State
  | [] => s
  | p :: ps => State.putText (s.putBytes (keyW d (textPageW p)) (text.take 0x40000)) d (text.drop 0x40000) ps

/-- A text page holds a good copy: no fetch of it faults any more (R398). -/
def State.cleanPage (s : State) (d page : Nat) : State := s.modDie d (fun x => { x with badText := x.badText.filter (fun p => p != page) })

/-- The text and its leaves on one die. -/
def State.placeText (s : State) (fn va : Nat) (text : List Byte) (d : Nat) (ps : List Nat) : State :=
  (ps.foldl (fun (x : State) p => x.cleanPage d p) (s.putText d text ps)).putLeaves d fn va ((upto ps.length).zip (ps.map (textLeaf d)))

/-- The text and its leaves on every die that has pages. -/
def State.placeTexts (s : State) (fn va : Nat) (text : List Byte) : Table (List Nat) → State
  | [] => s
  | (d, ps) :: ds => State.placeTexts (s.placeText fn va text d ps) fn va text ds

/-- A VAULT segment's bytes to its vault on every die in service; `false` where they cover part of a poisoned unit (R392). -/
def State.putVault (s : State) (x : Seg) (bs : List Byte) : List Nat → Bool × State
  | [] => (true, s)
  | d :: ds =>
    match s.putCells (cellsAt (keyW d (x.place % 2 ^ 31)) (x.bytes bs)) with
    | (s1, none) => State.putVault s1 x bs ds
    | (s1, some _) => (false, s1)

def State.putVaults (s : State) (bs : List Byte) : List Seg → Bool × State
  | [] => (true, s)
  | x :: xs =>
    match (if x.kind == 3 then s.putVault x bs s.serving else (true, s)) with
    | (true, s1) => State.putVaults s1 bs xs
    | r => r

/-- The pages of 4 KiB that a range of VA touches, each by its first byte of the range. -/
def pageStarts (va len : Nat) : List Nat :=
  if len == 0 then [] else (upto ((va + len - 1) / 4096 - va / 4096 + 1)).map (fun j => Nat.max va ((va / 4096 + j) * 4096))

/-- Whether some VAs can be written through the table of a die. -/
def State.probe (s : State) (d fn : Nat) : List Nat → Va Unit × State
  | [] => (.ok (), s)
  | a :: as =>
    match s.reach d fn a .write with
    | (.ok _, s1) => State.probe s1 d fn as
    | (.wait, s1) => (.wait, s1)
    | (.bad f, s1) => (.bad f, s1)

/-- Whether a range of VA can be written through the tables of some dies (R285). -/
def State.writable (s : State) (fn va len : Nat) : List Nat → Va Unit × State
  | [] => (.ok (), s)
  | d :: ds =>
    match s.probe d fn (pageStarts va len) with
    | (.ok _, s1) => State.writable s1 fn va len ds
    | r => r

/-- Write runs of bytes at VAs of the function, each once its range can be written in all four tables; up to the first that cannot. -/
def State.putRuns (s : State) (fn : Nat) : List (Nat × List Byte) → Va Unit × State
  | [] => (.ok (), s)
  | (va, bs) :: rs =>
    match s.writable fn va bs.length (upto 4) with
    | (.ok _, s1) =>
      (match s1.writeVA fn va bs with
      | (.ok _, s2) => State.putRuns s2 fn rs
      | r => r)
    | r => r

/-- The entry record of a task entry (R318). -/
def entryRecord (b : Nat × List Byte) : List Byte :=
  let l := b.2.take 512
  l ++ List.replicate (512 - l.length) 0 ++ bytesLE 8 (b.1 % 2 ^ 20) ++ List.replicate 504 0

/-- The runs of VA that a load writes: DATA segments, then the entry records of a portable object. -/
def loadRuns (o : Xqo) (m : TextImage) (bs : List Byte) (launch : Nat) : List (Nat × List Byte) :=
  ((o.segs.filter (fun x => x.kind == 2)).map (fun x => (x.place, x.bytes bs)))
    ++ (upto m.blocks.length).map (fun k => (launch + 1024 * k, entryRecord (m.blocks.getD k (0, []))))

/-! ### The requests (R285, R318) -/

/-- A request of a function ends: its status, its result, MSI-X vector 2. -/
def State.endRequest (s : State) (fn cause reason result : Nat) : State :=
  (s.modFnHost fn (fun h => { h with busy := false, ldstat := cause + reason * 2 ^ 8, ldresult := dw result, ldreq := [] })).msix fn 2

/-- What a load comes to: its handle, its status, or a wait for a host page (R272) or a channel (R221). -/
inductive LoadRes
  | ok (handle : Nat)
  | fail (cause reason : Nat)
  | wait
deriving DecidableEq, Repr

/-- Claim, place and enter an image. DESIGN CHOICE (log entry 38): the status table of R285 has no row for a write that meets poison and is
discarded (R392); the load ends with cause 0x16, reason 0. -/
def State.loadImage (s : State) (fn : Nat) (o : Xqo) (m : TextImage) (bs : List Byte) (text launch : Nat) : LoadRes × State :=
  let nb := m.text.length / 64
  let n := ceilDiv nb 4096
  if !s.textReady fn text n then (.fail 0x0A 1, s)
  else
    let pages := s.serving.map (fun d => (d, s.freeText d n))
    match s.freeCode with
    | none => (.fail 0x1B 0, s)
    | some i =>
      if pages.any (fun p => p.2.isNone) then (.fail 0x1B 0, s)
      else
        let ps := pages.map (fun p => (p.1, p.2.getD []))
        match s.putRuns fn (loadRuns o m bs launch) with
        | (.bad f, s1) => (.fail (if f.cause == 0x16 then 0x16 else 0x0A) 0, s1)
        | (.wait, s1) => (.wait, s1)
        | (.ok _, s1) =>
          match s1.putVaults bs o.segs with
          | (false, s2) => (.fail 0x16 0, s2)
          | (true, s2) =>
          let gen := Table.getD s1.gens i 0
          let x : Code := { fn := fn, gen := gen, st := .loaded, nb := nb, entries := m.entries, textva := text, pages := ps }
          let s3 := s2.placeTexts fn text m.text ps
          (.ok (i + gen * 2 ^ 12 + 2 ^ 28 + 2 ^ 29), { s3 with codes := Table.set s3.codes i x })

/-- The load that a request asks for, in the order of R285. -/
def State.load (s : State) (fn obj len text launch : Nat) : LoadRes × State :=
  if obj % 64 != 0 || text % 2 ^ 18 != 0 || len == 0 || Nat.ble (2 ^ 32) len then (.fail 0x18 1, s)
  else match s.readVA fn obj len with
    | (.bad _, s1) => (.fail 0x0A 0, s1)
    | (.wait, s1) => (.wait, s1)
    | (.ok bs, s1) =>
      match parseObject bs with
      | none => (.fail 0x18 0, s1)
      | some o =>
        if o.native.isSome && launch != 0 then (.fail 0x18 1, s1)
        else match accepted s1.host.slots o bs with
          | .error r => (.fail 0x19 r, s1)
          | .ok m => s1.loadImage fn o m bs text launch

/-- LOAD_END (R285): a load in progress ends, once a die is in service to hold the text and the pages it needs are at hand (R272). -/
def execLoadEnd (fn : Nat) (s : State) : Host.Outcome State Fault Refusal :=
  let h := s.fnHost fn
  match h.ldreq with
  | [obj, len, text, launch] =>
    if !h.busy || s.serving.isEmpty then .next s
    else match s.load fn obj len text launch with
      | (.ok handle, s1) => .next (s1.endRequest fn 0 0 handle)
      | (.fail c r, s1) => .next (s1.endRequest fn c r 0)
      | (.wait, s1) => .next s1
  | _ => .next s

/-- The entry of an unload's handle: a LOADED one of the function (R318). -/
def State.toUnload (s : State) (fn h : Nat) : Option (Nat × Code) :=
  match Table.get? s.codes (h % 2 ^ 12) with
  | some x =>
    let loaded := match x.st with | .loaded => true | .closing => false
    if loaded && x.fn == fn && x.gen == fld h 12 16 && fld h 30 34 == 0 then some (h % 2 ^ 12, x) else none
  | none => none

/-- A write to LDCMD (R318, R415): a load begins, an unload closes its entry, anything else is malformed; ignored while BUSY. -/
def State.writeLdcmd (s : State) (fn v : Nat) : State :=
  let h := s.fnHost fn
  if h.busy then s
  else
    let s1 := s.modFnHost fn (fun x => { x with ldcmd := v })
    if v == 1 then
      s1.modFnHost fn (fun x => { x with busy := true, ldreq := [h.ldobj, h.ldlen, h.ldtext, h.ldlaunch] })
    else if v == 2 then
      match s.toUnload fn h.ldhandle with
      | some (i, x) => { s1 with codes := Table.set s1.codes i { x with st := .closing } }.endRequest fn 0 0 0
      | none => s1.endRequest fn 0x19 5 0
    else s1.endRequest fn 0x18 1 0

/-- LDCMD_LOAD (R318). -/
def execLdcmdLoad (fn : Nat) (s : State) : Host.Outcome State Fault Refusal :=
  .next (if s.host.recover then s else s.writeLdcmd fn 1)

/-- LDCMD_UNLOAD (R288, R318). -/
def execLdcmdUnload (fn : Nat) (s : State) : Host.Outcome State Fault Refusal :=
  .next (if s.host.recover then s else s.writeLdcmd fn 2)

/-! ### Copies of texts (R286, R398) -/

/-- The keys of the units of a text page. -/
def pageUnits (d page : Nat) : List Nat := (upto 16384).map (fun i => keyW d (textPageW page) + 16 * i)

/-- Whether a die in service holds a copy of an object's text without poison. -/
def State.goodCopy (s : State) (x : Code) (d : Nat) : Bool :=
  match Table.get? x.pages d with
  | some ps => ps.all (fun p => (s.firstPoison (pageUnits d p)).isNone)
  | none => false

/-- A die receives copies of the texts of the LOADED objects that it holds none of, each from the lowest die in service that holds a good
one, with their leaves (R286). -/
def State.copyTexts (s : State) (d : Nat) : List (Nat × Code) → State
  | [] => s
  | (i, x) :: xs =>
    let loaded := match x.st with | .loaded => true | .closing => false
    match (if loaded && (Table.get? x.pages d).isNone then s.serving.find? (s.goodCopy x) else none), s.freeText d (ceilDiv x.nb 4096) with
    | some b, some ps =>
      let text := ((Table.getD x.pages b []).flatMap (fun p => s.bytes (keyW b (textPageW p)) 0x40000)).take (64 * x.nb)
      let s1 := s.placeText x.fn x.textva text d ps
      State.copyTexts { s1 with codes := Table.set s1.codes i { x with pages := Table.set x.pages d ps } } d xs
    | _, _ => State.copyTexts s d xs

/-- Copies that had no room on a die are made once pages are free. -/
def State.spreadTexts (s : State) : List Nat → State
  | [] => s
  | d :: ds => State.spreadTexts (s.copyTexts d s.codes) ds

/-! ### The end of an unload (R288) -/

/-- Forget a function's cached translations on every die (R270). -/
def State.dropTlb (s : State) (fn : Nat) : List Nat → State
  | [] => s
  | d :: ds => State.dropTlb (s.modDie d (fun x => { x with tlb := Table.erase x.tlb fn })) fn ds

/-- Whether a task still names a code-table entry (R288). -/
def State.named (s : State) (i : Nat) (x : Code) : Bool :=
  s.disp.tasks.any (fun p => p.1 / 2 ^ 18 == x.fn && p.2.dw 0 % 2 ^ 12 == i && fld (p.2.dw 0) 12 16 == x.gen
    && (match p.2.st with | .husk => false | _ => true))

/-- Clear the text leaves of an object in every die's table. -/
def State.clearLeaves (s : State) (x : Code) : List Nat → State
  | [] => s
  | d :: ds =>
    let n := ceilDiv x.nb 4096
    State.clearLeaves (s.putLeaves d x.fn x.textva ((upto n).map (fun j => (j, 0)))) x ds

/-- An entry becomes FREE: pages and leaves released, translations invalidated, the generation advanced. -/
def State.freeCodeEntry (s : State) (i : Nat) (x : Code) : State :=
  let s1 := (s.clearLeaves x (upto 4)).dropTlb x.fn (upto 4)
  { s1 with codes := Table.erase s1.codes i, gens := Table.set s1.gens i ((x.gen + 1) % 2 ^ 16) }

/-- UNLOAD_COMPLETE (R288): no task names a CLOSING entry. The last of a function that is being reset ends its reset (R321). -/
def execUnloadComplete (index : Nat) (s : State) : Host.Outcome State Fault Refusal :=
  match Table.get? s.codes index with
  | none => .next s
  | some x =>
    let closing := match x.st with | .closing => true | .loaded => false
    if !closing || s.named index x then .next s
    else
      let s0 := s.freeCodeEntry index x
      let s1 := s0.spreadTexts s0.serving
      .next (if s1.codes.any (fun c => c.2.fn == x.fn) then s1 else s1.modFnHost x.fn (fun h => { h with resetting := false }))

/-! ### Repair and the watchdog (R398, R416) -/

/-- TEXT_PAGE_REPAIR (R398): a poisoned page is copied from the lowest-numbered other die in service whose copy is good. -/
def execTextPageRepair (die page : Nat) (s : State) : Host.Outcome State Fault Refusal :=
  match s.codes.find? (fun c => (Table.getD c.2.pages die []).contains page) with
  | none => .next s
  | some (_, x) =>
    let j := (Table.getD x.pages die []).idxOf page
    let good := s.serving.find? (fun d => d != die &&
      (match (Table.getD x.pages d [])[j]? with | some p => (s.firstPoison (pageUnits d p)).isNone | none => false))
    match good, s.firstPoison (pageUnits die page) with
    | some d, some _ =>
      let p := (Table.getD x.pages d []).getD j 0
      .next ((s.putBytes (keyW die (textPageW page)) (s.bytes (keyW d (textPageW p)) 0x40000)).cleanPage die page)
    | _, _ => .next s

/-- Fail the loader requests in flight. -/
def State.failRequests (s : State) : List (Nat × FnHost) → State
  | [] => s
  | (fn, h) :: hs => State.failRequests (if h.busy then s.endRequest fn 0x16 0 0 else s) hs

/-- WELLHEAD_WATCHDOG (R413, R416). -/
def execWellheadWatchdog (s : State) : Host.Outcome State Fault Refusal := .next (s.failRequests s.host.fns)

end Sys2Proof.Machine
end

