-- ==== Sys2Proof/Machine/HostRows.lean ====
section
/-! DEFINITION. What the host does through the windows of the module (R301, R303, R304, R316-R320, R327, R328, R412, R415). -/

namespace Sys2Proof.Machine

/-! ### The aperture (R316, R405) -/

/-- What a host read returns. -/
def State.reply (s : State) (bs : List Byte) : State := s.modHost (fun h => { h with answer := bs })

/-- The VA of an aperture offset, as a local VA of this module; none where the domain window leads elsewhere: no host traffic crosses a
port (R405). -/
def State.apertureVA (s : State) (fn off : Nat) : Option Nat :=
  match s.domain ((s.fnHost fn).apbase + off) with
  | .local va => some va
  | .home va => some va
  | _ => none

/-- An aperture read fails: bytes of 0xFF, counted (R316). -/
def State.apertureFails (s : State) (fn len : Nat) : State := (s.errcnt fn true).reply (List.replicate len 0xFF)

/-- APERTURE_READ (R316, R393). A read that a host page (R272) or a channel (R221) keeps waiting has no reply yet: the row that repeats it
brings the reply. -/
def execApertureRead (fn : Nat) (off len : Nat) (s : State) : Host.Outcome State Fault Refusal :=
  match s.apertureVA fn off with
  | none => .next (s.apertureFails fn len)
  | some va =>
    match s.readVA fn va len with
    | (.wait, s1) => .next s1
    | (.bad _, s1) => .next (s1.apertureFails fn len)
    | (.ok bs, s1) => .next (s1.reply bs)

/-- APERTURE_WRITE (R316, R317): a posted write, dropped and counted when a byte of it cannot be translated; a poisoned unit it does not
cover stays. -/
def execApertureWrite (fn : Nat) (off : Nat) (data : List Byte) (s : State) : Host.Outcome State Fault Refusal :=
  match s.apertureVA fn off with
  | none => .next (s.errcnt fn true)
  | some va => .next (s.post_ fn (.aperture va data))

/-! ### Translation invalidation and residency (R270, R316) -/

/-- TLBINV (R316): GO is written. -/
def execTlbinv (fn : Nat) (s : State) : Host.Outcome State Fault Refusal := .next (s.modFnHost fn (fun h => { h with tlbinv := true }))

/-- TLBINV_COMPLETE (R270): no die holds a translation of the function, and GO reads 0. -/
def execTlbinvComplete (fn : Nat) (s : State) : Host.Outcome State Fault Refusal :=
  if (s.fnHost fn).tlbinv then .next ((s.dropTlb fn (upto 4)).modFnHost fn (fun h => { h with tlbinv := false })) else .next s

/-- The oldest entry of RESQ as it reads (R316). -/
def FnHost.resqWord (h : FnHost) : Nat :=
  match h.resq with
  | [] => 0
  | v :: _ => 2 ^ 63 + fld v 12 45 * 2 ^ 12

/-- A read of RESQ returns and removes the oldest entry. -/
def State.popResq (s : State) (fn : Nat) : State :=
  (s.modFnHost fn (fun h => { h with resq := h.resq.drop 1 })).reply (bytesLE 8 (s.fnHost fn).resqWord)

/-- RESQ (R316). -/
def execResq (fn : Nat) (s : State) : Host.Outcome State Fault Refusal := .next (s.popResq fn)

/-! ### Endpoint keys (R303, R412) -/

/-- The command word of EKCMD. -/
def ekWord (op peer : Nat) (busy err : Bool) : Dword :=
  dw (peer % 2 ^ 12 + op % 4 * 2 ^ 16 + (if err then 2 ^ 62 else 0) + (if busy then 2 ^ 63 else 0))

/-- A write to EKCMD (R303): ignored while BUSY, refused, or waiting for its effect. -/
def State.writeEkcmd (s : State) (fn op peer : Nat) : State :=
  let x := s.fnFab fn
  if bit x.ekcmd.toNat 63 then s
  else
    let bad := op == 0 || op == 3 || peer == s.fab.modid || (op == 1 && Nat.ble 256 x.keys.length)
    s.modFnFab fn (fun y => { y with ekcmd := ekWord op peer (!bad) bad })

/-- EKCMD_INSTALL (R303). -/
def execEkcmdInstall (fn peer : Nat) (s : State) : Host.Outcome State Fault Refusal := .next (s.writeEkcmd fn 1 (peer % 2 ^ 12))

/-- EKCMD_REMOVE (R303). -/
def execEkcmdRemove (fn peer : Nat) (s : State) : Host.Outcome State Fault Refusal := .next (s.writeEkcmd fn 2 (peer % 2 ^ 12))

/-- Whether an MLDR or COLL of the function that involves a peer is in flight (R412). -/
def State.reducing (s : State) (fn peer : Nat) : Bool :=
  s.fab.mldrs.any (fun m => m.2.fn == fn && m.2.members.any (fun w => s.memberPod w == some peer))
    || s.fab.colls.any (fun c => c.2.fn == fn && c.2.ranks.contains peer)

/-- Whether an operation of a function is in flight. -/
def State.anyOp (s : State) (fn : Nat) : Bool := s.ops.any (fun o => o.2.fn == fn)

/-- A command of EKCMD takes effect (R303): a key that ends stays with the operations that started before. -/
def FnFab.command (x : FnFab) (op peer : Nat) (inUse : Bool) : FnFab :=
  let n := x.era + 1
  { x with
    ekcmd := ekWord op peer false false, era := n
    past := (if inUse then x.past else []) ++ (match Table.get? x.keys peer with | some k => if inUse then [⟨peer, k, n⟩] else [] | none => [])
    keys := if op == 1 then Table.set x.keys peer { key := x.ekey, salt := x.eksalt, born := n } else Table.erase x.keys peer }

/-- EKCMD_EFFECT (R303, R412): an install waits for what involves its peer. -/
def execEkcmdEffect (fn : Nat) (s : State) : Host.Outcome State Fault Refusal :=
  let x := s.fnFab fn
  let w := x.ekcmd.toNat
  let op := fld w 16 2
  let peer := w % 2 ^ 12
  if !bit w 63 || (op == 1 && s.reducing fn peer) then .next s
  else .next (s.modFnFab fn (fun y => y.command op peer (s.anyOp fn)))

/-! ### Trace control (R327, R328) -/

/-- TRCCTL_UNFREEZE (R327): only the owner of the selected core's trace. -/
def execTrcctlUnfreeze (fn : Nat) (s : State) : Host.Outcome State Fault Refusal :=
  let c := (s.fnHost fn).trsel
  .next (if (s.core c).trace.owner == fn then s.modCore c (fun x => { x with trace := { x.trace with frozen := false } }) else s)

/-- TRCCTL_OWNER_WRITE (R328). -/
def execTrcctlOwnerWrite (core owner : Nat) (s : State) : Host.Outcome State Fault Refusal :=
  .next (if Nat.blt core 256 then
      s.modCore core (fun x => { x with trace := { owner := owner % 2 ^ 7, classes := x.trace.classes } })
    else s)

/-! ### Ports, keys of ports, the domain (R298, R301, R304) -/

/-- An install of HKEY and HSALT under an epoch (R301); a handshake that the far end waits for is agreed to. -/
def State.installKey (s : State) (p e : Nat) : State :=
  let x := s.port p
  if e == x.epoch then s
  else
    let k : SealKey := { key := x.hkey, salt := x.hsalt }
    let s1 := s.modPort p (fun y =>
      { y with keys := Table.set (y.keys.filter (fun q => q.1 == y.epoch)) e k, newEp := y.newEp.filter (fun n => n == e) })
    if x.asked == some e then s1.agree p e else s1

/-- A write to HCTL: NEPOCH, and the install with INSTALL set. -/
def State.writeHctl (s : State) (p epoch : Nat) (install : Bool) : State :=
  let s1 := s.modPort p (fun y => { y with nepoch := epoch })
  if install then s1.installKey p epoch else s1

/-- HCTL_INSTALL (R301). -/
def execHctlInstall (port epoch : Nat) (s : State) : Host.Outcome State Fault Refusal :=
  .next (if Nat.blt port 24 then s.writeHctl port (epoch % 2 ^ 8) true else s)

/-- A write of PCTL.EPOCH (R301): with a held key it starts the handshake of R300, otherwise it is ignored. -/
def State.writeEpoch (s : State) (p e : Nat) : State :=
  let x := s.port p
  if e == x.epoch || (Table.get? x.keys e).isNone then s
  else
    let s1 := s.modPort p (fun y => { y with newEp := some e })
    if x.up then s1.tellKey p 0 e else s1

/-- PCTL_EPOCH_WRITE (R301). -/
def execPctlEpochWrite (port epoch : Nat) (s : State) : Host.Outcome State Fault Refusal :=
  .next (if Nat.blt port 24 then s.writeEpoch port (epoch % 2 ^ 8) else s)

/-- A write to PCTL (R298): EN, HBH, DOWN as W1C, EPOCH. A port newly enabled starts training. -/
def State.writePctl (s : State) (p v : Nat) : State :=
  let s1 := s.modPort p (fun y =>
    { y with
      en := bit v 0, hbh := bit v 1, down := y.down && !bit v 3
      train := if bit v 0 then y.train || (!y.en && !y.up) else false })
  s1.writeEpoch p (fld v 4 8)

/-- A write to a domain entry (R304): an unusable route leaves the entry disabled. -/
def State.writeDom (s : State) (i v : Nat) : State :=
  let pod := v % 2 ^ 12
  let r := (Table.getD s.fab.routes pod 0).toNat
  let hops := fld r 24 5
  let old := (Table.getD s.fab.dom i 0).toNat
  let w := if bit v 63 && pod != s.fab.modid && (hops == 0 || Nat.blt 3 hops || r % 2 ^ 24 == 0) then old % 2 ^ 12
    else pod + (if bit v 63 then 2 ^ 63 else 0)
  s.modFab (fun f => { f with dom := Table.set f.dom i (dw w) })

/-- DOMTAB_WRITE (R304). -/
def execDomtabWrite (index : Nat) (v : Dword) (s : State) : Host.Outcome State Fault Refusal :=
  .next (if Nat.blt index 64 then s.writeDom index v.toNat else s)

/-! ### The other registers (R303, R315-R320) -/

/-- A dword of a 256-bit key register replaced. -/
def putKeyWord (k : BitVec 256) (i v : Nat) : BitVec 256 := BitVec.ofNat 256 (setFld k.toNat (64 * i) 64 v)

/-- The recovery mailbox of the PF (R415). -/
def State.writeMailbox (s : State) (off v : Nat) : State :=
  match off with
  | 0x1000 => s.modHost (fun h => { h with rcvaddr := v })
  | 0x1008 => s.modHost (fun h => { h with rcvlen := v })
  | 0x1010 => if bit v 0 && !s.host.rcvctl then s.modHost (fun h => { h with rcvctl := true, rcvstat := 1 }) else s
  | _ => s

/-- The loader's registers of a function (R318). -/
def State.writeLoader (s : State) (fn off v : Nat) : State :=
  match off with
  | 0x1000 => s.writeLdcmd fn v
  | 0x1008 => s.modFnHost fn (fun h => { h with ldobj := v })
  | 0x1010 => s.modFnHost fn (fun h => { h with ldlen := v })
  | 0x1018 => s.modFnHost fn (fun h => { h with ldtext := v })
  | 0x1020 => s.modFnHost fn (fun h => { h with ldlaunch := v })
  | 0x1028 => s.modFnHost fn (fun h => { h with ldhandle := v })
  | _ => s

/-- An 8-byte write to BAR0 of a function (R316). One into the task ports is a write of another size (R247). -/
def State.writeBar0 (s : State) (fn off v : Nat) : State :=
  if Nat.blt off 0x400 then (if (s.fnHost fn).resetting then s else s.errcnt fn false)
  else if Nat.ble 0x1000 off && Nat.blt off 0x1100 then
    (if s.host.recover then (if fn == 0 then s.writeMailbox off v else s) else s.writeLoader fn off v)
  else if off == 0x2000 then (if bit v 0 then s.modFnHost fn (fun h => { h with tlbinv := true }) else s)
  else if off == 0x2018 then s.modFnHost fn (fun h => { h with apbase := fld v 36 21 * 2 ^ 36 })
  else if Nat.ble 0x3000 off && Nat.blt off 0x3020 then s.modFnFab fn (fun x => { x with ekey := putKeyWord x.ekey ((off - 0x3000) / 8) v })
  else if off == 0x3020 then s.modFnFab fn (fun x => { x with eksalt := BitVec.ofNat 32 v })
  else if off == 0x3028 then s.writeEkcmd fn (fld v 16 2) (v % 2 ^ 12)
  else if off == 0x8000 then s.modFnHost fn (fun h => { h with trsel := v % 2 ^ 8 })
  else if off == 0x8008 then
    (let c := (s.fnHost fn).trsel
     if bit v 8 && (s.core c).trace.owner == fn then s.modCore c (fun x => { x with trace := { x.trace with frozen := false } }) else s)
  else s

/-- Whether a pump is idle (R212). -/
def Pump.idle (p : Pump) : Bool := p.prog.isNone && p.queue.isEmpty

/-- The key registers of a port (R301). -/
def State.writePortKey (s : State) (p o v : Nat) : State :=
  if Nat.blt o 0x20 then s.modPort p (fun y => { y with hkey := putKeyWord y.hkey (o / 8) v })
  else if o == 0x20 then s.modPort p (fun y => { y with hsalt := BitVec.ofNat 32 v })
  else if o == 0x28 then s.writeHctl p (v % 2 ^ 8) (bit v 8)
  else s

/-- A pump's timing registers (R212, R319). -/
def State.writeTiming (s : State) (o v : Nat) : State :=
  let p := o / 16
  if !(s.pump p).idle then s
  else if o % 16 == 0 then s.modPump p (fun x => { x with tima := dw v }) else s.modPump p (fun x => { x with timb := dw v })

/-- An 8-byte write to the configuration window (R319, R320). DSPCFG takes AGI and QNT from 1 up
(R252). DESIGN CHOICE (log entry 37): a write that gives either of them 0 changes neither. -/
def State.writeBar4 (s : State) (off v : Nat) : State :=
  if off == 0 then s.modFab (fun f => { f with modid := v % 2 ^ 12 })
  else if off == 0x8 then s.modFab (fun f => { f with ctmo := v })
  else if off == 0x10 then (if v % 2 ^ 32 == 0 || v / 2 ^ 32 == 0 then s else (s.modDisp (fun d => { d with cfg := dw v })).keepAllPassed)
  else if Nat.ble 0x100 off && Nat.blt off 0x308 then s.modDisp (fun d => { d with fns := Table.set d.fns ((off - 0x100) / 8) (dw (v % 2 ^ 26)) })
  else if Nat.ble 0x408 off && Nat.blt off 0x608 then
    s.modHost (fun h => { h with prwin := Table.set h.prwin ((off - 0x400) / 8) (dw (v % 2 ^ 14 + fld v 32 14 * 2 ^ 32 + fld v 63 1 * 2 ^ 63)) })
  else if Nat.ble 0x700 off && Nat.blt off 0x7C0 then s.writePctl ((off - 0x700) / 8) v
  else if Nat.ble 0x800 off && Nat.blt off 0xA00 then s.writeDom ((off - 0x800) / 8) v
  else if Nat.ble 0xA20 off && Nat.blt off 0xA40 then s.modDie ((off - 0xA20) / 8) (fun d => { d with ras := dw v })
  else if Nat.ble 0x1000 off && Nat.blt off 0x1820 then
    s.modHost (fun h => { h with ptroot := Table.set h.ptroot ((off - 0x1000) / 8) (fld v 12 29 * 2 ^ 12) })
  else if Nat.ble 0x2000 off && Nat.blt off 0x2600 then s.writeTiming (off - 0x2000) v
  else if Nat.ble 0x3000 off && Nat.blt off 0x3800 then
    s.modCore ((off - 0x3000) / 8) (fun x => { x with trace := { owner := v % 2 ^ 7, classes := x.trace.classes } })
  else if Nat.ble 0x4000 off && Nat.blt off 0x4600 then s.writePortKey ((off - 0x4000) / 64) ((off - 0x4000) % 64) v
  else if Nat.ble 0x8000 off && Nat.blt off 0x10000 then
    s.modFab (fun f => { f with routes := Table.set f.routes ((off - 0x8000) / 8) (dw (v % 2 ^ 29)) })
  else s

/-- REGISTER_WRITE (R316, R319, R320): one 8-byte write at an aligned offset; bytes not listed ignore it. -/
def execRegisterWrite (w : Window) (off : Nat) (v : Dword) (s : State) : Host.Outcome State Fault Refusal :=
  if off % 8 != 0 then .next s
  else match w with
    | .bar0 fn => .next (if Nat.blt fn 65 then s.writeBar0 fn off v.toNat else s)
    | .bar4 => .next (s.writeBar4 off v.toNat)

/-! ### What a host read of a register returns (R4, R316-R320, R327) -/

/-- TRCCTL (R327). -/
def Trace.ctl (t : Trace) : Nat :=
  t.owner % 2 ^ 7 + (if t.armed.isSome then 2 ^ 7 else 0) + (if t.frozen then 2 ^ 8 else 0) + t.wptr % 2 ^ 12 * 2 ^ 12

/-- A dword of the trace buffer: dword i of the 8,192 (R326, R327). -/
def Trace.bufWord (t : Trace) (i : Nat) : Nat :=
  let e := Table.getD t.buf (i / 2) (0, 0)
  (if i % 2 == 0 then e.1 else e.2).toNat

/-- The loader's registers, or the recovery mailbox of the PF (R318, R415). -/
def State.loaderWord (s : State) (fn off : Nat) : Nat :=
  let h := s.fnHost fn
  if s.host.recover then
    if fn != 0 then 0
    else match off with
      | 0x1000 => s.host.rcvaddr
      | 0x1008 => s.host.rcvlen
      | 0x1010 => if s.host.rcvctl then 1 else 0
      | 0x1018 => s.host.rcvstat
      | _ => 0
  else match off with
    | 0x1000 => h.ldcmd % 2 ^ 4
    | 0x1008 => h.ldobj
    | 0x1010 => h.ldlen
    | 0x1018 => h.ldtext
    | 0x1020 => h.ldlaunch
    | 0x1028 => h.ldhandle
    | 0x10F0 => h.ldresult.toNat
    | 0x10F8 => h.ldstat % 2 ^ 12 + (if h.busy then 2 ^ 63 else 0)
    | _ => 0

/-- The trace of the core that a function's TRSEL selects, while the function owns it (R327). -/
def State.selTrace (s : State) (fn : Nat) : Option Trace :=
  let t := (s.core (s.fnHost fn).trsel).trace
  if t.owner == fn then some t else none

/-- The dword at an offset of a function's BAR0 (R316); the key registers read zero (R303), and so do bytes that are not listed. -/
def State.bar0Word (s : State) (fn off : Nat) : Nat :=
  let h := s.fnHost fn
  if Nat.ble 0x1000 off && Nat.blt off 0x1100 then s.loaderWord fn off
  else if off == 0x2000 then (if h.tlbinv then 1 else 0)
  else if off == 0x2008 then h.resqWord
  else if off == 0x2010 then h.errcnt.toNat
  else if off == 0x2018 then h.apbase
  else if off == 0x3028 then (s.fnFab fn).ekcmd.toNat
  else if off == 0x8000 then h.trsel
  else match s.selTrace fn with
    | some t =>
      if off == 0x8008 then t.ctl
      else if Nat.ble 0x10000 off && Nat.blt off 0x20000 then t.bufWord ((off - 0x10000) / 8) else 0
    | none => 0

/-- PCTL (R298). -/
def Port.pctl (x : Port) : Nat :=
  (if x.en then 1 else 0) + (if x.hbh then 2 else 0) + (if x.up then 4 else 0) + (if x.down then 8 else 0) + x.epoch % 2 ^ 8 * 2 ^ 4
    + x.autherr % 2 ^ 8 * 2 ^ 16 + x.crcerr % 2 ^ 16 * 2 ^ 32 + x.replay % 2 ^ 16 * 2 ^ 48

/-- HCTL (R301): NEPOCH and HELD; INSTALL reads 0 once installed. -/
def Port.hctl (x : Port) : Nat := x.nepoch % 2 ^ 8 + (if (Table.get? x.keys x.nepoch).isSome then 2 ^ 9 else 0)

/-- A die's field of DIESTAT (R323). -/
def DieState.code : DieState → Nat
  | .off => 0 | .testing => 1 | .vector => 2 | .full => 3 | .failed => 4

/-- DIESTAT (R323, R415). -/
def State.diestat (s : State) : Nat :=
  ((upto 4).map (fun d => (s.die d).state.code * 2 ^ (3 * d))).sum + (if s.host.redclk then 2 ^ 12 else 0) + (if s.host.fwok then 2 ^ 13 else 0)

/-- PRWIN as it reads: entry 0 is the whole range (R217, R320). -/
def State.prwinWord (s : State) (v : Nat) : Nat := if v == 0 then 2 ^ 63 + 0x3FFF * 2 ^ 32 else (Table.getD s.host.prwin v 0).toNat

/-- The dword at an offset of the configuration window (R320). -/
def State.bar4Word (s : State) (off : Nat) : Nat :=
  if off == 0 then s.fab.modid
  else if off == 0x8 then s.fab.ctmo
  else if off == 0x10 then s.disp.cfg.toNat
  else if off == 0x18 then s.diestat
  else if Nat.ble 0x100 off && Nat.blt off 0x308 then s.dspfn ((off - 0x100) / 8)
  else if Nat.ble 0x400 off && Nat.blt off 0x608 then s.prwinWord ((off - 0x400) / 8)
  else if Nat.ble 0x700 off && Nat.blt off 0x7C0 then (s.port ((off - 0x700) / 8)).pctl
  else if Nat.ble 0x800 off && Nat.blt off 0xA00 then (Table.getD s.fab.dom ((off - 0x800) / 8) 0).toNat
  else if Nat.ble 0xA00 off && Nat.blt off 0xA20 then (s.die ((off - 0xA00) / 8)).mxret.toNat
  else if Nat.ble 0xA20 off && Nat.blt off 0xA40 then (s.die ((off - 0xA20) / 8)).ras.toNat
  else if Nat.ble 0x1000 off && Nat.blt off 0x1820 then Table.getD s.host.ptroot ((off - 0x1000) / 8) 0
  else if Nat.ble 0x2000 off && Nat.blt off 0x2600 then
    (let p := s.pump ((off - 0x2000) / 16)
     (if off % 16 == 0 then p.tima else p.timb).toNat)
  else if Nat.ble 0x3000 off && Nat.blt off 0x3800 then (s.core ((off - 0x3000) / 8)).trace.ctl
  else if Nat.ble 0x4000 off && Nat.blt off 0x4600 then
    (if (off - 0x4000) % 64 == 0x28 then (s.port ((off - 0x4000) / 64)).hctl else 0)
  else if Nat.ble 0x8000 off && Nat.blt off 0x10000 then (Table.getD s.fab.routes ((off - 0x8000) / 8) 0).toNat
  else 0

/-- A host read of the register at an aligned offset of a window: its 8 bytes. A read of RESQ removes the entry that it returns. -/
def State.readRegister (s : State) (w : Window) (off : Nat) : State :=
  if off % 8 != 0 then s
  else match w with
    | .bar0 fn =>
      if Nat.ble 65 fn then s else if off == 0x2008 then s.popResq fn else s.reply (bytesLE 8 (s.bar0Word fn off))
    | .bar4 => s.reply (bytesLE 8 (s.bar4Word off))

/-! ### Recovery mode (R415) -/

/-- RCVCTL_GO: the update starts. -/
def execRcvctlGo (s : State) : Host.Outcome State Fault Refusal := .next (if s.host.recover then s.writeMailbox 0x1010 1 else s)

/-- RECOVERY_UPDATE_END: failed with its reason, or written to flash. -/
def execRecoveryUpdateEnd (r : RecoveryEnd) (s : State) : Host.Outcome State Fault Refusal :=
  if !(s.host.recover && s.host.rcvctl) then .next s
  else
    let (stat, flash) := match r with
      | .readFailed => (2 + 16, s.host.flash)
      | .signatureFailed => (2 + 2 * 16, s.host.flash)
      | .tooLong => (2 + 3 * 16, s.host.flash)
      | .flashWriteFailed => (2 + 4 * 16, false)
      | .written => (3, true)
    let image := match r with | .written => s.host.image + 1 | _ => s.host.image
    .next (s.modHost (fun h => { h with rcvctl := false, rcvstat := stat, flash := flash, image := image }))

end Sys2Proof.Machine
end

