-- ==== Sys2Proof/Machine/Matrix.lean ====
section
/-! DEFINITION. The M slots: tiles, result queues and transfers (R53, R145-R155, R393, R395, R396). -/

namespace Sys2Proof.Machine

def MUnit.idx : MUnit → Nat
  | .m0 => 0 | .m1 => 1

/-- The bits of an element of a tile's form. -/
def Tile.bits (t : Tile) : Nat := if t.f64 then 64 else 32
def Tile.elem (t : Tile) (i j : Nat) : Nat := Table.getD t.data (i * 64 + j) 0
/-- The lanes of row i. -/
def Tile.row (t : Tile) (i : Nat) : List Nat := (upto 64).map (fun j => t.elem i j)

/-- A tile's data from its elements in row order. -/
def tileData (es : List Nat) : Table Nat := (numbered 0 es).filter (fun e => e.2 != 0)

/-! ### MMA and MMAZ (R53, R147, R148, R151) -/

/-- Split a list into runs of n. -/
def chunksOf {α : Type} (n : Nat) : Nat → List α → List (List α)
  | 0, _ => []
  | k + 1, xs => xs.take n :: chunksOf n k (xs.drop n)

/-- The value of an element of an operand format; `d` is the fd image of a narrow one. -/
def mfValue (t : MFmt) (d v : Nat) : XVal :=
  match mfTag? t with
  | some g => (ieeeOf g).value v
  | none => (NarrowFmt.ofImage d).value v

/-- The rows of A: the run's elements in order, k to a row (R147). -/
def rowsOfA (t : MFmt) (run : List SlotBits) (fds : List Nat) : List (List XVal) :=
  chunksOf (mfK t) 32 ((run.zip fds).flatMap (fun p => (lanes (mfBits t) p.1.toNat).map (mfValue t p.2)))

/-- Column j of B: k elements from eb + j * s (R148). -/
def colOfB (t : MFmt) (fd eb stride slice : Nat) (bytes : Mem) (j : Nat) : List XVal :=
  let v := Memory.readNat bytes (eb + j * stride) slice
  (upto (mfK t)).map (fun i => mfValue t fd (fld v (mfBits t * i) (mfBits t)))

/-- One element: the accumulator and every product summed exactly, rounded once (R53). -/
def mmaElem (f : IEEE) (rm : RM) (acc : Nat) (a b : List XVal) : Nat :=
  f.round rm (sumX rm (f.value acc :: (a.zip b).map (fun p => mulX p.1 p.2)))

/-- What an array writer or MACCL leaves in a tile. -/
def MatKind.apply (x : MatKind) (bytes : Mem) (t : Tile) : Tile :=
  match x with
  | .zero d => { t with f64 := d, data := [] }
  | .maccl d ea =>
    let z := if d then 8 else 4
    { t with f64 := d, data := tileData ((upto 2048).map (fun n => Memory.readNat bytes (ea + z * n) z)) }
  | .mma fresh fmt rm run fds bfd eb stride slice =>
    let d := fmt == .f64
    let f := if d then fp64 else fp32
    let old : Tile := if fresh then {} else t
    let cols := (upto 64).map (colOfB fmt bfd eb stride slice bytes)
    { t with
      f64 := d
      data := tileData ((numbered 0 (rowsOfA fmt run fds)).flatMap (fun r =>
        (numbered 0 cols).map (fun c => mmaElem f (RM.ofMod rm) (old.elem r.1 c.1) r.2 c.2))) }

/-- Start an array writer or MACCL: its number. -/
def State.startMat (s : State) (c k u tile eff : Nat) (kind : MatKind) : Nat × State :=
  let x := s.strand c k
  let o : MatOp := { strand := k, tile := tile, bno := x.flow.bno, pc := x.ctx.pc, tl := x.ctx.tl, eff := eff, kind := kind }
  let (id, s1) := s.fresh
  (id, s1.modUnit c u (fun y => { y with ops := Table.set y.ops id o }))

/-- The touches of a matrix operation's granules, in ascending address, `per` to a cycle from cycle `due` on (R385). -/
def State.touchMat (s : State) (c k per : Nat) (what : TouchFor) : Nat → List Nat → State
  | _, [] => s
  | n, g :: gs => State.touchMat (s.touchAt c k ((s.core c).cyc + 1 + n / per) g false what) c k per what (n + 1) gs

/-- The granules of B. -/
def granulesOfB (eb stride slice : Nat) : List Nat :=
  sortUniq ((upto 64).flatMap (fun j =>
    let a := eb + j * stride
    (upto (ceilDiv (a % 64 + slice) 64)).map (fun i => a / 64 + i)))

/-- How many granules of B a cycle an MMA reads: two, or as many as it takes to read them in the 32 cycles of the array, so that the tile is
written in cycle c + 40 (R155). DEDUCED (log entry 23): R385 leaves the cycles to the unit's schedule. -/
def mmaRate (gs : List Nat) : Nat := Nat.max 2 (ceilDiv gs.length 32)

def mmaEff (v : MUnit) (t : MFmt) (zero : Bool) (i : Instr) (f : Fields) (s : State) : State :=
  let c := s.bundle.core
  let k := s.bundle.strand
  let u := MUnit.idx v
  let n := f.m 2 4
  let o := s.opdsOf c k { slot := v.slot, op := 0, i := i, f := f, sh := (shape i).getD Shape.nil }
  let tile := ((s.core c).unit u).tile n
  let first := match o.run with | x :: _ => x.tag | [] => 0
  let stride := if fld tile.mfmt 8 16 == 0 then mfSlice t else 16 * fld tile.mfmt 8 16
  let kind := MatKind.mma zero t (f.m 0 2) (o.run.map (fun x => BitVec.ofNat 2048 x.val))
    (o.run.map (fun x => s.me.fd (x.tag - 0x10))) (s.me.fd (bfdOf tile.mfmt first)) o.b.u stride (mfSlice t)
  let cyc := (s.core c).cyc
  let (id, s1) := s.startMat c k u n (cyc + 40) kind
  let gs := granulesOfB o.b.u stride (mfSlice t)
  let s2 := s1.touchMat c k (mmaRate gs) (.mma u id) 0 gs
  (s2.modUnit c u (fun y => { y with arrayFree := cyc + 32 })).at_ c (cyc + 40) true k (.tileWrite c id false)

/-! ### MZERO, MDRAIN, MACCL, MACCS, MFMT (R149, R152, R155) -/

/-- The latest effect cycle of the writers of a tile that are in flight. -/
def MatUnit.lastEff (m : MatUnit) (t : Nat) : Nat := m.ops.foldl (fun e o => if o.2.tile == t then Nat.max e (o.2.eff + 1) else e) 0

def mzeroEff (v : MUnit) (f : Fields) (s : State) : State :=
  let c := s.bundle.core
  let k := s.bundle.strand
  let u := MUnit.idx v
  let eff := Nat.max ((s.core c).cyc + 2) (((s.core c).unit u).lastEff (f.m 2 4))
  let (id, s1) := s.startMat c k u (f.m 2 4) eff (.zero (f.m 6 1 == 1))
  s1.at_ c eff true k (.tileWrite c id false)

/-- A read of a tile is in flight until its last row is read, at the end of cycle `last`. -/
def State.readTile (s : State) (c k u t last : Nat) : State :=
  let (id, s1) := s.fresh
  ((s1.modUnit c u (fun y => { y with reads := Table.set y.reads t (Table.getD y.reads t 0 + 1) })).modFlight c (fun f =>
    { f with flags := Table.set f.flags id (u, t) })).at_ c last true k (.readFlagClear c id)

/-- The appends of MDRAIN: slot i is row i, present in cycle c + 4 + i (R155). -/
def State.drainRows (s : State) (c k sel tag : Nat) : Nat → List Nat → State
  | _, [] => s
  | i, v :: vs => State.drainRows (s.appendAt c k sel tag (BitVec.ofNat 2048 v) (4 + i)) c k sel tag (i + 1) vs

def mdrainEff (v : MUnit) (f : Fields) (s : State) : State :=
  let c := s.bundle.core
  let k := s.bundle.strand
  let u := MUnit.idx v
  let t := ((s.core c).unit u).tile (f.m 2 4)
  let cyc := (s.core c).cyc
  let rows := (upto 32).map (fun i =>
    if t.f64 then ofLanes 64 (((t.row i).drop (32 * f.m 7 1)).take 32) else ofLanes 32 (t.row i))
  let s1 := s.drainRows c k (16 + 2 * u + f.m 6 1) (if t.f64 then 0x0C else 0x0B) 0 rows
  (s1.readTile c k u (f.m 2 4) (cyc + 33)).modUnit c u (fun y => { y with pathFree := cyc + 32 })

/-- The bytes of a tile in the layout of R152. -/
def Tile.bytes (t : Tile) : List Byte :=
  (upto 32).flatMap (fun i => (t.row i).flatMap (bytesLE (t.bits / 8)))

def maccsEff (v : MUnit) (f : Fields) (s : State) : State :=
  let c := s.bundle.core
  let k := s.bundle.strand
  let u := MUnit.idx v
  let t := ((s.core c).unit u).tile (f.m 2 4)
  let ea := (s.opd f.a).u
  let cyc := (s.core c).cyc
  let r := if t.f64 then 64 else 32
  let s1 := s.issueStore c k true (cellsAt (keyW (dieOf c) ea) t.bytes) (1 + r + s.storeTime c ea)
  (s1.readTile c k u (f.m 2 4) (cyc + 1 + r)).modUnit c u (fun y => { y with pathFree := cyc + r })

def macclEff (v : MUnit) (f : Fields) (s : State) : State :=
  let c := s.bundle.core
  let k := s.bundle.strand
  let u := MUnit.idx v
  let ea := (s.opd f.a).u
  let d := f.m 6 1 == 1
  let cyc := (s.core c).cyc
  let r := if d then 64 else 32
  let eff := cyc + 1 + r + s.loadTime c ea
  let (id, s1) := s.startMat c k u (f.m 2 4) eff (.maccl d ea)
  let s2 := s1.touchMat c k 4 (.maccl u id) 0 ((upto (4 * r)).map (fun i => ea / 64 + i))
  (s2.modUnit c u (fun y => { y with pathFree := cyc + r })).at_ c eff true k (.macclComplete c id)

def mfmtEff (v : MUnit) (f : Fields) (s : State) : State :=
  s.modUnit s.bundle.core (MUnit.idx v) (fun y =>
    { y with tiles := Table.set y.tiles (f.m 2 4) { y.tile (f.m 2 4) with mfmt := (s.opd f.a).u } })

/-! ### Effects on the tile -/

/-- The unit in which a matrix operation is in flight. -/
def Core.matOp? (x : Core) (id : Nat) : Option (Nat × MatOp) :=
  [0, 1].findSome? (fun u => (Table.get? (x.unit u).ops id).map (fun o => (u, o)))

/-- Whether a matrix operation still waits: for a granule, or for an earlier writer of its tile (R154). -/
def Core.matWaits (x : Core) (u id : Nat) (o : MatOp) : Bool :=
  x.flight.touches.any (fun t => match t.2.what with | .mma _ p => p == id | .maccl _ p => p == id | _ => false)
    || (x.unit u).ops.any (fun p => p.2.tile == o.tile && Nat.blt p.1 id)

/-- The effect of an array writer or MACCL: its tile is written and the write flag clears; a poisoned operand leaves the tile as it
was (R393). -/
def State.writeTile (s : State) (c u id : Nat) (o : MatOp) : State :=
  let s1 := s.modUnit c u (fun y => { y with ops := Table.erase y.ops id })
  match o.bad with
  | some key => s1.deferPoison c o.strand o.tl key
  | none => s1.modUnit c u (fun y => { y with tiles := Table.set y.tiles o.tile (o.kind.apply o.bytes (y.tile o.tile)) })

/-- A residue mismatch (R395): counted, a second within 1 s retires the core's matrix units (R396), and the strand's fault. -/
def State.residue (s : State) (c u : Nat) (o : MatOp) : State :=
  let now := s.env.ns
  let again := (s.core c).mismatch.any (fun t => Nat.ble now (t + 1000000000))
  let s1 := (s.rasInc (dieOf c) 32).modCore c (fun x => { x with mismatch := now :: x.mismatch })
  let s2 := if again then s1.modDie (dieOf c) (fun d =>
    { d with mxret := d.mxret ||| dw (2 ^ vaultOf c) }) else s1
  s2.due c o.strand { cause := 0x17, kind := .deferred, addr := dw o.pc, aux := dw (o.tile + 16 * u), engine := none, itl := o.tl }

/-- An array writer's effect cycle (R155); `residueBad` tells that the check of R395 failed on some element. -/
def execTileWrite (core id : Nat) (residueBad : Bool) (s : State) : Host.Outcome State Fault Refusal :=
  match (s.core core).matOp? id with
  | none => .next s
  | some (u, o) =>
    if (s.core core).matWaits u id o then .next (s.again core true o.strand (.tileWrite core id residueBad))
    else
      let s1 := s.writeTile core u id o
      let isMma := match o.kind with | .mma .. => true | _ => false
      .next (if residueBad && isMma && o.bad.isNone then s1.residue core u o else s1)

/-- MACCL completes (R155). -/
def execMacclComplete (core id : Nat) (s : State) : Host.Outcome State Fault Refusal :=
  match (s.core core).matOp? id with
  | none => .next s
  | some (u, o) =>
    if (s.core core).matWaits u id o then .next (s.again core true o.strand (.macclComplete core id))
    else .next (s.writeTile core u id o)

/-- The last row of an MDRAIN or MACCS has been read (R154). -/
def execReadFlagClear (core id : Nat) (s : State) : Host.Outcome State Fault Refusal :=
  match Table.get? (s.core core).flight.flags id with
  | none => .next s
  | some (u, t) =>
    .next ((s.modFlight core (fun f => { f with flags := Table.erase f.flags id })).modUnit core u (fun y =>
      let n := Table.getD y.reads t 0
      { y with reads := if Nat.ble n 1 then Table.erase y.reads t else Table.set y.reads t (n - 1) }))

/-! ### Meanings -/

/-- R151. -/
def execMma (u : MUnit) (t : MFmt) (f : Fields) (s : State) : Host.Outcome State Fault Refusal :=
  issueOne (.mma u t f) (mmaEff u t false (.mma u t f) f) s
/-- R151. -/
def execMmaz (u : MUnit) (t : MFmt) (f : Fields) (s : State) : Host.Outcome State Fault Refusal :=
  issueOne (.mmaz u t f) (mmaEff u t true (.mmaz u t f) f) s
/-- R152. -/
def execMzero (u : MUnit) (f : Fields) (s : State) : Host.Outcome State Fault Refusal := issueOne (.mzero u f) (mzeroEff u f) s
/-- R152. -/
def execMdrain (u : MUnit) (f : Fields) (s : State) : Host.Outcome State Fault Refusal := issueOne (.mdrain u f) (mdrainEff u f) s
/-- R152. -/
def execMaccl (u : MUnit) (f : Fields) (s : State) : Host.Outcome State Fault Refusal := issueOne (.maccl u f) (macclEff u f) s
/-- R152. -/
def execMaccs (u : MUnit) (f : Fields) (s : State) : Host.Outcome State Fault Refusal := issueOne (.maccs u f) (maccsEff u f) s
/-- R149. -/
def execMfmt (u : MUnit) (f : Fields) (s : State) : Host.Outcome State Fault Refusal := issueOne (.mfmt u f) (mfmtEff u f) s

end Sys2Proof.Machine
end

