-- ==== Sys2Proof/Machine/ResetRows.lean ====
section
/-! DEFINITION. What PCIe answers (R272, R414), resets (R321, R322), dies entering service and their self-tests (R323), clocks (R324). -/

namespace Sys2Proof.Machine

/-! ### Answers for host pages (R272, R414) -/

/-- Change the state of a host page of a function; nothing while the function is being reset. -/
def State.answerPage (s : State) (fn page : Nat) (g : PageState → FnHost → FnHost) : State :=
  let h := s.fnHost fn
  if h.resetting then s
  else match Table.get? h.pages page with
    | some p => s.modFnHost fn (g p)
    | none => s

def FnHost.setPage (h : FnHost) (page : Nat) (p : PageState) : FnHost := { h with pages := Table.set h.pages page p }

/-- PRI_RESPONSE (R272, R414). -/
def execPriResponse (fn page : Nat) (code : PriCode) (s : State) : Host.Outcome State Fault Refusal :=
  .next (s.answerPage fn page (fun p h =>
    match p with
    | .pri w =>
      (match code with
      | .success => h.setPage page (.again w)
      | .invalidRequest => h.setPage page (.refused 16)
      | .responseFailure => { h.setPage page (.refused 16) with priStop := true })
    | _ => h))

/-- PRI_TIMEOUT (R272): no response within 1 s. -/
def execPriTimeout (fn page : Nat) (s : State) : Host.Outcome State Fault Refusal :=
  .next (s.answerPage fn page (fun p h => match p with | .pri _ => h.setPage page (.refused 16) | _ => h))

/-- ATS_COMPLETION (R272, R414): what the host grants, also after a page request; or an error. -/
def execAtsCompletion (fn page : Nat) (ans : AtsAnswer) (s : State) : Host.Outcome State Fault Refusal :=
  .next (s.answerPage fn page (fun p h =>
    let told := fun (asked : Option Bool) => match ans with
      | .granted r w => h.setPage page (.held r w asked)
      | .error => h.setPage page (.refused 0)
    match p with
    | .ats => told none
    | .again w => told (some w)
    | _ => h))

/-- ATS_INVALIDATION (R270, R272): a translation held for a page is forgotten. -/
def execAtsInvalidation (fn page : Nat) (s : State) : Host.Outcome State Fault Refusal :=
  match Table.get? (s.fnHost fn).pages page with
  | some (.held _ _ _) => .next (s.modFnHost fn (fun h => { h with pages := Table.erase h.pages page }))
  | _ => .next s

/-- The completion of a host line that is on its way. -/
def State.completeLine (s : State) (fn addr : Nat) (r : List Byte × Bool × Bool) : State :=
  let line := addr / 64 * 64
  if (s.fnHost fn).resetting then s
  else match s.hostLine fn line with
    | some none => s.modFnHost fn (fun h => { h with reads := Table.set h.reads line (some r) })
    | _ => s

/-- HOST_READ_COMPLETION (R414). -/
def execHostReadCompletion (fn : Nat) (addr : Nat) (ok poisoned : Bool) (data : List Byte) (s : State) :
    Host.Outcome State Fault Refusal := .next (s.completeLine fn addr (data, ok, poisoned))

/-- HOST_READ_TIMEOUT (R414): no completion within 50 ms counts as a poisoned one. -/
def execHostReadTimeout (fn : Nat) (addr : Nat) (s : State) : Host.Outcome State Fault Refusal :=
  .next (s.completeLine fn addr ([], true, true))

/-- PRI_RESET (R414). -/
def execPriReset (fn : Nat) (s : State) : Host.Outcome State Fault Refusal :=
  .next (s.modFnHost fn (fun h => { h with priStop := false }))

/-- ATS_OR_BUS_MASTER_ENABLE (R414). -/
def execAtsOrBusMasterEnable (fn : Nat) (ats bme : Bool) (s : State) : Host.Outcome State Fault Refusal :=
  .next (s.modFnHost fn (fun h => { h with atsOn := ats, bme := bme }))

/-! ### Resets (R321, R322) -/

/-- The key slots that a firmware image loads (R289, R322). -/
def imageSlots (image : Nat) : Table (List Byte) :=
  (upto 4).filterMap (fun i => (Config.imageKey image i).map (fun k => (i, k)))

/-- The pumps as a firmware image leaves them at bring-up: their timing registers loaded (R212, R322). -/
def imagePumps (image : Nat) : Table Pump :=
  (upto 96).map (fun p => (p, { tima := (Config.imageTiming image p).1, timb := (Config.imageTiming image p).2 }))

/-- The module after its reset (R322): every register at its reset value; memory, and what drives the run, as they were. With an image that
verifies the wellhead loads the pump timing registers and the key slots. -/
def State.moduleReset (s : State) (ok : Bool) : State :=
  { State.reset with
    mem := s.mem, poison := s.poison
    env := { s.env with ck := 0 }
    pumps := if ok then imagePumps s.host.image else []
    host := { fwok := ok, recover := !ok, flash := s.host.flash, image := s.host.image,
              slots := if ok then imageSlots s.host.image else [] } }

/-- MODULE_RESET (R322, R415): the image verifies, or the module stays in recovery mode. -/
def execModuleReset (imageVerifies : Bool) (s : State) : Host.Outcome State Fault Refusal :=
  .next (s.moduleReset (imageVerifies && s.host.flash))

/-- Free one entry of a function under reset: no notify word is written (R321). -/
def State.bindOffEntry (s : State) (fn key : Nat) : State :=
  match s.task? key with
  | none => s
  | some t =>
    let s1 := if t.st == .husk then s else s.satisfy fn (t.id key) true
    let s2 := s1.releaseRefs key
    match s2.task? key with
    | some t1 => s2.freeEntry key t1
    | none => s2

def State.bindOffEntries (s : State) (fn : Nat) : List Nat → State
  | [] => s
  | key :: ks => State.bindOffEntries (s.bindOffEntry fn key) fn ks

/-- The objects of a function become CLOSING. -/
def closeOf (fn : Nat) (c : Nat × Code) : Nat × Code := if c.2.fn == fn then (c.1, { c.2 with st := .closing }) else c

/-- FUNCTION_LEVEL_RESET (R321): what bind-offs under way have still to release is released too. Of the PF it resets the module; of a VF it lasts until the last of its objects is freed (R288). -/
def execFunctionLevelReset (vf : Nat) (s : State) : Host.Outcome State Fault Refusal :=
  if vf == 0 then .next (s.moduleReset (s.host.flash && (s.host.fwok || s.host.rcvstat == 3)))
  else if Nat.blt 64 vf then .next s
  else
    let keys := (s.liveEntries vf).map Prod.fst
    let lists := s.disp.walks.flatMap (fun (w : Nat × Walk) => if w.2.fn == vf then w.2.lists else [])
    let s1 := lists.foldl (fun (x : State) l => x.submit (.release vf l.1 l.2)) ((s.stopAll keys).bindOffEntries vf keys)
    let h := s1.fnHost vf
    let s2 := { s1 with codes := s1.codes.map (closeOf vf) }.modDisp (fun d => { d with walks := d.walks.filter (fun w => w.2.fn != vf) })
    let s3 := s2.modFab (fun f => { f with fns := Table.erase f.fns vf })
    .next (s3.modFnHost vf (fun _ =>
      { atsOn := h.atsOn, bme := h.bme, priStop := h.priStop, prAlloc := h.prAlloc, resetting := s3.codes.any (fun c => c.2.fn == vf) }))

/-! ### Dies and clocks (R286, R323, R324) -/

/-- The refresh timers of a die's pumps start, with nothing owed (R220). -/
def State.startTimers (s : State) (die : Nat) : State :=
  (upto 24).foldl (fun u p => u.modPump (24 * die + p) (fun x => { x with owed := 0, marks := 0, timer := some (s.env.ck + x.tREFI) })) s

/-- DIE_ENTERS_SERVICE (R220, R322, R323): the lowest die that is off or testing, once the image has verified. -/
def execDieEntersService (die : Nat) (s : State) : Host.Outcome State Fault Refusal :=
  let waits := fun (d : Nat) => match (s.die d).state with | .off => true | .testing => true | _ => false
  if !s.host.fwok || !Nat.blt die 4 || !waits die || (upto die).any waits then .next s
  else
    let s1 := s.copyTexts die s.codes
    .next ((s1.startTimers die).setDieState die .vector)

/-- MATRIX_SELF_TEST_END (R323). -/
def execMatrixSelfTestEnd (die : Nat) (pass : Bool) (s : State) : Host.Outcome State Fault Refusal :=
  match (s.die die).state with
  | .vector => .next (if pass then s.setDieState die .full else s.failDie die)
  | _ => .next s

/-- CLOCK_CHANGE (R323, R324): steps of 100 MHz from 800 to 2,400, at most 1,200 while REDCLK is set. -/
def execClockChange (core mhz : Nat) (s : State) : Host.Outcome State Fault Refusal :=
  if Nat.blt core 256 && mhz % 100 == 0 && Nat.ble 800 mhz && Nat.ble mhz (if s.host.redclk then 1200 else 2400) then
    .next (s.modCore core (fun x => { x with clk := mhz }))
  else .next s

end Sys2Proof.Machine
end

