-- ==== Sys2Proof/Machine/XSlot.lean ====
section
/-! DEFINITION. The X-slot syllables other than the row's (R193, R197-R207, R376, R377): descriptors, grafts, tasks, groups, trace; and the
rows that end the completing ones (R198) and deliver grafted results and credits (R34). -/

namespace Sys2Proof.Machine

/-! ### Completing syllables (R198) -/

/-- What a completing syllable reads of n bytes at P offset `a` in its issue cycle (R337). -/
def State.xRead (s : State) (a n align : Nat) : XRead :=
  let c := s.bundle.core
  let k := s.bundle.strand
  let keys := (upto n).map (fun i => keyP c a + i)
  if (s.addrBad c k false (a : Int) n align).isSome then .bad
  else match s.firstPoison (keys.filter (fun x => (overlay (s.core c).flight.stores k s.me.flow.bno x).isNone)) with
    | some x => .poison x
    | none => .words ((dwords (keys.map (fun x => s.loadByte c k s.me.flow.bno x false)) (n / 8)).map dw)

/-- The strand waits for a completing operation, whose row is due at the end of a later cycle. -/
def State.startX (s : State) (w : XWait) (lat : Nat) (row : Instr) : State :=
  let c := s.bundle.core
  let k := s.bundle.strand
  (s.modMyFlow (fun f => { f with xwait := some w })).at_ c ((s.core c).cyc + lat) true k row

/-- The SYL word of a completing syllable's refusal. -/
def xAux (op : Nat) : Dword := dw (sylAux .x op 6)

/-- Reserve n slots of a scalar queue for results tagged UINT64, none with dst 31 (R64, R376). -/
def State.reserveIds (s : State) (c k dst : Nat) : Nat → List Nat × State
  | 0 => ([], s)
  | n + 1 =>
    if dst == 31 then ([], s)
    else
      let (id, s1) := s.reservePend c k dst 8 0 .whole
      let (ids, s2) := State.reserveIds s1 c k dst n
      (id :: ids, s2)

/-- The operation is done: the strand goes on. -/
def State.endX (s : State) (c k : Nat) : State := s.modFlow c k (fun f => { f with xwait := none })

/-- The post-issue traps of a bundle with an X refusal: after the S syllable's, before a budget fault (R365). -/
def withRefusal (t : Trap) : List Trap → List Trap
  | [] => [t]
  | p :: ps => if p.cause == 0x11 then t :: p :: ps else p :: withRefusal t ps

/-- The operation is refused: a post-issue trap of its bundle (R198); slots it reserved stay absent (R358). -/
def State.refuseX (s : State) (c k cause addr : Nat) (aux : Dword) (ids : List Nat) : State :=
  let t := s.postTrap c k cause addr aux.toNat
  ((s.orphans c ids).endX c k).modFlow c k (fun f => { f with post := withRefusal t f.post })

/-- The ADDR of a refusal: the bundle, or the address that the cause goes with (R341). -/
def State.refusalAddr (s : State) (c k cause addr : Nat) : Nat :=
  if cause == 0x0A || cause == 0x0F || cause == 0x16 then addr else (s.strand c k).flow.lastPc

/-- The dispatcher refuses the operation: 0x16 tells the space of the granule, other causes the syllable (R250, R341). -/
def State.refuseVa (s : State) (c k : Nat) (f : VaFault) (aux : Dword) (ids : List Nat) : State :=
  s.refuseX c k f.cause (s.refusalAddr c k f.cause f.addr) (if f.cause == 0x16 then dw f.aux else aux) ids

/-- A completing syllable whose read in P met poison: 0x16 with the granule (R341, R392). -/
def State.refusePoison (s : State) (c k key : Nat) (ids : List Nat) : State :=
  let t := s.postTrap c k 0x16 (granuleAddr key) (spaceOf key)
  ((s.orphans c ids).endX c k).modFlow c k (fun f => { f with post := withRefusal t f.post })

/-- The values of reserved slots become present in the next cycle. -/
def State.giveIds (s : State) (c k : Nat) : List Nat → List Nat → State
  | id :: ids, v :: vs =>
    let s1 := s.modFlight c (fun f =>
      { f with pends := match Table.get? f.pends id with
          | some p => Table.set f.pends id { p with val := BitVec.ofNat 2048 v }
          | none => f.pends })
    State.giveIds (s1.at_ c ((s1.core c).cyc + 1) false k (.slotWrite c id)) c k ids vs
  | _, _ => s

/-! ### Descriptors -/

/-- QDESC (R199): an empty window; results of the bundle on their way to the queue are gone with it. -/
def qdescEff (f : Fields) (s : State) : State :=
  let c := s.bundle.core
  let k := s.bundle.strand
  let n := f.m 0 4
  let q := Queue.ofImage (s.opd f.a).u (s.opd f.b).u
  (s.setQueue c k n q).modFlight c (fun g => { g with pends := g.pends.filter (fun p => !(p.2.strand == k && p.2.q == n)) })

def fdsetEff (f : Fields) (s : State) : State :=
  let a := (s.opd f.a).u
  s.modMyCtx (fun x => { x with fds := Table.set x.fds (f.m 0 4) a })

/-! ### Grafts (R200, R201) -/

/-- Whether queue n may not become a source (R200, R361). -/
def Queue.noSource (q : Queue) : Bool := !q.en || q.occ != 0 || q.gsrc || q.gtgt

/-- Whether a queue may not become the target of a source (R200, R33). -/
def Queue.noTarget (q src : Queue) : Bool := !q.en || q.wide != src.wide || q.gtgt || q.gsrc

/-- QGRAFT (R200): done at the earliest in the next cycle; no figure inside its bound is fixed (R422, log entry 15). -/
def qgraftEff (f : Fields) (s : State) : State :=
  s.startX (.graft (f.m 0 4) (s.opd f.a).u (xAux 0x011)) 1 (.qgraftDone s.bundle.core s.bundle.strand)

/-- QGRAFT's answer (R200). -/
def execQgraftDone (core strand : Nat) (s : State) : Host.Outcome State Fault Refusal :=
  match (s.strand core strand).flow.xwait with
  | some (.graft q w aux) =>
    let src := s.queue core strand q
    let tc := w % 2 ^ 8
    let tk := fld w 8 2
    let tq := fld w 10 4
    let pc := (s.strand core strand).flow.lastPc
    let t := s.strand tc tk
    if src.noSource || Nat.ble (2 ^ 14) w then .next (s.refuseX core strand 0x18 pc aux [])
    else if !t.live || t.place.fn != (s.strand core strand).place.fn then .next (s.refuseX core strand 0x14 pc aux [])
    else if (t.queue tq).noTarget src || (tc == core && tk == strand && tq == q) then .next (s.refuseX core strand 0x18 pc aux [])
    else .next ((s.joinGraft core strand q tc tk tq).endX core strand)
  | _ => .next s

def qungraftEff (f : Fields) (s : State) : State :=
  s.startX (.ungraft (f.m 0 4) (xAux 0x012)) 1 (.qungraftDone s.bundle.core s.bundle.strand)

/-- Whether a source queue's results or credits are still on their way (R201). -/
def State.graftBusy (s : State) (c k n : Nat) : Bool :=
  let q := s.queue c k n
  (s.core c).flight.pends.any (fun p => p.2.strand == k && p.2.q == n && p.2.graft)
    || (s.core q.gcore).flight.grafts.any (fun g => g.2.strand == q.gstr && g.2.q == q.gq)
    || (s.core c).flight.credits.any (fun x => x.2.strand == k && x.2.q == n)

/-- The queue is no source any more. -/
def Queue.ungraft (q : Queue) : Queue :=
  { q with gsrc := false, gcred := 0, gtlog := 0, gcore := 0, gstr := 0, gq := 0, broken := false }

/-- The results of a source queue that are not delivered yet are dropped (R361). -/
def State.dropPends (s : State) (c k n : Nat) : State :=
  s.modFlight c (fun f => { f with pends := f.pends.filter (fun p => !(p.2.strand == k && p.2.q == n && p.2.graft)) })

/-- QUNGRAFT's end (R201, R361). -/
def execQungraftDone (core strand : Nat) (s : State) : Host.Outcome State Fault Refusal :=
  match (s.strand core strand).flow.xwait with
  | some (.ungraft n aux) =>
    let q := s.queue core strand n
    if !q.gsrc then .next (s.refuseX core strand 0x18 (s.strand core strand).flow.lastPc aux [])
    else if q.broken then .next (((s.modQueue core strand n Queue.ungraft).dropPends core strand n).endX core strand)
    else if s.graftBusy core strand n then .next (s.again core true strand (.qungraftDone core strand))
    else
      let s1 := if Nat.blt q.gcore 256 then s.modQueue q.gcore q.gstr q.gq (fun d => { d with gtgt := false }) else s
      .next ((s1.modQueue core strand n Queue.ungraft).endX core strand)
  | _ => .next s

/-- A grafted result reaches its target (R34). -/
def execGraftArrival (core id : Nat) (s : State) : Host.Outcome State Fault Refusal :=
  match Table.get? (s.core core).flight.grafts id with
  | some g =>
    if (s.core core).flight.grafts.any (fun y => Nat.blt y.1 id && y.2.strand == g.strand && y.2.q == g.q) then
      .next (s.again core false g.strand (.graftArrival core id))
    else
      .next ((s.modFlight core (fun f => { f with grafts := Table.erase f.grafts id })).arrive core g.strand g.q g.tag g.val)
  | none => .next s

/-- A credit reaches its source (R34); a broken graft keeps none (R361). -/
def execGraftCreditReturn (core id : Nat) (s : State) : Host.Outcome State Fault Refusal :=
  match Table.get? (s.core core).flight.credits id with
  | some x =>
    .next ((s.modFlight core (fun f => { f with credits := Table.erase f.credits id })).modQueue core x.strand x.q
      (fun q => if q.gsrc && !q.broken then { q with gcred := q.gcred + 1 } else q))
  | none => .next s

/-! ### Tasks (R203-R206) -/

def tspawnEff (f : Fields) (s : State) : State :=
  let a := (s.opd f.a).u
  let got := s.xRead a 128 64
  let arg := (s.opd f.b).u
  let (ids, s1) := s.reserveIds s.bundle.core s.bundle.strand f.dst.toNat 1
  s1.startX (.spawn ids got arg (xAux 0x020)) 1 (.tspawnEntry s.bundle.core s.bundle.strand)

/-- The record TSPAWN enters (R203): its parent, and the argument pointer that a non-zero B replaces. -/
def spawnRecord (r : List Dword) (parent arg : Nat) : List Dword :=
  let r1 := recSet r 4 (rdw r 4 / 2 ^ 32 * 2 ^ 32 + parent)
  if arg == 0 then r1 else recSet r1 9 arg

/-- TSPAWN's step in the dispatcher (R203). -/
def execTspawnEntry (core strand : Nat) (s : State) : Host.Outcome State Fault Refusal :=
  let p := (s.strand core strand).place
  match (s.strand core strand).flow.xwait with
  | some (.spawn ids got arg aux) =>
    (match got with
    | .bad => .next (s.refuseX core strand 0x18 (s.refusalAddr core strand 0x18 0) aux ids)
    | .poison key => .next (s.refusePoison core strand key ids)
    | .words r =>
      if !(s.core core).flight.settled strand (s.strand core strand).flow.bno then
        .next (s.again core true strand (.tspawnEntry core strand))
      else
      let parent := p.gen * 2 ^ 18 + p.task
      match s.accept p.fn (spawnRecord r parent arg) (fld (rdw r 3) 10 3) parent true with
      | (.wait, s1) => .next (s1.again core true strand (.tspawnEntry core strand))
      | (.bad f, s1) => .next (s1.refuseVa core strand f aux ids)
      | (.ok id, s1) => .next ((s1.giveIds core strand ids [id]).endX core strand))
  | _ => .next s

def tforkEff (f : Fields) (s : State) : State :=
  let w := (s.opd f.a).u
  let got := s.xRead (s.opd f.b).u 128 64
  let (ids, s1) := s.reserveIds s.bundle.core s.bundle.strand f.dst.toNat (w % 2 ^ 7)
  s1.startX (.fork ids w got (xAux 0x021)) 1 (.tforkStep s.bundle.core s.bundle.strand)

/-- TFORK's step in the dispatcher (R204, R218). -/
def execTforkStep (core strand : Nat) (s : State) : Host.Outcome State Fault Refusal :=
  let p := (s.strand core strand).place
  let key := taskKey p.fn p.task
  match (s.strand core strand).flow.xwait, s.task? key with
  | some (.fork ids w got aux), some t =>
    let run := fun (m : Option (List Dword)) =>
      if !(s.core core).flight.settled strand (s.strand core strand).flow.bno then s.again core true strand (.tforkStep core strand)
      else match s.fork key t w m with
      | (.wait, s1) => s1.again core true strand (.tforkStep core strand)
      | (.refuse f, s1) => s1.refuseVa core strand f aux ids
      | (.ok kids, s1) => (s1.giveIds core strand ids kids).endX core strand
    (match got with
    | .poison x => .next (s.refusePoison core strand x ids)
    | .bad => .next (run none)
    | .words m => .next (run (some m)))
  | _, _ => .next s

/-- TCANCEL (R205, R376): a bind-off of the subtree, or the result 0 for an ID that names no task. -/
def tcancelEff (f : Fields) (s : State) : State :=
  let c := s.bundle.core
  let k := s.bundle.strand
  let fn := s.me.place.fn
  let id := (s.opd f.a).u
  let known := Nat.blt id (2 ^ 32) && (s.taskOfId fn id).isSome
  if !known then s.appendScalar f (8, 0) 1
  else
    let (ids, s1) := s.reserveIds c k f.dst.toNat 1
    let (n, s2) := s1.fresh
    let s3 := s2.modDisp (fun d => { d with walks := Table.set d.walks n { fn := fn, root := id, by_ := (c, k), pend := ids.head? } })
    (s3.at_ c ((s3.core c).cyc + 1) true k (.bindOffStop n)).at_ c ((s3.core c).cyc + 2) true k (.bindOffWalk n)

/-- TPRIO (R206, R251). -/
def tprioEff (f : Fields) (s : State) : State :=
  let fn := s.me.place.fn
  let id := (s.opd f.a).u
  let p := (s.opd f.b).u % 8
  let own := s.me.place.gen * 2 ^ 18 + s.me.place.task
  if Nat.ble (2 ^ 32) id then s
  else match s.taskOfId fn (if id == 0 then own else id) with
    | some (key, t) => s.setTask key (s.keepPassed { t with prio := p })
    | none => s

/-! ### Address groups (R193) -/

def agsetEff (f : Fields) (s : State) : State :=
  let a := (s.opd f.a).u
  let got := match s.xRead a 8 8 with
    | .words (h :: _) =>
      let m := h.toNat
      if Nat.ble 1 m && Nat.ble m 64 then s.xRead a (8 + 8 * m) 8 else .words [h]
    | g => g
  s.startX (.agset got (s.opd f.b).u (xAux 0x030)) 1 (.agsetDone s.bundle.core s.bundle.strand)

/-- Whether a table of AGSET breaks its layout (R193). -/
def agTableBad (ws : List Dword) : Bool :=
  let m := rdw ws 0
  m == 0 || Nat.blt 64 m || ws.length != m + 1 || !(ws.drop 1).all (fun w => fld w.toNat 56 8 == 1)

/-- Whether a member module is in the domain (R193, R304). -/
def State.inDomain (s : State) (w : Dword) : Bool := bit (Table.getD s.fab.dom (fld w.toNat 50 6) 0).toNat 63

/-- Whether an MLDR of the group is in flight (R193). -/
def State.groupBusy (s : State) (fn g : Nat) : Bool :=
  s.ops.any (fun o => o.2.fn == fn && (match o.2.kind with | .mldr _ _ h _ => h % 64 == g | _ => false))

/-- AGSET's end (R193): the checks in their order; while an MLDR of the group is in flight it waits. -/
def execAgsetDone (core strand : Nat) (s : State) : Host.Outcome State Fault Refusal :=
  let fn := (s.strand core strand).place.fn
  let pc := (s.strand core strand).flow.lastPc
  match (s.strand core strand).flow.xwait with
  | some (.agset got g aux) =>
    (match got with
    | .poison key => .next (s.refusePoison core strand key [])
    | .bad => .next (s.refuseX core strand 0x18 pc aux [])
    | .words ws =>
      let ms := ws.drop 1
      if agTableBad ws || Nat.ble 64 g then .next (s.refuseX core strand 0x18 pc aux [])
      else if !ms.all s.inDomain then .next (s.refuseX core strand 0x14 pc aux [])
      else if ms.any (fun m => match s.memberPod m with | some p => s.endToEnd fn p | none => false) then
        .next (s.refuseX core strand 0x15 pc aux [])
      else if s.groupBusy fn g then .next (s.again core true strand (.agsetDone core strand))
      else .next ((s.modFnFab fn (fun x => { x with groups := Table.set x.groups g ms })).endX core strand))
  | _ => .next s

/-! ### Trace (R207, R326-R328) -/

/-- A TRACE acts only for the owner function and while the buffer is not frozen. -/
def State.traceCtl (s : State) (g : Trace → Trace) : State :=
  let x := s.core s.bundle.core
  if s.me.place.fn == x.trace.owner && !x.trace.frozen then s.setCore s.bundle.core { x with trace := g x.trace } else s

def traceOnEff (f : Fields) (s : State) : State :=
  let a := (s.opd f.a).u
  s.traceCtl (fun t => { t with classes := a % 2 ^ 8 })

def traceOffEff (s : State) : State := s.traceCtl (fun t => { t with classes := 0 })

/-- The marker: always recorded. -/
def traceMarkEff (f : Fields) (s : State) : State := s.trace s.bundle.core s.bundle.strand 5 (s.opd f.a).u

def traceArmEff (f : Fields) (s : State) : State :=
  let a := (s.opd f.a).u
  s.traceCtl (fun t => { t with armed := some (dw a), post := none })

/-! ### Meanings -/

/-- R199, R376, R377. -/
def execQdesc (f : Fields) (s : State) : Host.Outcome State Fault Refusal := issueOne (.qdesc f) (qdescEff f) s
/-- R200. -/
def execQgraft (f : Fields) (s : State) : Host.Outcome State Fault Refusal := issueOne (.qgraft f) (qgraftEff f) s
/-- R201. -/
def execQungraft (f : Fields) (s : State) : Host.Outcome State Fault Refusal := issueOne (.qungraft f) (qungraftEff f) s
/-- R202. -/
def execFdset (f : Fields) (s : State) : Host.Outcome State Fault Refusal := issueOne (.fdset f) (fdsetEff f) s
/-- R203. -/
def execTspawn (f : Fields) (s : State) : Host.Outcome State Fault Refusal := issueOne (.tspawn f) (tspawnEff f) s
/-- R204. -/
def execTfork (f : Fields) (s : State) : Host.Outcome State Fault Refusal := issueOne (.tfork f) (tforkEff f) s
/-- R205. -/
def execTcancel (f : Fields) (s : State) : Host.Outcome State Fault Refusal := issueOne (.tcancel f) (tcancelEff f) s
/-- R206. -/
def execTprio (f : Fields) (s : State) : Host.Outcome State Fault Refusal := issueOne (.tprio f) (tprioEff f) s
/-- R193. -/
def execAgset (f : Fields) (s : State) : Host.Outcome State Fault Refusal := issueOne (.agset f) (agsetEff f) s
/-- R207. -/
def execTraceOn (f : Fields) (s : State) : Host.Outcome State Fault Refusal := issueOne (.traceOn f) (traceOnEff f) s
/-- R207. -/
def execTraceOff (f : Fields) (s : State) : Host.Outcome State Fault Refusal := issueOne (.traceOff f) traceOffEff s
/-- R207. -/
def execTraceMark (f : Fields) (s : State) : Host.Outcome State Fault Refusal := issueOne (.traceMark f) (traceMarkEff f) s
/-- R207, R328. -/
def execTraceArm (f : Fields) (s : State) : Host.Outcome State Fault Refusal := issueOne (.traceArm f) (traceArmEff f) s

end Sys2Proof.Machine
end

