-- ==== Sys2Proof/Machine/Dispatch.lean ====
section
/-! DEFINITION. The meaning of every row: one arm per constructor, one direct call each. -/

namespace Sys2Proof.Machine

/-- What a row does (spec/opcode_table.json). -/
def exec (i : Instr) (s : State) : Host.Outcome State Fault Refusal :=
  match i with
  | .emptyBundle yield => Sys2Proof.Machine.execEmptyBundle yield s
  | .runLimit core => Sys2Proof.Machine.execRunLimit core s
  | .waitLimitExpiry core strand => Sys2Proof.Machine.execWaitLimitExpiry core strand s
  | .waitExpiry core strand => Sys2Proof.Machine.execWaitExpiry core strand s
  | .budgetFault core strand => Sys2Proof.Machine.execBudgetFault core strand s
  | .takeTrap core strand t => Sys2Proof.Machine.execTakeTrap core strand t s
  | .deferredFaultTaken core strand => Sys2Proof.Machine.execDeferredFaultTaken core strand s
  | .kill fn task k => Sys2Proof.Machine.execKill fn task k s
  | .nop f => Sys2Proof.Machine.execNop f s
  | .add w64 f => Sys2Proof.Machine.execAdd w64 f s
  | .sub w64 f => Sys2Proof.Machine.execSub w64 f s
  | .mul w64 f => Sys2Proof.Machine.execMul w64 f s
  | .mulhs w64 f => Sys2Proof.Machine.execMulhs w64 f s
  | .mulhu w64 f => Sys2Proof.Machine.execMulhu w64 f s
  | .div w64 f => Sys2Proof.Machine.execDiv w64 f s
  | .divu w64 f => Sys2Proof.Machine.execDivu w64 f s
  | .rem w64 f => Sys2Proof.Machine.execRem w64 f s
  | .remu w64 f => Sys2Proof.Machine.execRemu w64 f s
  | .shl w64 f => Sys2Proof.Machine.execShl w64 f s
  | .shr w64 f => Sys2Proof.Machine.execShr w64 f s
  | .sar w64 f => Sys2Proof.Machine.execSar w64 f s
  | .and f => Sys2Proof.Machine.execAnd f s
  | .or f => Sys2Proof.Machine.execOr f s
  | .xor f => Sys2Proof.Machine.execXor f s
  | .andn f => Sys2Proof.Machine.execAndn f s
  | .min f => Sys2Proof.Machine.execMin f s
  | .max f => Sys2Proof.Machine.execMax f s
  | .minu f => Sys2Proof.Machine.execMinu f s
  | .maxu f => Sys2Proof.Machine.execMaxu f s
  | .clz f => Sys2Proof.Machine.execClz f s
  | .popc f => Sys2Proof.Machine.execPopc f s
  | .sext f => Sys2Proof.Machine.execSext f s
  | .zext f => Sys2Proof.Machine.execZext f s
  | .li f => Sys2Proof.Machine.execLi f s
  | .movq f => Sys2Proof.Machine.execMovq f s
  | .dup f => Sys2Proof.Machine.execDup f s
  | .drop f => Sys2Proof.Machine.execDrop f s
  | .qlen f => Sys2Proof.Machine.execQlen f s
  | .cmp cc f => Sys2Proof.Machine.execCmp cc f s
  | .sel f => Sys2Proof.Machine.execSel f s
  | .ptg f => Sys2Proof.Machine.execPtg f s
  | .br f => Sys2Proof.Machine.execBr f s
  | .brc f => Sys2Proof.Machine.execBrc f s
  | .call f => Sys2Proof.Machine.execCall f s
  | .ret f => Sys2Proof.Machine.execRet f s
  | .loop f => Sys2Proof.Machine.execLoop f s
  | .loopSp f => Sys2Proof.Machine.execLoopSp f s
  | .loopSw f => Sys2Proof.Machine.execLoopSw f s
  | .loopTask f => Sys2Proof.Machine.execLoopTask f s
  | .shapeFetchReturn core strand => Sys2Proof.Machine.execShapeFetchReturn core strand s
  | .lend f => Sys2Proof.Machine.execLend f s
  | .vany f => Sys2Proof.Machine.execVany f s
  | .vall f => Sys2Proof.Machine.execVall f s
  | .ktest f => Sys2Proof.Machine.execKtest f s
  | .kwait f => Sys2Proof.Machine.execKwait f s
  | .qwait f => Sys2Proof.Machine.execQwait f s
  | .trap f => Sys2Proof.Machine.execTrap f s
  | .eret f => Sys2Proof.Machine.execEret f s
  | .srd f => Sys2Proof.Machine.execSrd f s
  | .swr f => Sys2Proof.Machine.execSwr f s
  | .phase f => Sys2Proof.Machine.execPhase f s
  | .trig f => Sys2Proof.Machine.execTrig f s
  | .endStrand f => Sys2Proof.Machine.execEndStrand f s
  | .ldp f => Sys2Proof.Machine.execLdp f s
  | .ldw f => Sys2Proof.Machine.execLdw f s
  | .stp f => Sys2Proof.Machine.execStp f s
  | .stw f => Sys2Proof.Machine.execStw f s
  | .ldpv f => Sys2Proof.Machine.execLdpv f s
  | .ldwv f => Sys2Proof.Machine.execLdwv f s
  | .stpv f => Sys2Proof.Machine.execStpv f s
  | .stwv f => Sys2Proof.Machine.execStwv f s
  | .ldps f => Sys2Proof.Machine.execLdps f s
  | .ldwg f => Sys2Proof.Machine.execLdwg f s
  | .stwx f => Sys2Proof.Machine.execStwx f s
  | .slotWrite core id => Sys2Proof.Machine.execSlotWrite core id s
  | .storePerformed core id => Sys2Proof.Machine.execStorePerformed core id s
  | .vaultTouch core id => Sys2Proof.Machine.execVaultTouch core id s
  | .regionFill core strand region block => Sys2Proof.Machine.execRegionFill core strand region block s
  | .fadd t f => Sys2Proof.Machine.execFadd t f s
  | .fsub t f => Sys2Proof.Machine.execFsub t f s
  | .fmul t f => Sys2Proof.Machine.execFmul t f s
  | .ffma t f => Sys2Proof.Machine.execFfma t f s
  | .ffms t f => Sys2Proof.Machine.execFfms t f s
  | .fnma t f => Sys2Proof.Machine.execFnma t f s
  | .fmin t f => Sys2Proof.Machine.execFmin t f s
  | .fmax t f => Sys2Proof.Machine.execFmax t f s
  | .fabs t f => Sys2Proof.Machine.execFabs t f s
  | .fneg t f => Sys2Proof.Machine.execFneg t f s
  | .fdiv t f => Sys2Proof.Machine.execFdiv t f s
  | .fsqrt t f => Sys2Proof.Machine.execFsqrt t f s
  | .frcp t f => Sys2Proof.Machine.execFrcp t f s
  | .frsq t f => Sys2Proof.Machine.execFrsq t f s
  | .fexp2 t f => Sys2Proof.Machine.execFexp2 t f s
  | .flog2 t f => Sys2Proof.Machine.execFlog2 t f s
  | .fcmp t f => Sys2Proof.Machine.execFcmp t f s
  | .fclass t f => Sys2Proof.Machine.execFclass t f s
  | .iadd t f => Sys2Proof.Machine.execIadd t f s
  | .isub t f => Sys2Proof.Machine.execIsub t f s
  | .imul t f => Sys2Proof.Machine.execImul t f s
  | .imulh t f => Sys2Proof.Machine.execImulh t f s
  | .imad t f => Sys2Proof.Machine.execImad t f s
  | .iand t f => Sys2Proof.Machine.execIand t f s
  | .ior t f => Sys2Proof.Machine.execIor t f s
  | .ixor t f => Sys2Proof.Machine.execIxor t f s
  | .ishl t f => Sys2Proof.Machine.execIshl t f s
  | .ishr t f => Sys2Proof.Machine.execIshr t f s
  | .isar t f => Sys2Proof.Machine.execIsar t f s
  | .imin t f => Sys2Proof.Machine.execImin t f s
  | .imax t f => Sys2Proof.Machine.execImax t f s
  | .icmp t f => Sys2Proof.Machine.execIcmp t f s
  | .cvt f => Sys2Proof.Machine.execCvt f s
  | .cvtn f => Sys2Proof.Machine.execCvtn f s
  | .pack f => Sys2Proof.Machine.execPack f s
  | .unpack f => Sys2Proof.Machine.execUnpack f s
  | .vsel f => Sys2Proof.Machine.execVsel f s
  | .vbcast f => Sys2Proof.Machine.execVbcast f s
  | .vperm f => Sys2Proof.Machine.execVperm f s
  | .vshuf f => Sys2Proof.Machine.execVshuf f s
  | .vrot f => Sys2Proof.Machine.execVrot f s
  | .vext f => Sys2Proof.Machine.execVext f s
  | .vins f => Sys2Proof.Machine.execVins f s
  | .vrsum f => Sys2Proof.Machine.execVrsum f s
  | .vrmax f => Sys2Proof.Machine.execVrmax f s
  | .vrmin f => Sys2Proof.Machine.execVrmin f s
  | .vscan f => Sys2Proof.Machine.execVscan f s
  | .mand f => Sys2Proof.Machine.execMand f s
  | .mor f => Sys2Proof.Machine.execMor f s
  | .mnot f => Sys2Proof.Machine.execMnot f s
  | .mpopc f => Sys2Proof.Machine.execMpopc f s
  | .mma u t f => Sys2Proof.Machine.execMma u t f s
  | .mmaz u t f => Sys2Proof.Machine.execMmaz u t f s
  | .mzero u f => Sys2Proof.Machine.execMzero u f s
  | .mdrain u f => Sys2Proof.Machine.execMdrain u f s
  | .maccl u f => Sys2Proof.Machine.execMaccl u f s
  | .maccs u f => Sys2Proof.Machine.execMaccs u f s
  | .mfmt u f => Sys2Proof.Machine.execMfmt u f s
  | .tileWrite core id residueBad => Sys2Proof.Machine.execTileWrite core id residueBad s
  | .macclComplete core id => Sys2Proof.Machine.execMacclComplete core id s
  | .copy f => Sys2Proof.Machine.execCopy f s
  | .copyf f => Sys2Proof.Machine.execCopyf f s
  | .cpq f => Sys2Proof.Machine.execCpq f s
  | .scata f => Sys2Proof.Machine.execScata f s
  | .skupd f => Sys2Proof.Machine.execSkupd f s
  | .skqry f => Sys2Proof.Machine.execSkqry f s
  | .skadd f => Sys2Proof.Machine.execSkadd f s
  | .skscale f => Sys2Proof.Machine.execSkscale f s
  | .skclr f => Sys2Proof.Machine.execSkclr f s
  | .pump f => Sys2Proof.Machine.execPump f s
  | .psplit f => Sys2Proof.Machine.execPsplit f s
  | .mapr f => Sys2Proof.Machine.execMapr f s
  | .mapreq f => Sys2Proof.Machine.execMapreq f s
  | .kjoin f => Sys2Proof.Machine.execKjoin f s
  | .mldr f => Sys2Proof.Machine.execMldr f s
  | .coll f => Sys2Proof.Machine.execColl f s
  | .engineStart op => Sys2Proof.Machine.execEngineStart op s
  | .copyChunk op => Sys2Proof.Machine.execCopyChunk op s
  | .cpqUnit op => Sys2Proof.Machine.execCpqUnit op s
  | .scataUpdate op => Sys2Proof.Machine.execScataUpdate op s
  | .sketchUpdate op => Sys2Proof.Machine.execSketchUpdate op s
  | .engineComplete op => Sys2Proof.Machine.execEngineComplete op s
  | .engineFail op t => Sys2Proof.Machine.execEngineFail op t s
  | .regionWriteBack core strand region => Sys2Proof.Machine.execRegionWriteBack core strand region s
  | .psplitCommit op => Sys2Proof.Machine.execPsplitCommit op s
  | .stcfg f => Sys2Proof.Machine.execStcfg f s
  | .strun f => Sys2Proof.Machine.execStrun f s
  | .ststop f => Sys2Proof.Machine.execStstop f s
  | .stitchLoadEnd core => Sys2Proof.Machine.execStitchLoadEnd core s
  | .rowCycle core => Sys2Proof.Machine.execRowCycle core s
  | .qdesc f => Sys2Proof.Machine.execQdesc f s
  | .qgraft f => Sys2Proof.Machine.execQgraft f s
  | .qgraftDone core strand => Sys2Proof.Machine.execQgraftDone core strand s
  | .qungraft f => Sys2Proof.Machine.execQungraft f s
  | .qungraftDone core strand => Sys2Proof.Machine.execQungraftDone core strand s
  | .fdset f => Sys2Proof.Machine.execFdset f s
  | .tspawn f => Sys2Proof.Machine.execTspawn f s
  | .tspawnEntry core strand => Sys2Proof.Machine.execTspawnEntry core strand s
  | .tfork f => Sys2Proof.Machine.execTfork f s
  | .tforkStep core strand => Sys2Proof.Machine.execTforkStep core strand s
  | .tcancel f => Sys2Proof.Machine.execTcancel f s
  | .bindOffStop walk => Sys2Proof.Machine.execBindOffStop walk s
  | .bindOffWalk walk => Sys2Proof.Machine.execBindOffWalk walk s
  | .tprio f => Sys2Proof.Machine.execTprio f s
  | .agset f => Sys2Proof.Machine.execAgset f s
  | .agsetDone core strand => Sys2Proof.Machine.execAgsetDone core strand s
  | .traceOn f => Sys2Proof.Machine.execTraceOn f s
  | .traceOff f => Sys2Proof.Machine.execTraceOff f s
  | .traceMark f => Sys2Proof.Machine.execTraceMark f s
  | .traceArm f => Sys2Proof.Machine.execTraceArm f s
  | .graftArrival core id => Sys2Proof.Machine.execGraftArrival core id s
  | .graftCreditReturn core id => Sys2Proof.Machine.execGraftCreditReturn core id s
  | .programStart pump => Sys2Proof.Machine.execProgramStart pump s
  | .act pump w => Sys2Proof.Machine.execAct pump w s
  | .rd pump w => Sys2Proof.Machine.execRd pump w s
  | .wr pump w => Sys2Proof.Machine.execWr pump w s
  | .pre pump w => Sys2Proof.Machine.execPre pump w s
  | .prea pump w => Sys2Proof.Machine.execPrea pump w s
  | .refab pump w => Sys2Proof.Machine.execRefab pump w s
  | .refpb pump w => Sys2Proof.Machine.execRefpb pump w s
  | .slots pump w => Sys2Proof.Machine.execSlots pump w s
  | .ksig pump w => Sys2Proof.Machine.execKsig pump w s
  | .pend pump w => Sys2Proof.Machine.execPend pump w s
  | .rdDataDelivery pump id => Sys2Proof.Machine.execRdDataDelivery pump id s
  | .wrPerformed pump id => Sys2Proof.Machine.execWrPerformed pump id s
  | .refreshTimer pump => Sys2Proof.Machine.execRefreshTimer pump s
  | .owedRefresh pump => Sys2Proof.Machine.execOwedRefresh pump s
  | .dynamicTraffic pump => Sys2Proof.Machine.execDynamicTraffic pump s
  | .patrolScrub store key found => Sys2Proof.Machine.execPatrolScrub store key found s
  | .dispatcherSelection => Sys2Proof.Machine.execDispatcherSelection s
  | .taskBecomesBlocking fn task => Sys2Proof.Machine.execTaskBecomesBlocking fn task s
  | .contextSave fn task => Sys2Proof.Machine.execContextSave fn task s
  | .strandEnd core strand => Sys2Proof.Machine.execStrandEnd core strand s
  | .taskComplete fn task => Sys2Proof.Machine.execTaskComplete fn task s
  | .trigger fn task => Sys2Proof.Machine.execTrigger fn task s
  | .taskReady fn task => Sys2Proof.Machine.execTaskReady fn task s
  | .phaseComplete fn task => Sys2Proof.Machine.execPhaseComplete fn task s
  | .epochSweep die => Sys2Proof.Machine.execEpochSweep die s
  | .idle port fl => Sys2Proof.Machine.execIdle port fl s
  | .readRequest port fl => Sys2Proof.Machine.execReadRequest port fl s
  | .readData port fl => Sys2Proof.Machine.execReadData port fl s
  | .writeData port fl => Sys2Proof.Machine.execWriteData port fl s
  | .writeAcknowledgement port fl => Sys2Proof.Machine.execWriteAcknowledgement port fl s
  | .ringChunk port fl => Sys2Proof.Machine.execRingChunk port fl s
  | .mldrRequest port fl => Sys2Proof.Machine.execMldrRequest port fl s
  | .mldrData port fl => Sys2Proof.Machine.execMldrData port fl s
  | .collectiveControl port fl => Sys2Proof.Machine.execCollectiveControl port fl s
  | .keyControl port fl => Sys2Proof.Machine.execKeyControl port fl s
  | .nak port seq => Sys2Proof.Machine.execNak port seq s
  | .portRetrain port => Sys2Proof.Machine.execPortRetrain port s
  | .portTrained port => Sys2Proof.Machine.execPortTrained port s
  | .sealCountExhausted port => Sys2Proof.Machine.execSealCountExhausted port s
  | .mldrMemberTimeout op member => Sys2Proof.Machine.execMldrMemberTimeout op member s
  | .collectiveTimeout op lrank => Sys2Proof.Machine.execCollectiveTimeout op lrank s
  | .switchOnBlockedBundle core => Sys2Proof.Machine.execSwitchOnBlockedBundle core s
  | .readHoldRelease core id => Sys2Proof.Machine.execReadHoldRelease core id s
  | .readFlagClear core id => Sys2Proof.Machine.execReadFlagClear core id s
  | .flitDiscarded port fl => Sys2Proof.Machine.execFlitDiscarded port fl s
  | .taskPortWrite fn port size aligned rec => Sys2Proof.Machine.execTaskPortWrite fn port size aligned rec s
  | .apertureRead fn off len => Sys2Proof.Machine.execApertureRead fn off len s
  | .apertureWrite fn off data => Sys2Proof.Machine.execApertureWrite fn off data s
  | .tlbinv fn => Sys2Proof.Machine.execTlbinv fn s
  | .tlbinvComplete fn => Sys2Proof.Machine.execTlbinvComplete fn s
  | .resq fn => Sys2Proof.Machine.execResq fn s
  | .ekcmdInstall fn peer => Sys2Proof.Machine.execEkcmdInstall fn peer s
  | .ekcmdRemove fn peer => Sys2Proof.Machine.execEkcmdRemove fn peer s
  | .ekcmdEffect fn => Sys2Proof.Machine.execEkcmdEffect fn s
  | .ldcmdLoad fn => Sys2Proof.Machine.execLdcmdLoad fn s
  | .loadEnd fn => Sys2Proof.Machine.execLoadEnd fn s
  | .ldcmdUnload fn => Sys2Proof.Machine.execLdcmdUnload fn s
  | .unloadComplete index => Sys2Proof.Machine.execUnloadComplete index s
  | .trcctlUnfreeze fn => Sys2Proof.Machine.execTrcctlUnfreeze fn s
  | .trcctlOwnerWrite core owner => Sys2Proof.Machine.execTrcctlOwnerWrite core owner s
  | .hctlInstall port epoch => Sys2Proof.Machine.execHctlInstall port epoch s
  | .pctlEpochWrite port epoch => Sys2Proof.Machine.execPctlEpochWrite port epoch s
  | .domtabWrite index v => Sys2Proof.Machine.execDomtabWrite index v s
  | .registerWrite w off v => Sys2Proof.Machine.execRegisterWrite w off v s
  | .priResponse fn page code => Sys2Proof.Machine.execPriResponse fn page code s
  | .priTimeout fn page => Sys2Proof.Machine.execPriTimeout fn page s
  | .atsCompletion fn page ans => Sys2Proof.Machine.execAtsCompletion fn page ans s
  | .atsInvalidation fn page => Sys2Proof.Machine.execAtsInvalidation fn page s
  | .hostReadCompletion fn addr ok poisoned data => Sys2Proof.Machine.execHostReadCompletion fn addr ok poisoned data s
  | .hostReadTimeout fn addr => Sys2Proof.Machine.execHostReadTimeout fn addr s
  | .functionLevelReset vf => Sys2Proof.Machine.execFunctionLevelReset vf s
  | .moduleReset imageVerifies => Sys2Proof.Machine.execModuleReset imageVerifies s
  | .dieEntersService die => Sys2Proof.Machine.execDieEntersService die s
  | .matrixSelfTestEnd die pass => Sys2Proof.Machine.execMatrixSelfTestEnd die pass s
  | .clockChange core mhz => Sys2Proof.Machine.execClockChange core mhz s
  | .rcvctlGo => Sys2Proof.Machine.execRcvctlGo s
  | .recoveryUpdateEnd r => Sys2Proof.Machine.execRecoveryUpdateEnd r s
  | .wellheadWatchdog => Sys2Proof.Machine.execWellheadWatchdog s
  | .textPageRepair die page => Sys2Proof.Machine.execTextPageRepair die page s
  | .priReset fn => Sys2Proof.Machine.execPriReset fn s
  | .atsOrBusMasterEnable fn ats bme => Sys2Proof.Machine.execAtsOrBusMasterEnable fn ats bme s

end Sys2Proof.Machine
end

