-- ==== Sys2Proof/Machine/Run.lean ====
section
/-! DEFINITION. How rows follow one another: a core cycle (R20, R21, R26, R32, R365), a CK cycle of the pumps (R208), a turn of the agenda
(log entry 1). -/

namespace Sys2Proof.Machine

/-- Go on from a next state. -/
def andThen (o : Host.Outcome State Fault Refusal) (f : State → Host.Outcome State Fault Refusal) :
    Host.Outcome State Fault Refusal :=
  match o with
  | .next s => f s
  | .fault e => .fault e
  | .refused r => .refused r

/-- Run rows one after another. -/
def execAll : List Instr → State → Host.Outcome State Fault Refusal
  | [], s => .next s
  | i :: is, s => andThen (exec i s) (execAll is)

/-- Everything due on a core in this cycle, at its start or at its end, in order; what becomes due meanwhile is met too. -/
def runDue (c : Nat) (late : Bool) : Nat → State → Host.Outcome State Fault Refusal
  | 0, s => .next s
  | n + 1, s =>
    match s.takeDueItem c late with
    | none => .next s
    | some (i, s1) => andThen (exec i s1) (runDue c late n)

/-- The rows a list of strands meets, each asked in the state the earlier ones left. -/
def eachStrand (f : Nat → State → Host.Outcome State Fault Refusal) : List Nat → State → Host.Outcome State Fault Refusal
  | [], s => .next s
  | k :: ks, s => andThen (f k s) (eachStrand f ks)

/-- A strand's next bundle is evaluated (R20, R32): a counting hold counts, a shape fetch begins, WLIMIT may run out. -/
def evaluate (c k : Nat) (s : State) : Host.Outcome State Fault Refusal :=
  match s.countBlock c k with
  | (s1, true) => exec (.waitLimitExpiry c k) s1
  | (s1, false) => .next s1

/-- The bundle of the strand that issues (R26, R27): the one instruction it holds, or its syllables in slot order. -/
def issueBundle (c k : Nat) (s : State) : Host.Outcome State Fault Refusal :=
  match s.nextBundle c k with
  | .error t => exec (.takeTrap c k t) s
  | .ok (ws, b) =>
    let s1 := s.withWords c k ws
    match b.single with
    | some i => exec i s1
    | none =>
      match s1.admission c k b with
      | .fault t => exec (.takeTrap c k t) s1
      | .held _ => .next s1
      | .ok =>
        let us := Bundle.uses b
        andThen (execAll (us.map Use.i) ((s1.begin c k us).modBundle (fun x => { x with admitted := true })))
          (fun s2 =>
            let s3 := (s2.modBundle (fun x => { x with admitted := false })).retireBundle c k us
            .next (if b.yield then s3.modIssue c (fun x => { x with handOver := true }) else s3))

/-- After the bundle: the run limit counts it (R21). -/
def issueCount (c : Nat) (s : State) : Host.Outcome State Fault Refusal :=
  if s.bundle.issued then
    let s1 := s.modIssue c (fun x => { x with runs := x.runs + 1 })
    if Nat.ble 256 (s1.core c).issue.runs then exec (.runLimit c) s1 else .next s1
  else .next s

/-- The issue unit's case of R21. -/
def issueUnit (c : Nat) (s : State) : Host.Outcome State Fault Refusal :=
  match s.issueCase c with
  | .issue k s1 => andThen (issueBundle c k s1) (issueCount c)
  | .switch s1 => exec (.switchOnBlockedBundle c) s1
  | .idle s1 => .next s1

/-- The end of a strand's issue cycle: its wait, its BUDGET (`kern`: a kernel loop at the start of the cycle), and its bundle
boundary (R107, R261, R349). -/
def waitEnd (c k : Nat) (s : State) : Host.Outcome State Fault Refusal :=
  match s.waitCase c k with
  | (s1, true) => exec (.waitExpiry c k) s1
  | (s1, false) => .next s1

def budgetEnd (c : Nat) (kern : List Nat) (k : Nat) (s : State) : Host.Outcome State Fault Refusal :=
  match s.budgetCase c k (kern.contains k) with
  | (s1, true) => exec (.budgetFault c k) s1
  | (s1, false) => .next s1

/-- The post-issue trap of the bundle just issued; the others become due (R365). -/
def postEnd (c k : Nat) (s : State) : Host.Outcome State Fault Refusal :=
  match s.takePost c k with
  | some (t, s1) => exec (.takeTrap c k t) s1
  | none => .next s

def dueEnd (c k : Nat) : Nat → State → Host.Outcome State Fault Refusal
  | 0, s => .next s
  | n + 1, s =>
    if (s.strand c k).atBoundary && (s.strand c k).takeable.isSome then
      andThen (exec (.deferredFaultTaken c k) s) (dueEnd c k n)
    else .next s

/-- A strand that is leaving and has quiesced writes its regions back (R274). -/
def writeBackEnd (c k : Nat) (s : State) : Host.Outcome State Fault Refusal :=
  if (s.strand c k).leaving && s.quiesced c k then
    match (s.strand c k).dirtyRegion with
    | some r => exec (.regionWriteBack c k r) s
    | none => .next s
  else .next s

def lifeEnd (c k : Nat) (s : State) : Host.Outcome State Fault Refusal :=
  andThen (writeBackEnd c k s) (fun s1 =>
    if (s1.strand c k).flow.life == .ending && (s1.strand c k).atBoundary then exec (.strandEnd c k) s1 else .next (s1.tryHold c k))

def boundary (c : Nat) (kern : List Nat) (k : Nat) (s : State) : Host.Outcome State Fault Refusal :=
  if !(s.strand c k).live then .next s
  else
    andThen (waitEnd c k s) (fun s1 => andThen (budgetEnd c kern k s1) (fun s2 => andThen (postEnd c k s2) (fun s3 =>
      andThen (dueEnd c k (s3.strand c k).flow.due.length s3) (lifeEnd c k))))

/-- One core cycle. -/
def coreCycle (c : Nat) (s : State) : Host.Outcome State Fault Refusal :=
  let kern := (upto 4).filter (fun k => (s.strand c k).live && (s.strand c k).kernel)
  andThen (runDue c false dueFuel (s.modBundle (fun _ => { core := c }))) (fun s1 =>
  andThen (eachStrand (evaluate c) (upto 4) s1) (fun s2 =>
  andThen (issueUnit c s2) (fun s3 =>
  andThen (runDue c true dueFuel s3) (fun s4 =>
  andThen (eachStrand (boundary c kern) (upto 4) s4) (fun s5 => .next (s5.endCycle c))))))

/-- What a pump does in a CK cycle, one row after another. -/
def runPump (pump : Nat) : Nat → State → Host.Outcome State Fault Refusal
  | 0, s => .next s
  | n + 1, s =>
    match s.pumpRow pump with
    | none => .next s
    | some i => andThen (exec i s) (runPump pump n)

/-- One CK cycle of the 96 pumps (R208). -/
def ckCycle : List Nat → State → Host.Outcome State Fault Refusal
  | [], s => .next s
  | p :: ps, s => andThen (runPump p dueFuel s) (ckCycle ps)

/-- The rows that nothing inside a core or a pump brings: what other agents do, and what an elapsed time ends (log entry 1). -/
def external : Instr → Bool
  | .kill _ _ _ | .regionFill _ _ _ _ | .patrolScrub _ _ _
  | .dispatcherSelection | .taskBecomesBlocking _ _ | .contextSave _ _ | .taskComplete _ _ | .trigger _ _ | .taskReady _ _
  | .phaseComplete _ _ | .epochSweep _
  | .idle _ _ | .readRequest _ _ | .readData _ _ | .writeData _ _ | .writeAcknowledgement _ _ | .ringChunk _ _ | .mldrRequest _ _
  | .mldrData _ _ | .collectiveControl _ _ | .keyControl _ _ | .nak _ _ | .portRetrain _ | .portTrained _ | .sealCountExhausted _
  | .mldrMemberTimeout _ _ | .collectiveTimeout _ _ | .flitDiscarded _ _
  | .taskPortWrite _ _ _ _ _ | .apertureRead _ _ _ | .apertureWrite _ _ _ | .tlbinv _ | .tlbinvComplete _ | .resq _
  | .ekcmdInstall _ _ | .ekcmdRemove _ _ | .ekcmdEffect _ | .ldcmdLoad _ | .loadEnd _ | .ldcmdUnload _ | .unloadComplete _
  | .trcctlUnfreeze _ | .trcctlOwnerWrite _ _ | .hctlInstall _ _ | .pctlEpochWrite _ _ | .domtabWrite _ _ | .registerWrite _ _ _
  | .priResponse _ _ _ | .priTimeout _ _ | .atsCompletion _ _ _ | .atsInvalidation _ _ | .hostReadCompletion _ _ _ _ _
  | .hostReadTimeout _ _ | .functionLevelReset _ | .moduleReset _ | .dieEntersService _ | .matrixSelfTestEnd _ _ | .clockChange _ _
  | .rcvctlGo | .recoveryUpdateEnd _ | .wellheadWatchdog | .textPageRepair _ _ | .priReset _ | .atsOrBusMasterEnable _ _ _ => true
  | _ => false

/-- In each CK cycle the channels serve the requests that wait for them (R221), and what waited for a host page or a channel is tried
again, each kind in its order (R272, R317): the dispatcher's jobs, the posted writes of each function, the requests of other modules. -/
def State.retryWaits (s : State) : State :=
  (s.host.fns.foldl (fun (s1 : State) (x : Nat × FnHost) =>
    if (s1.fnHost x.1).posted.isEmpty then s1 else s1.doPosteds x.1 (s1.fnHost x.1).posted) (s.doJobs s.disp.jobs)).serveInq

/-- One turn of the agenda; a row that is not external is passed over. -/
def takeTurn (t : Turn) (s : State) : Host.Outcome State Fault Refusal :=
  match t with
  | .core c => if Nat.blt c 256 then coreCycle c s else .fault .noSuchCore
  | .ck => ckCycle (upto 96) s.nextCk.serveCalls.retryWaits
  | .elapse n => .next (s.modEnv (fun e => { e with ns := e.ns + n }))
  | .row i => if external i then exec i s else .next s
  | .hostRead w off => .next (s.readRegister w off)
  | .upset u => .next (s.upset u)

end Sys2Proof.Machine
end

