-- ==== Sys2Proof/Machine/Step.lean ====
section
/-! DEFINITION. One step: the head of the agenda, or with nothing listed the next core cycle of the selected core (log entry 1). -/

namespace Sys2Proof.Machine

/-- One step. -/
def step (s : State) : Host.Outcome State Fault Refusal :=
  match s.env.agenda with
  | [] => takeTurn (.core s.env.sel) s
  | t :: ts => takeTurn t (s.modEnv (fun e => { e with agenda := ts }))

/-- The code-table entry, and the object in it, that withFetchWord places: one bundle, in the first text page of die 0. -/
def fetchCode : Code := { fn := 0, gen := 0, st := .loaded, nb := 1, entries := [], textva := 0, pages := [(0, [0])] }

/-- s with an instruction stored where step fetches its next one: strand 0 of core 0 is live at bundle 0 of a loaded object, and
nothing is listed before its core's next cycle (log entry 2). -/
def State.withFetchWord (s : State) (nbits w : Nat) : State :=
  let s1 := { s with codes := Table.set s.codes 1 fetchCode }
  let s2 := s1.putBytes (keyW 0 (textPageW 0)) (bytesLE 64 (w % 2 ^ nbits))
  let s3 := s2.modStrand 0 0 (fun t =>
    { t with ctx := { t.ctx with pc := 0, seq := none }, place := { t.place with code := 1 },
             flow := { t.flow with life := .running, wait := .none, xwait := none, post := [], due := [] } })
  let s4 := s3.modIssue 0 (fun x => { x with cur := 0, handOver := false })
  s4.modEnv (fun e => { e with agenda := [], sel := 0 })

end Sys2Proof.Machine
end

