-- ==== Sys2Proof/Machine/SpcRun.lean ====
section
/-! DEFINITION. A portable program on a strand of the module (R292, R293): its extension instructions perform their native operations with
the strand's own knots, tiles, result queues and fd registers, its traps are taken by the strand, and results reach x and v registers. -/

namespace Sys2Proof.Machine

/-- What the translator allots to an entry for its extension instructions (R293): the scalar queue and the vector queue of their results, the
vector queue with its P base in which the A run of an MMA stands, and the fd register of a narrow run. -/
structure SpcAllot where
  qx : Nat
  qv : Nat
  qa : Nat
  pa : Nat
  fd : Nat
deriving DecidableEq, Repr

/-- A portable program: its registers, and where the results still to come go, in the order of issue. -/
structure SpcRun where
  t   : SpcState := {}
  due : List SpcDst := []
deriving DecidableEq, Repr

/-- What an instruction of a portable program comes to: the program goes on; it waits; the strand has taken or is to take a trap; or R290 to
R293 say nothing of what happens. -/
inductive SpcEnd
  | next (r : SpcRun) (s : State)
  | wait (s : State)
  | trapped (s : State)
  | stop
deriving DecidableEq, Repr

/-- The bundle words that hold A in words 12 and 13 and B in words 14 and 15. -/
def spcPool (a b : Nat) : List Word :=
  List.replicate 12 0 ++ [a, a / 2 ^ 32, b, b / 2 ^ 32].map (BitVec.ofNat 32)

/-- A 64-bit literal from a word of the pool. -/
def poolSrc (w : BitVec 5) : Src := { qsel := 30, off := w, pop := 1 }

/-- The fields of the syllable that performs a native operation (R292, R294): A and B from the pool, the run of an MMA from its queue, mod and
srcC from `swmod`, the result to its queue. -/
def SpcAllot.fields (al : SpcAllot) (sh : Shape) (dst : SpcDst) (swmod : Dword) : Fields :=
  let src := fun (u : SrcUse) (w : BitVec 5) =>
    match u with
    | .none => Src.unused
    | .run => { qsel := BitVec.ofNat 5 al.qa, off := 0, pop := 0 }
    | _ => poolSrc w
  { extFields swmod with
    dst := match dst with | .none => 31 | .x _ => BitVec.ofNat 5 al.qx | .v _ => BitVec.ofNat 5 al.qv
    a := src sh.a 12
    b := src sh.b 14 }

/-- The tag of the slots of an A run (R147, R292): v registers carry none. -/
def SpcAllot.runTag (al : SpcAllot) (i : Instr) : Nat :=
  match i with
  | .mma _ f _ | .mmaz _ f _ => (mfTag? f).getD (0x10 + al.fd)
  | _ => 0

/-- An A run stands in its queue. -/
def State.putRun (s : State) (c k : Nat) (al : SpcAllot) (tag : Nat) (vs : List Nat) : State :=
  ((upto vs.length).zip vs).foldl (fun (x : State) p => x.fillSlot c k al.qa p.1 tag (BitVec.ofNat 2048 p.2))
    (s.setQueue c k al.qa { en := true, wide := true, logcap := 3, base := al.pa, tail := vs.length })

/-- An instruction alone in a bundle whose pool holds A and B. -/
def State.runAlone (s : State) (c k a b : Nat) (i : Instr) : Host.Outcome State Fault Refusal :=
  exec i ((s.withWords c k (spcPool a b)).modBundle (fun x => { x with admitted := false, issued := false, held := false }))

/-- What became of a bundle: it issued, it is held, or it faulted in place. -/
def SpcRun.after (r : SpcRun) (o : Host.Outcome State Fault Refusal) : SpcEnd :=
  match o with
  | .next s => if s.bundle.issued then .next r s else if s.bundle.held then .wait s else .trapped s
  | _ => .stop

/-- A native operation performed for an extension instruction (R292). -/
def SpcRun.native (al : SpcAllot) (c k : Nat) (sl : Slot) (op : Nat) (a : List Nat) (b : Dword) (dst : SpcDst) (r : SpcRun) (s : State) :
    SpcEnd :=
  match (nativeOf sl op).bind shape with
  | none => .stop
  | some sh =>
    match sylOf sl op (al.fields sh dst r.t.swmod) with
    | none => .stop
    | some i =>
      SpcRun.after { r with due := if dst == .none then r.due else r.due ++ [dst] }
        ((if sh.a == .run then s.putRun c k al (al.runTag i) a else s).runAlone c k (a.getD 0 0) b.toNat i)

/-- A trap of the program taken by its strand (R290): ECALL and EBREAK as software traps with codes 0 and 1. -/
def State.spcTrap (s : State) (c k cause code : Nat) : SpcEnd :=
  if cause == 0x01 then
    match s.runAlone c k 0 0 (.trap { dst := 31, a := Src.unused, b := Src.unused, c := Src.unused, mod := BitVec.ofNat 10 code }) with
    | .next s1 => .trapped s1
    | _ => .stop
  else .trapped (s.faultInPlace c k (s.inPlace c k cause (s.strand c k).ctx.pc 0))

/-- The head of a result queue to a v register (R292); not allotted, empty and absent are as for any use of it (R144, R146, R26). -/
def SpcRun.popQueue (c k mq rd : Nat) (r : SpcRun) (s : State) : SpcEnd :=
  if !bit (s.strand c k).place.mallot (32 + mq) then s.spcTrap c k 0x1A 0
  else if ((s.core c).win k (16 + mq)).occ == 0 then s.spcTrap c k 0x08 0
  else if ((s.core c).absent k (16 + mq) 0 1 false).isSome then .wait s
  else .next { r with t := r.t.setV rd (s.readAt c k (16 + mq) 0).val } (s.pop c k (16 + mq) 1)

/-- Whether an instruction waits for results still to come: an extension instruction for those of the registers it names, any other for all. -/
def SpcRun.waitsFor (r : SpcRun) (i : Spc) : Bool :=
  match i with
  | .ext _ rd rs1 rs2 => r.due.any (fun d => match d with | .x n => n == rd || n == rs1 || n == rs2 | .v n => n == rd || Nat.ble rs1 n | .none => false)
  | _ => !r.due.isEmpty

/-- One instruction of a portable program on its strand; `swkst` reads KSTAT (R290). -/
def SpcRun.exec (al : SpcAllot) (c k : Nat) (i : Spc) (r : SpcRun) (s : State) : SpcEnd :=
  if r.waitsFor i then .wait s
  else match spcExec i { r.t with swkst := dw (s.strand c k).kstat } with
    | .next t => .next { r with t := t } s
    | .trap cause code => s.spcTrap c k cause code
    | .native sl op a b dst t => SpcRun.native al c k sl op a b dst { r with t := t } s
    | .kwait knot limit t =>
      SpcRun.after { r with t := t } (s.runAlone c k limit.toNat 0
        (.kwait { dst := 31, a := poolSrc 12, b := Src.unused, c := Src.unused, mod := BitVec.ofNat 10 knot }))
    | .pop mq rd t => SpcRun.popQueue c k mq rd { r with t := t } s
    | .open_ => .stop

/-- The oldest result still to come, once it is present, reaches its register (R292). -/
def SpcRun.take (al : SpcAllot) (c k : Nat) (r : SpcRun) (s : State) : SpcRun × State :=
  match r.due with
  | [] => (r, s)
  | d :: ds =>
    let q := match d with | .v _ => al.qv | _ => al.qx
    if ((s.core c).absent k q 0 1 false).isSome then (r, s)
    else
      let v := (s.readAt c k q 0).val
      ({ t := match d with | .x rd => r.t.setX rd (dw v) | .v rd => r.t.setV rd v | .none => r.t, due := ds }, s.pop c k q 1)

end Sys2Proof.Machine
end

