-- ==== Sys2Proof/Safety.lean ====
section
/-! DEFINITION. What the statements of this model call safe: memory in its canonical form, a step that does not stop, and a translation of
portable code that keeps what R293 asks of it. -/

namespace Sys2Proof.Machine

/-- The memory is in its canonical form (log entry 5). -/
def State.memOk (s : State) : Prop := Memory.wf s.mem = true

/-- A step answers a next state. -/
def State.goesOn (s : State) : Prop := ∃ t, step s = Host.Outcome.next t

/-- A state is reached from another in some number of steps. -/
inductive Steps : State → State → Prop
  | refl (s : State) : Steps s s
  | step {s t u : State} : step s = Host.Outcome.next t → Steps t u → Steps s u

/-- A portable program sees the memory of its strand: where a VA can be read, the byte there. -/
def SpcRun.sees (r : SpcRun) (c k : Nat) (s : State) : Prop :=
  ∀ va key s1, s.reach (dieOf c) (s.strand c k).place.fn va .read = (.ok key, s1) → s.byte key = Memory.read r.t.mem va

/-- A strand runs the text that a portable object was translated to (R293). -/
def State.runsText (s : State) (c k : Nat) (o : Xqo) (bs : List Byte) (slots : Table (List Byte)) : Prop :=
  ∃ x img, accepted slots o bs = .ok img ∧ Table.get? s.codes (s.strand c k).place.code = some x ∧ x.entries = img.entries ∧
    ∀ pc, pc < x.nb → Memory.readNat s.mem (keyW (dieOf c) (x.textW (dieOf c) pc)) 64 = ofBytes ((img.text.drop (64 * pc)).take 64)

/-- What R293 and R294 ask of the translation of an object (log entry 10; no definition of this model assumes it): some relation of the
portable program to the strand that runs the text holds at each entry, keeps their memories together, and is kept by every instruction of
the program, whose effect the module reaches in some number of steps. -/
def Translates (o : Xqo) (bs : List Byte) (slots : Table (List Byte)) : Prop :=
  ∃ (al : SpcAllot) (rel : Nat → Nat → SpcRun → State → Prop),
    (∀ c k r s, rel c k r s → r.sees c k s ∧ s.runsText c k o bs slots) ∧
    (∀ (c k : Nat) (s : State) (j e n : Nat), s.runsText c k o bs slots → o.entries[j]? = some e → (s.strand c k).ctx.pc = n % 2 ^ 20 →
      (∀ x : Code, Table.get? s.codes (s.strand c k).place.code = some x → x.entries[j]? = some n) →
      ∃ r, r.t.pc = dw (fld e 0 20) ∧ r.due = [] ∧ rel c k r s) ∧
    (∀ c k r s w i r1 s1, rel c k r s → (spcWords ((o.spc bs).length / 4) (o.spc bs))[r.t.pc.toNat / 4]? = some w → decodeSpc w = some i →
      SpcRun.exec al c k i r s = .next r1 s1 → ∃ s2, Steps s s2 ∧ rel c k r1 s2)

end Sys2Proof.Machine
end

