-- ==== Sys2Proof/Certificates/Slice0/Obligations.lean ====
section
/-! DEFINITION. The statements for the provers, in the terms of the spec's numbered rules. A statement about a syllable is made for every state
in which its bundle issues: as a part of an admitted bundle, or alone in its bundle. -/

namespace Sys2Proof.Claims
open Sys2Proof.Machine

/-! ### How a statement speaks of a syllable -/

/-- What the checks of R67 and the conditions of R26 say of the bundle that holds i alone. -/
def verdictAlone (i : Instr) (s : State) : Option Verdict :=
  match i.opcode, i.fields with
  | some (sl, op), some f => some (s.admission s.bundle.core s.bundle.strand (soloBundle i sl op f))
  | _, _ => none

/-- The syllables, in the form of R67, of the bundle that holds i alone. -/
def usesAlone (i : Instr) : List Use :=
  match i.opcode, i.fields with
  | some (sl, op), some f => Bundle.uses (soloBundle i sl op f)
  | _, _ => []

/-- i issues in s: its bundle is admitted already, or it is alone in its bundle and that bundle passes every check and is not held. -/
def Issues (i : Instr) (s : State) : Prop := s.bundle.admitted = true ∨ verdictAlone i s = some .ok

/-- The state in which the effect of i takes place: alone, after its bundle has taken its read-holds and its number (R27, R29). -/
def opened (i : Instr) (s : State) : State :=
  if s.bundle.admitted then s else s.begin s.bundle.core s.bundle.strand (usesAlone i)

/-- The state its effect u leaves: alone, after the pops and the advance of PC (R27, R95). -/
def closed (i : Instr) (s u : State) : State :=
  if s.bundle.admitted then u else u.retireBundle s.bundle.core s.bundle.strand (usesAlone i)

/-- Where i issues, exec answers a next state, and the effect of i takes the state before it to one that P relates to it. -/
def Does (i : Instr) (P : State → State → Prop) : Prop :=
  ∀ s, Issues i s → ∃ u, exec i s = .next (closed i s u) ∧ P (opened i s) u

/-- i appends one scalar slot: the tag, the 64 bits, present after `lat` cycles (R28, R51); with dst 31 nothing (R64). -/
def Appends64 (i : Instr) (f : Fields) (lat : Nat) (tag : State → Nat) (v : State → BitVec 64) : Prop :=
  Does i (fun s u => u = s.appendTo f.dst.toNat (tag s) ((v s).setWidth 2048) lat)

/-- The 64 bits of a source. -/
def A64 (f : Fields) (s : State) : BitVec 64 := BitVec.ofNat 64 (s.opd f.a).val
def B64 (f : Fields) (s : State) : BitVec 64 := BitVec.ofNat 64 (s.opd f.b).val

/-- Bits n-1:0 of a source. -/
def An (n : Nat) (f : Fields) (s : State) : BitVec n := BitVec.ofNat n (s.opd f.a).val
def Bn (n : Nat) (f : Fields) (s : State) : BitVec n := BitVec.ofNat n (s.opd f.b).val

/-- n of R90, and the tags of R89. -/
def width (w64 : Bool) : Nat := if w64 then 64 else 32
def tagS (w64 : Bool) : State → Nat := fun _ => if w64 then 4 else 3
def tagU (w64 : Bool) : State → Nat := fun _ => if w64 then 8 else 7

/-- A slot, not a literal, whose tag is RAW. -/
def isRaw (o : Opd) : Bool := !o.lit && o.tag == 0

/-- An exact result of R90 brought into n bits: sign-extended from n bits, or saturated where SAT (mod[2]) is set. -/
def narrowed (n : Nat) (f : Fields) (x : Int) : BitVec 64 :=
  if f.mod.getLsbD 2 then BitVec.ofInt 64 (max (-(2 ^ (n - 1))) (min (2 ^ (n - 1) - 1) x)) else (BitVec.ofInt n x).signExtend 64

/-- What a division does beside its result (R87, R91): the divider is taken until the result is written; a zero divisor leaves the
post-issue trap 0x09 with the opcode and dst in its auxiliary word. -/
def divided (w64 : Bool) (op : Nat) (f : Fields) (tag : State → Nat) (v : State → BitVec 64) (s u : State) : Prop :=
  let lat := if w64 then 34 else 18
  let s1 := (s.appendTo f.dst.toNat (tag s) ((v s).setWidth 2048) lat).modCore s.bundle.core (fun x =>
    { x with divFree := (s.core s.bundle.core).cyc + lat })
  u = if Bn (width w64) f s = 0 then s1.postIssue 0x09 s.me.ctx.pc (op + f.dst.toNat * 1024) else s1

/-- The tag AND, OR, XOR and ANDN append (R89). -/
def sharedOrRaw (a b : Opd) : Nat :=
  if a.lit then (if b.lit then 4 else b.tag) else if b.lit then a.tag else if a.tag = b.tag then a.tag else 0

/-- The tag of a slot moved; a literal is INT64 (R63, R89). -/
def tagOf (o : Opd) : Nat := if o.lit then 4 else o.tag

/-- The compare codes of R70 on 64-bit words. -/
def compares (cc : Cc) (a b : BitVec 64) : Bool :=
  match cc with
  | .eq => a == b | .ne => a != b
  | .lt => a.slt b | .ge => b.sle a | .ltu => a.ult b | .geu => b.ule a
  | .gt => b.slt a | .le => a.sle b | .gtu => b.ult a | .leu => a.ule b

/-- Nothing outside the core of the bundle changes: no byte of memory, no poisoned unit, no other core, no unit of the module. -/
def SameOutsideCore (s u : State) : Prop :=
  u.mem = s.mem ∧ u.poison = s.poison ∧ u.dies = s.dies ∧ u.pumps = s.pumps ∧ u.ops = s.ops ∧ u.disp = s.disp ∧
  u.codes = s.codes ∧ u.gens = s.gens ∧ u.fab = s.fab ∧ u.host = s.host ∧ u.env = s.env ∧
  ∀ c, c ≠ s.bundle.core → u.core c = s.core c

/-- A transfer-class syllable has the continuation g (R95); the strand's registers, its queues, every other strand and everything outside
the core are as before. -/
def ContinuesAt (g : Nat) (s u : State) : Prop :=
  u.bundle.target = some g ∧ u.me.ctx = s.me.ctx ∧ u.me.queues = s.me.queues ∧ SameOutsideCore s u ∧
  ∀ k, k ≠ s.bundle.strand → u.strand s.bundle.core k = s.strand s.bundle.core k

/-- The bundle index kept of a value (R96): itself below 2^30, else the pattern 2^30 - 1. -/
def keptIndex (x : Int) : Nat := if 0 ≤ x ∧ x < 2 ^ 30 then x.toNat else 2 ^ 30 - 1

/-- The fields BT, CB and KN of R88. -/
def BT (f : Fields) : Nat := f.m 8 2
def CB (f : Fields) : Nat := f.m 5 3
def KN (f : Fields) : Nat := f.m 0 4

/-- The index of the entry a LOOP pushes (R98, R100). -/
def pushAt (s : State) : Nat := match s.me.loopTop with | some t => t + 1 | none => 0

/-- LOOP with trip count n (R100): 0 transfers and pushes nothing; else the entry above the top is V = 1, K = KER, ITER = 0, REM = n and
the bundle falls through. -/
def Loops (f : Fields) (n : Nat) (s u : State) : Prop :=
  (n = 0 → ContinuesAt (s.me.bt (BT f)) s u) ∧
  (0 < n → n < 2 ^ 30 → s.me.loopTop ≠ some 3 →
    u.bundle.target = some ((s.me.ctx.pc + 3) % 2 ^ 30) ∧
    u.me.lse (pushAt s) = dw (2 ^ 63 + (if f.mod.getLsbD 2 then 2 ^ 62 else 0) + n) ∧
    (∀ j, j ≠ pushAt s → u.me.lse j = s.me.lse j) ∧ u.mem = s.mem ∧ u.me.queues = s.me.queues)

/-- The lane count l of R102. -/
def voteWidth (f : Fields) : Nat := 64 / 2 ^ f.m 3 2

/-- A vote sets its condition bit; the rest of the strand's registers, its queues and everything outside the core are as before. -/
def Votes (f : Fields) (v : State → Bool) (s u : State) : Prop :=
  u.me.ctx = s.me.ctx.setCond (CB f) (v s) ∧ u.me.queues = s.me.queues ∧ SameOutsideCore s u

/-- The strand has one field of its flow changed and nothing else of the state has. -/
def FlowOnly (g : Flow → Flow) (s u : State) : Prop := u = s.modFlow s.bundle.core s.bundle.strand g

/-- The system registers of R111 with what SRD reads of them. -/
def sregs : List (Nat × (State → Nat)) :=
  [(0x001, fun s => s.bundle.strand * 256 + s.bundle.core), (0x002, fun s => s.me.place.panel.toNat), (0x003, fun s => s.me.ctx.tl),
   (0x004, fun s => s.me.place.gen * 2 ^ 18 + s.me.place.task), (0x005, fun s => s.me.icyc), (0x006, fun s => s.me.place.mallot),
   (0x008, fun s => s.me.kstat), (0x009, fun s => s.me.ctx.cb % 256), (0x00A, fun s => s.me.phaseno % 2 ^ 32), (0x00C, fun s => s.me.nres.toNat),
   (0x00D, fun s => (s.core s.bundle.core).clk), (0x00E, fun s => s.me.place.textva), (0x010, fun s => s.me.ctx.wlimit),
   (0x011, fun s => s.me.ctx.budget),
   (0x018, fun s => s.me.bt 0), (0x019, fun s => s.me.bt 1), (0x01A, fun s => s.me.bt 2), (0x01B, fun s => s.me.bt 3),
   (0x020, fun s => (s.me.lse 0).toNat), (0x021, fun s => (s.me.lse 1).toNat), (0x022, fun s => (s.me.lse 2).toNat),
   (0x023, fun s => (s.me.lse 3).toNat),
   (0x040, fun s => (s.me.ctx.bank 1).cause.toNat), (0x041, fun s => (s.me.ctx.bank 1).ret.toNat),
   (0x042, fun s => (s.me.ctx.bank 1).addr.toNat), (0x043, fun s => (s.me.ctx.bank 1).aux.toNat),
   (0x048, fun s => (s.me.ctx.bank 2).cause.toNat), (0x049, fun s => (s.me.ctx.bank 2).ret.toNat),
   (0x04A, fun s => (s.me.ctx.bank 2).addr.toNat), (0x04B, fun s => (s.me.ctx.bank 2).aux.toNat)]

/-- The writable system registers of R111 with their writable bits: CBS, NRES (R277), WLIMIT, BT0 to BT3, LSE0 to LSE3 (R98), the banks
(R109, R342). -/
def sregMasks : List (Nat × Nat) :=
  [(0x009, 0xFF), (0x00C, 0x81FFFFFFFFFFFFFF), (0x010, 0xFFFFFFFF), (0x018, 0x3FFFFFFF), (0x019, 0x3FFFFFFF), (0x01A, 0x3FFFFFFF),
   (0x01B, 0x3FFFFFFF), (0x020, 0xCFFFFFFFFFFFFFFF), (0x021, 0xCFFFFFFFFFFFFFFF), (0x022, 0xCFFFFFFFFFFFFFFF),
   (0x023, 0xCFFFFFFFFFFFFFFF), (0x040, 0xFFF3FF), (0x041, 0xFFFFFFFF3FFFFFFF), (0x042, 0xFFFFFFFFFFFFFFFF),
   (0x043, 0xFFFFFFFFFFFFFFFF), (0x048, 0xFFF3FF), (0x049, 0xFFFFFFFF3FFFFFFF), (0x04A, 0xFFFFFFFFFFFFFFFF),
   (0x04B, 0xFFFFFFFFFFFFFFFF)]

/-! ### Loads and stores -/

/-- The core and the strand of the bundle. -/
def C (s : State) : Nat := s.bundle.core
def K (s : State) : Nat := s.bundle.strand

/-- ea of R116: A unsigned plus B signed. -/
def ea (f : Fields) (s : State) : Nat := ((A64 f s).toNat + (B64 f s).toInt).toNat

/-- TAG of R117. -/
def TAG (f : Fields) : Nat := f.m 0 6

/-- Byte j of a slot. -/
def byteOf (v : SlotBits) (j : Nat) : Byte := v.extractLsb' (8 * j) 8

/-- A byte of P as a load of the bundle reads it (R124, R273). -/
def pByte (s : State) (off : Nat) : Byte := s.loadByte (C s) (K s) s.me.flow.bno (keyP (C s) off) false

/-- An element of z bytes extended into a slot by its tag (R51); a narrow one of a strand with CONT = 0 keeps bits 3:0 (R118). -/
def extended (s : State) (tag e : Nat) : SlotBits :=
  if tSigned tag then ((BitVec.ofNat (intBits tag) e).signExtend 64).setWidth 2048
  else if tNarrow tag && s.me.laneBits tag == 4 then BitVec.ofNat 2048 (e % 16)
  else BitVec.ofNat 2048 e

/-- The blocks of an access that are ABSENT leave their mark in NRES (R277). -/
def noted (i : Instr) (f : Fields) (s : State) : State := s.noteAbsent (C s) (K s) (s.memAccess .p i f).2

/-- The first poisoned byte that a P load of the bundle reads (R393): none where no unit of memory is poisoned. -/
def poisonRead (i : Instr) (f : Fields) (s : State) : Option Nat :=
  s.loadPoison (C s) (K s) s.me.flow.bno false (((s.memAccess .p i f).2.cellsOf (keyP (C s) 0)).map Prod.snd)

/-- A load that reads poison (R393, R358): a deferred 0x16 is due at the granule, the slot it reserved will never be written, memory is
as before. -/
def OrphansIts (f : Fields) (key : Nat) (s u : State) : Prop :=
  u.mem = s.mem ∧ u.poison = s.poison ∧
  (s.me.live = true → ∃ cy x, (cy, x) ∈ u.me.flow.due ∧ x.cause = 0x16 ∧ x.kind = .deferred ∧
    x.addr = BitVec.ofNat 64 (granuleAddr key) ∧ x.itl = s.me.ctx.tl) ∧
  (f.dst.toNat < 16 → let q := s.me.queue f.dst.toNat
    let r := u.me.queue f.dst.toNat
    q.gsrc = false → r.tail = (q.tail + 1) % (2 * 2 ^ q.logcap) ∧ (r.slot (q.tail % 2 ^ q.logcap)).present = false ∧
      (r.slot (q.tail % 2 ^ q.logcap)).orphan = true)

/-- A P load: wherever it issues it appends a slot with the given bytes, or, where a byte it reads is poisoned, orphans it. -/
def LoadsP (i : Instr) (f : Fields) (lat : State → Nat) (P : State → SlotBits → Prop) : Prop :=
  Does i (fun s u => ∃ v, P s v ∧
    (poisonRead i f s = none → u = (noted i f s).appendTo f.dst.toNat (TAG f) v (lat s)) ∧
    ∀ key, poisonRead i f s = some key → OrphansIts f key s u)

/-- Something is due on a core in a cycle. -/
def isDue (s : State) (c due k : Nat) (late : Bool) (i : Instr) : Prop :=
  { due := due, late := late, strand := k, act := i : Todo } ∈ (s.core c).todo

/-- A W load: its slot is reserved with its tag, its result is due after `lat` cycles, and every granule it reads will be touched at the
midpoint of its round trip (R28, R123, R385). -/
def LoadsW (i : Instr) (f : Fields) (lat : State → List Nat → Nat) : Prop :=
  Does i (fun s u =>
    let x := (s.memAccess .w i f).2
    let cyc := (s.core (C s)).cyc
    u.mem = s.mem ∧ u.poison = s.poison ∧
    ∃ id, (f.dst ≠ 31 →
        (∃ p, Table.get? (u.core (C s)).flight.pends id = some p ∧ p.strand = K s ∧ p.q = f.dst.toNat ∧ p.tag = TAG f ∧ p.val = 0) ∧
        isDue u (C s) (cyc + lat s x.granules) (K s) false (.slotWrite (C s) id)) ∧
      ∀ g ∈ x.granules, ∃ tid t, Table.get? (u.core (C s)).flight.touches tid = some t ∧ t.strand = K s ∧ t.granule = g ∧
        t.die = dieOf (C s) ∧ t.wrote = false ∧ t.what = .load id (x.parts g) ∧
        isDue u (C s) (cyc + 7 + s.mesh (C s) (g * 64) 2) (K s) false (.vaultTouch (C s) tid))

/-- A store issues: its bytes in write order are in flight and nothing is written yet; they are performed after `lat` cycles (R123). -/
def StoresCells (w : Bool) (cells : List (Nat × Byte)) (lat : Nat) (s u : State) : Prop :=
  u.mem = s.mem ∧ u.poison = s.poison ∧ (∀ c, c ≠ C s → u.core c = s.core c) ∧
  ∃ id st, Table.get? (u.core (C s)).flight.stores id = some st ∧ st.strand = K s ∧ st.bno = s.me.flow.bno ∧ st.w = w ∧ st.cells = cells ∧
    isDue u (C s) ((s.core (C s)).cyc + lat) (K s) false (.storePerformed (C s) id)

/-- The bytes of slot C that a scalar store writes: z of them, by its tag (R118); a literal writes eight. -/
def scalarBytes (f : Fields) (s : State) : List Byte :=
  let o := s.opd f.c
  if o.lit then bytesLE 8 o.val
  else bytesLE (tagBytes o.tag) (if tNarrow o.tag && s.me.laneBits o.tag == 4 then o.val % 16 else o.val)

/-- The bytes of slot C that a vector store writes: 256, or 8 of a mask (R119). -/
def vectorBytes (f : Fields) (s : State) : List Byte :=
  bytesLE (if (s.opd f.c).tag = 0x0D then 8 else 256) (s.opd f.c).val

/-! ### Lanes -/

/-- Lane j, of w bits, of a slot and of a source; a literal stands in every lane (R51, R63). -/
def laneAt (w : Nat) (v : SlotBits) (j : Nat) : BitVec w := v.extractLsb' (w * j) w
def srcLane (w : Nat) (o : Opd) (j : Nat) : BitVec w := BitVec.ofNat w (if o.lit then o.val else o.val / 2 ^ (w * j))
def La (w : Nat) (f : Fields) (s : State) (j : Nat) : BitVec w := srcLane w (s.opd f.a) j
def Lb (w : Nat) (f : Fields) (s : State) (j : Nat) : BitVec w := srcLane w (s.opd f.b) j
def Lc (w : Nat) (f : Fields) (s : State) (j : Nat) : BitVec w := srcLane w (s.opd f.c) j

/-- i appends one vector slot of n lanes of w bits, lane j holding g s j. -/
def AppendsLanes (i : Instr) (f : Fields) (lat : Nat) (tag : State → Nat) (w n : State → Nat) (g : (s : State) → Nat → BitVec (w s)) : Prop :=
  Does i (fun s u => ∃ v, u = s.appendTo f.dst.toNat (tag s) v lat ∧ ∀ j, j < n s → laneAt (w s) v j = g s j)

/-- The lane width of an integer type, its lanes as integers, and an exact result brought into it: wrapped, or with SAT (mod[2])
saturated (R135). -/
def iw (t : ITy) : Nat := ityBits t
def lo (t : ITy) : Int := if itySigned t then -(2 ^ (iw t - 1)) else 0
def hi (t : ITy) : Int := if itySigned t then 2 ^ (iw t - 1) - 1 else 2 ^ iw t - 1
def asInt (t : ITy) (x : BitVec (iw t)) : Int := if itySigned t then x.toInt else x.toNat
def fitted (t : ITy) (f : Fields) (x : Int) : BitVec (iw t) :=
  BitVec.ofInt (iw t) (if f.mod.getLsbD 2 then max (lo t) (min (hi t) x) else x)

/-- A lane-wise integer instruction. -/
def IntLanes (i : Instr) (t : ITy) (f : Fields) (lat : Nat) (tag : State → Nat) (g : State → Nat → BitVec (iw t)) : Prop :=
  AppendsLanes i f lat tag (fun _ => iw t) (fun _ => 2048 / iw t) g

/-- The width of a floating-point format, and a lane-wise instruction of it. -/
def fw (t : FFmt) : Nat := (FFmt.ieee t).width
def FpLanes (i : Instr) (t : FFmt) (f : Fields) (lat : Nat) (g : State → Nat → Nat) : Prop :=
  AppendsLanes i f lat (fun _ => fmtTag t) (fun _ => fw t) (fun _ => 2048 / fw t) (fun s j => BitVec.ofNat (fw t) (g s j))

/-- The exact values of the lanes of a source, and the rounding of an exact value by RM = mod[1:0] (R39, R40). -/
def va (t : FFmt) (f : Fields) (s : State) (j : Nat) : XVal := (FFmt.ieee t).value (La (fw t) f s j).toNat
def vb (t : FFmt) (f : Fields) (s : State) (j : Nat) : XVal := (FFmt.ieee t).value (Lb (fw t) f s j).toNat
def vc (t : FFmt) (f : Fields) (s : State) (j : Nat) : XVal := (FFmt.ieee t).value (Lc (fw t) f s j).toNat
def RMof (f : Fields) : RM := RM.ofMod (f.m 0 2)
def rounded (t : FFmt) (f : Fields) (x : XVal) : Nat := (FFmt.ieee t).round (RMof f) x

/-- The mantissa of a finite value in units of 2^k. -/
def inUnits (k : Int) (x : XVal) : Int := x.smant * 2 ^ (x.expo - k).toNat

/-- Sums and products of finite values are exact (R40, R128); a NaN addend, opposite infinities and infinity times zero give NaN. -/
def ExactSums : Prop :=
  (∀ (rm : RM) (a b : Bool) (m n : Nat) (e h : Int), let x := XVal.fin a m e
    let y := XVal.fin b n h
    let k := min e h
    mulX x y = .fin (a != b) (m * n) (e + h) ∧
    ∃ c p q, sumX rm [x, y] = .fin c p q ∧ (p = 0 ↔ inUnits k x + inUnits k y = 0) ∧
      (p ≠ 0 → k ≤ q ∧ inUnits k (.fin c p q) = inUnits k x + inUnits k y) ∧
      (p = 0 → c = if a = b ∧ m = 0 ∧ n = 0 then a else decide (rm = .rdn))) ∧
  (∀ (rm : RM) (x : XVal), sumX rm [.nan, x] = .nan ∧ sumX rm [x, .nan] = .nan ∧ mulX .nan x = .nan ∧ mulX x .nan = .nan) ∧
  (∀ (rm : RM) (a b c : Bool) (n : Nat) (e : Int), sumX rm [.inf a, .inf b] = (if a = b then .inf a else .nan) ∧
    sumX rm [.inf a, .fin b n e] = .inf a ∧ sumX rm [.fin b n e, .inf a] = .inf a ∧ mulX (.inf a) (.inf c) = .inf (a != c) ∧
    mulX (.inf a) (.fin b n e) = (if n = 0 then .nan else .inf (a != b)) ∧
    mulX (.fin b n e) (.inf a) = (if n = 0 then .nan else .inf (b != a)))

/-- r rounds one exact value to the format g as R43 says, where `above v` is the sign of v minus that value and neg is its sign: rounding
down gives the greatest value of the format that is not above it, rounding up the least that is not below it, so that none lies strictly
between the two; RTZ gives the one nearer to zero, RNE the nearer one, on a tie the one with an even last bit; past the largest finite value
RNE gives an infinity from half a unit of the last place on. -/
def RoundsTo (g : IEEE) (above : XVal → Int) (neg : Bool) (r : RM → Nat) : Prop :=
  let lo := g.value (r .rdn)
  let hi := g.value (r .rup)
  let mid := mulX (sumX .rne [lo, hi]) (.fin false 1 (-1))
  let lim := above (.fin neg (2 ^ (g.mb + 2) - 1) (g.bias - g.mb - 1))
  (∀ v, v < 2 ^ g.width → (g.value v).isNan = false →
    (above (g.value v) ≤ 0 ↔ cmpX (g.value v) lo ≤ 0) ∧ (0 ≤ above (g.value v) ↔ 0 ≤ cmpX (g.value v) hi)) ∧
  (∀ rm, r rm < 2 ^ g.width ∧ (r rm = r .rdn ∨ r rm = r .rup)) ∧ r .rtz = (if neg then r .rup else r .rdn) ∧
  (lo.isInf true = false → hi.isInf false = false →
    (0 < above mid → r .rne = r .rdn) ∧ (above mid < 0 → r .rne = r .rup) ∧ (above mid = 0 → cmpX lo hi < 0 → r .rne % 2 = 0)) ∧
  (lo.isInf true = true ∨ hi.isInf false = true →
    r .rne = if (if neg then lim < 0 else 0 < lim) then r .rtz else g.infBits neg)

/-- Quotients (R128): the exact one is rounded as R43 says. -/
def Quotients (g : IEEE) : Prop :=
  (∀ (rm : RM) (a : Bool) (m n : Nat) (e h : Int), n ≠ 0 → let x := XVal.fin a m e
    let y := XVal.fin false n h
    RoundsTo g (fun v => cmpX (mulX v y) x) a (fun rm => divX g rm x y) ∧ divX g rm x (.fin true n h) = divX g rm (.fin (!a) m e) y) ∧
  (∀ (rm : RM) (a b : Bool) (m : Nat) (e h : Int) (x : XVal),
    divX g rm (.fin a m e) (.fin b 0 h) = (if m = 0 then g.canonNan else g.infBits (a != b)) ∧ divX g rm (.inf a) (.inf b) = g.canonNan ∧
    divX g rm (.inf a) (.fin b m e) = g.infBits (a != b) ∧ divX g rm (.fin a m e) (.inf b) = g.round rm (.fin (a != b) 0 0) ∧
    divX g rm .nan x = g.canonNan ∧ divX g rm x .nan = g.canonNan)

/-- Square roots and their reciprocals (R128), in the same way, with the specials of the table. -/
def Roots (g : IEEE) : Prop :=
  (∀ (m : Nat) (e : Int), m ≠ 0 → let x := XVal.fin false m e
    RoundsTo g (fun v => if v.sign then -1 else cmpX (mulX v v) x) false (fun rm => sqrtX g rm x) ∧
    RoundsTo g (fun v => if v.sign then -1 else cmpX (mulX (mulX v v) x) (.fin false 1 0)) false (fun rm => rsqrtX g rm x)) ∧
  (∀ (rm : RM) (a : Bool) (m : Nat) (e : Int),
    sqrtX g rm (.fin a 0 e) = g.round rm (.fin a 0 0) ∧ sqrtX g rm (.inf a) = (if a then g.canonNan else g.infBits false) ∧
    rsqrtX g rm (.fin a 0 e) = g.infBits a ∧ rsqrtX g rm (.inf a) = (if a then g.canonNan else g.round rm (.fin false 0 0)) ∧
    (m ≠ 0 → sqrtX g rm (.fin true m e) = g.canonNan ∧ rsqrtX g rm (.fin true m e) = g.canonNan) ∧
    sqrtX g rm .nan = g.canonNan ∧ rsqrtX g rm .nan = g.canonNan)

/-- 2^a of a whole number and log2 of a power of two are exact; the specials of R128's table. -/
def PowersAndLogarithms (g : IEEE) : Prop :=
  ∀ (rm : RM) (a : Bool) (m : Nat) (e k : Int),
    (-4096 < k → k < 4096 → exp2X g rm (XVal.ofInt k) = g.round rm (.fin false 1 k)) ∧
    exp2X g rm (.inf a) = (if a then g.round rm (.fin false 0 0) else g.infBits false) ∧ exp2X g rm .nan = g.canonNan ∧
    log2X g rm (.fin false 1 k) = g.round rm (XVal.ofInt k) ∧ log2X g rm (.fin a 0 e) = g.infBits true ∧
    (m ≠ 0 → log2X g rm (.fin true m e) = g.canonNan) ∧ log2X g rm (.inf a) = (if a then g.canonNan else g.infBits false) ∧
    log2X g rm .nan = g.canonNan

/-- The mask of a compare over n lanes (R130): bit i of 64 is lane i's outcome; above 64 lanes, bit i is set when every lane of its group
of n / 64 satisfies the code; below 64, the bits above n are clear. -/
def maskBit (n : Nat) (h : Nat → Bool) (i : Nat) : Bool :=
  if n ≤ 64 then decide (i < n) && h i else (List.range (n / 64)).all (fun d => h (i * (n / 64) + d))

/-- i appends a mask. -/
def AppendsMask (i : Instr) (f : Fields) (b : State → Nat → Bool) : Prop :=
  Does i (fun s u => ∃ v : BitVec 64, u = s.appendTo f.dst.toNat 0x0D (v.setWidth 2048) 2 ∧ ∀ j, j < 64 → v.getLsbD j = b s j)

/-- The lane width of a tag for the strand, and its lanes. -/
def lw (s : State) (tag : Nat) : Nat := s.me.laneBits tag
def ln (s : State) (tag : Nat) : Nat := 2048 / lw s tag

/-- The tag two sources share (R134, R138, R140): that of the source that is no literal; RAW where both are. -/
def shared (f : Fields) (s : State) : Nat :=
  if (s.opd f.a).lit then (if (s.opd f.b).lit then 0 else (s.opd f.b).tag) else (s.opd f.a).tag

/-- i appends lanes of the width of a tag. -/
def AppendsTagLanes (i : Instr) (f : Fields) (lat : Nat) (tag : State → Nat) (g : State → Nat → Nat) : Prop :=
  AppendsLanes i f lat tag (fun s => lw s (tag s)) (fun s => ln s (tag s)) (fun s j => BitVec.ofNat _ (g s j))

/-- The number in lane j of a source, by the width of a tag. -/
def numA (f : Fields) (tag : Nat) (s : State) (j : Nat) : Nat := (La (lw s tag) f s j).toNat
def numB (f : Fields) (tag : Nat) (s : State) (j : Nat) : Nat := (Lb (lw s tag) f s j).toNat

/-- The tree of R54: node i of level l + 1 combines nodes 2i and 2i + 1 of level l; level 0 are the lanes. -/
def treeNode {α : Type} (op : α → α → α) (x : Nat → α) : Nat → Nat → α
  | 0, i => x i
  | l + 1, i => op (treeNode op x l (2 * i)) (treeNode op x l (2 * i + 1))

/-- The prefix of R55. -/
def prefixAt {α : Type} (op : α → α → α) (x : Nat → α) : Nat → α
  | 0 => x 0
  | i + 1 => op (prefixAt op x i) (x (i + 1))

/-- The lane of a source that a floating-point reduction combines: FP16 and BF16 widened to FP32 (R54). -/
def nodeOf (f : Fields) (s : State) (j : Nat) : Nat := nodeBits (s.opd f.a).tag (numA f (s.opd f.a).tag s j)

/-- The lane of a source as an integer of its tag. -/
def intOf (f : Fields) (s : State) (j : Nat) : Int :=
  let t := (s.opd f.a).tag
  if tSigned t then (BitVec.ofNat (intBits t) (numA f t s j)).toInt else numA f t s j

/-- A reduction (R142): a scalar of 64 bits with a tag, in 6 cycles. -/
def Reduces (i : Instr) (f : Fields) (op : RedOp) : Prop :=
  Does i (fun s u =>
    let t := (s.opd f.a).tag
    (tIeee t = true → (s.opd f.a).lit = false →
      u = s.appendTo f.dst.toNat (nodeTag t) (BitVec.ofNat 2048
        (treeNode (fpNode op (ieeeOf (nodeTag t)) (RMof f)) (nodeOf f s) (Nat.log2 (ln s t)) 0)) 6) ∧
    (tI t = true → (s.opd f.a).lit = false →
      let r := if t = 0x0E then 3 else t
      let x := treeNode (intNode op) (intOf f s) (Nat.log2 (ln s t)) 0
      u = s.appendTo f.dst.toNat r (BitVec.ofNat 2048 (extendElem true r (fitTag r (op == .sum && f.mod.getLsbD 2) x))) 6))

/-! ### Matrix units -/

/-- Unit, tile field and mod bit 6 of an M syllable. -/
def U (v : MUnit) : Nat := MUnit.idx v
def tileNo (f : Fields) : Nat := f.m 2 4
def theTile (v : MUnit) (f : Fields) (s : State) : Tile := ((s.core (C s)).unit (U v)).tile (tileNo f)

/-- A matrix operation of the bundle is in flight in unit v with the given tile and kind. -/
def MatInFlight (v : MUnit) (f : Fields) (kind : MatKind) (id : Nat) (s u : State) : Prop :=
  ∃ o, Table.get? ((u.core (C s)).unit (U v)).ops id = some o ∧ o.strand = K s ∧ o.tile = tileNo f ∧ o.kind = kind ∧ o.bno = s.me.flow.bno

/-- The granules a matrix operation reads will be touched, `per` to a cycle, the first in the cycle after issue (R385). -/
def MatTouches (what : TouchFor) (per : Nat) (gs : List Nat) (s u : State) : Prop :=
  ∀ n, n < gs.length → ∃ tid t, Table.get? (u.core (C s)).flight.touches tid = some t ∧ t.granule = gs.getD n 0 ∧ t.what = what ∧
    t.wrote = false ∧ isDue u (C s) ((s.core (C s)).cyc + 1 + n / per) (K s) false (.vaultTouch (C s) tid)

/-- The stride of B: the slice, or 16 times STRIDE of the tile's MFMT word (R148, R149). -/
def strideB (v : MUnit) (t : MFmt) (f : Fields) (s : State) : Nat :=
  if fld (theTile v f s).mfmt 8 16 = 0 then mfSlice t else 16 * fld (theTile v f s).mfmt 8 16

/-- The A slots of MMA's run (R147). -/
def runOf (t : MFmt) (f : Fields) (s : State) : List Opd :=
  (List.range (mfNa t)).map (fun j => s.readAt (C s) (K s) f.a.qsel.toNat (f.a.off.toNat + j))

/-- MMA and MMAZ (R151, R155): the operands are taken at issue, B's granules will be touched mmaRate a cycle (the model's choice, log 23),
the tile is written in cycle c + 40, the array is free again after 32 cycles. -/
def StartsMma (i : Instr) (v : MUnit) (t : MFmt) (fresh : Bool) (f : Fields) : Prop :=
  Does i (fun s u =>
    let eb := (B64 f s).toNat
    let run := runOf t f s
    let gs := granulesOfB eb (strideB v t f s) (mfSlice t)
    let kind := MatKind.mma fresh t (f.m 0 2) (run.map (fun x => BitVec.ofNat 2048 x.val)) (run.map (fun x => s.me.fd (x.tag - 0x10)))
      (s.me.fd (bfdOf (theTile v f s).mfmt (run.headD Opd.none).tag)) eb (strideB v t f s) (mfSlice t)
    u.mem = s.mem ∧ ((u.core (C s)).unit (U v)).arrayFree = (s.core (C s)).cyc + 32 ∧
    ∃ id, MatInFlight v f kind id s u ∧ isDue u (C s) ((s.core (C s)).cyc + 40) (K s) true (.tileWrite (C s) id false) ∧
      MatTouches (.mma (U v) id) (mmaRate gs) gs s u)

/-- Element e of row i of A and of column j of B (R147, R148). -/
def elemA (t : MFmt) (run : List SlotBits) (fds : List Nat) (i e : Nat) : XVal :=
  let p := 2048 / mfBits t
  let n := i * mfK t + e
  mfValue t (fds.getD (n / p) 0) (fld (run.getD (n / p) 0).toNat (mfBits t * (n % p)) (mfBits t))
def elemB (t : MFmt) (fd eb stride : Nat) (bytes : Mem) (e j : Nat) : XVal :=
  mfValue t fd (fld (Memory.readNat bytes (eb + j * stride) (mfSlice t)) (mfBits t * e) (mfBits t))

/-- An operation of a matrix unit whose granules have all arrived unpoisoned and whose tile has no earlier writer in flight (R154). -/
def ReadyMat (s : State) (c id u : Nat) (o : MatOp) : Prop :=
  (s.core c).matOp? id = some (u, o) ∧ (s.core c).matWaits u id o = false ∧ o.bad = none

/-! ### Engine operations -/

/-- The outstanding operations of the strand whose knots an E syllable consumes (R65, R169). -/
def consumedOps (f : Fields) (s : State) : List Nat :=
  (s.ops.filter (fun p => p.2.core == C s && p.2.strand == K s && (knotsOf f).contains p.2.knot)).map Prod.fst

/-- An E syllable (R169, R171): its knot becomes pending and no other knot of the strand changes; a fresh operation is outstanding, which
captures kind; it starts in the next cycle, or waits for the operations whose knots it consumes. `n` slots are reserved for it. The other
strands are as before. -/
def Launches (i : Instr) (f : Fields) (engine : Nat) (kind : State → OpKind) (n : State → Nat) : Prop :=
  Does i (fun s u => u.mem = s.mem ∧ u.poison = s.poison ∧
    u.me.knot (KN f) = .pending ∧ (∀ x, x ≠ KN f → u.me.knot x = s.me.knot x) ∧
    (∀ c k, (c ≠ C s ∨ k ≠ K s) → u.strand c k = s.strand c k) ∧
    ∃ o e, u.op? o = some e ∧ (∀ o', o' ≠ o → u.op? o' = s.op? o') ∧
      e.core = C s ∧ e.strand = K s ∧ e.knot = KN f ∧ e.engine = engine ∧ e.kind = kind s ∧ e.tl = s.me.ctx.tl ∧ e.bno = s.me.flow.bno ∧
      e.fn = s.me.place.fn ∧ e.slots.length = (if f.dst = 31 then 0 else n s) ∧ e.waits = consumedOps f s ∧
      (if consumedOps f s = [] then e.phase = .ready ∧ isDue u (C s) ((s.core (C s)).cyc + 1) (K s) true (.engineStart o)
       else e.phase = .waiting))

/-- The scalar operands of an E syllable. -/
def a64 (f : Fields) (s : State) : Nat := (A64 f s).toNat
def b64 (f : Fields) (s : State) : Nat := (B64 f s).toNat

/-- No unit of memory is poisoned, and the strand of an operation has no bound region. -/
def Plain (s : State) (e : EngOp) : Prop := s.poison = [] ∧ (s.strand e.core e.strand).regions = [] ∧ s.memOk

/-- No other outstanding operation names the knot of e (R170). -/
def OnlyOnKnot (s : State) (o : Nat) (e : EngOp) : Prop :=
  ∀ p ∈ s.ops, p.1 ≠ o → ¬(p.2.core = e.core ∧ p.2.strand = e.strand ∧ p.2.knot = e.knot)

/-- After t the knot of e is not pending, it has state v where no other operation names it, and no operation waits for o (R171). -/
def KnotLeaves (s : State) (o : Nat) (e : EngOp) (v : KState) (t : State) : Prop :=
  (t.strand e.core e.strand).knot e.knot ≠ .pending ∧ (OnlyOnKnot s o e → (t.strand e.core e.strand).knot e.knot = v) ∧
  ∀ p ∈ t.ops, o ∉ p.2.waits

/-- The addresses a chunk of a copy reads and writes (R177), and their keys where every byte lies in this module's memory. -/
def chunkSpan (e : EngOp) (p : CopyPlan) : Nat × Nat := (p.chunkAt e.next * 256, min 256 (p.total - p.chunkAt e.next * 256))
def chunkAddrs (e : EngOp) (p : CopyPlan) (g : Nat → Int) : List Int :=
  (List.range (chunkSpan e p).2).map (fun i => g ((chunkSpan e p).1 + i))
def LiesAt (s : State) (e : EngOp) (sp : Nat) (write : Bool) (as : List Int) (keys : List Nat) : Prop :=
  s.spots e sp write 0 as = (.ok (keys.map Spot.here), s) ∧ (∀ k ∈ keys, k < 2 ^ 64)

/-- Bytes written at keys in order: the last for a key stands; every other byte of memory is as before. -/
def BytesWritten (s t : State) (keys : List Nat) (b : Nat → Byte) : Prop :=
  (∀ n, n < keys.length → (∀ m, n < m → m < keys.length → keys.getD m 0 ≠ keys.getD n 0) → t.byte (keys.getD n 0) = b n) ∧
  ∀ a, a ∉ keys → t.byte a = s.byte a

/-- The channels serve a read of some bytes and then a write of others in this CK cycle (R221). -/
def ChannelsServe (s : State) (reads writes : List Nat) : Prop :=
  ∃ s1 s2, s.takeBursts false reads = (true, s1) ∧ s1.takeBursts true writes = (true, s2)

/-- A read of n bytes at a VA of a function gets the bytes at these keys: every byte translates into this module's memory, none is
poisoned, the channels serve it; u is the state behind it. -/
def ReadsAt (s : State) (fn va n : Nat) (ks : List Nat) (u : State) : Prop :=
  ∃ s1, s.xlateRun 0 fn .read va n = (.ok ks, s1) ∧ (∀ k ∈ ks, k < 2 ^ 64) ∧ s.poison = [] ∧ s1.takeBursts false ks = (true, u)

/-- A write of n bytes at a VA of a function goes to these keys. -/
def WritesAt (s : State) (fn va n : Nat) (ks : List Nat) : Prop :=
  ∃ s1 s2, s.xlateRun 0 fn .write va n = (.ok ks, s1) ∧ s1.takeBursts true ks = (true, s2) ∧ s.poison = [] ∧ s.memOk

/-- The 32-bit word of four bytes from a key. -/
def word32 (rd : Nat → Byte) (k : Nat) : Nat := ofBytes [rd k, rd (k + 1), rd (k + 2), rd (k + 3)]

/-! ### Boundaries, traps, kills -/

/-- exec answers a next state of i that P holds of. -/
def Next (i : Instr) (s : State) (P : State → Prop) : Prop := ∃ t, exec i s = .next t ∧ P t

/-- The fields of BnCAUSE (R342). -/
def CauseFields (w : Dword) (x : Trap) (hent endp : Bool) : Prop :=
  w.extractLsb' 0 8 = BitVec.ofNat 8 x.cause ∧
  w.extractLsb' 8 2 = (match x.kind with | .inPlace => 0 | .postIssue => 1 | .deferred => 2) ∧ w.extractLsb' 10 2 = 0 ∧
  w.extractLsb' 12 1 = (if x.engine.isSome then 1 else 0) ∧
  w.extractLsb' 13 3 = BitVec.ofNat 3 (match x.engine with | some (_, e) => e | none => 0) ∧
  w.extractLsb' 16 4 = BitVec.ofNat 4 (match x.engine with | some (n, _) => n | none => 0) ∧
  w.extractLsb' 20 2 = BitVec.ofNat 2 x.itl ∧ w.getLsbD 22 = hent ∧ w.getLsbD 23 = endp ∧ w.extractLsb' 24 40 = 0

/-- A trap whose numbers fit the fields of BnCAUSE. -/
def TrapFits (x : Trap) : Prop :=
  x.cause < 256 ∧ x.itl < 4 ∧ (match x.engine with | some (n, e) => n < 16 ∧ e < 8 | none => True)

/-- The fields of a return word (R109) for a strand that resumes at its PC. -/
def ReturnFields (w : Dword) (y : Ctx) : Prop :=
  w.extractLsb' 0 30 = BitVec.ofNat 30 y.pc ∧ w.extractLsb' 30 2 = 0 ∧ w.getLsbD 63 = y.seq.isSome ∧
  w.extractLsb' 62 1 = BitVec.ofNat 1 (match y.seq with | some (n, _) => n | none => 0) ∧
  w.extractLsb' 32 30 = BitVec.ofNat 30 (match y.seq with | some (_, g) => g | none => 0)

/-- A strand whose PC and delay sequence fit the fields of a return word. -/
def SeqFits (y : Ctx) : Prop := y.pc < 2 ^ 30 ∧ (∀ n g, y.seq = some (n, g) → n < 2 ∧ g < 2 ^ 30)

/-- Strand k of core c takes the trap x (R345): the bank of the next level, TL, PC and the delay sequence; the rest of its context,
its queues and memory are as before. The return word is that of the strand's PC and delay sequence, or `word` where one is kept (R365). -/
def Enters (c k : Nat) (x : Trap) (hent endp : Bool) (word : Option Dword) (s t : State) : Prop :=
  let y := (s.strand c k).ctx
  let z := (t.strand c k).ctx
  let n := y.tl
  ∀ o pc, Table.get? s.codes (s.strand c k).place.code = some o → o.trapEntry (n + 1) = some pc → n < 2 → TrapFits x → SeqFits y →
    z.pc = pc ∧ z.seq = none ∧ z.tl = n + 1 ∧ CauseFields (z.bank (n + 1)).cause x hent endp ∧
    (word = none → ReturnFields (z.bank (n + 1)).ret y) ∧ (∀ w, word = some w → (z.bank (n + 1)).ret = w) ∧
    (z.bank (n + 1)).addr = x.addr ∧ (z.bank (n + 1)).aux = x.aux ∧ (∀ m, m ≠ n + 1 → z.bank m = y.bank m) ∧
    z.bt = y.bt ∧ z.cb = y.cb ∧ z.lse = y.lse ∧ z.knots = y.knots ∧ z.fds = y.fds ∧ z.wlimit = y.wlimit ∧ z.budget = y.budget ∧
    (t.strand c k).queues = (s.strand c k).queues ∧ t.mem = s.mem

/-- The kill of R345 for a strand without a level or an entry to take x at. -/
def KilledBy (c k : Nat) (x : Trap) (hent endp : Bool) (s t : State) : Prop :=
  let y := s.strand c k
  let die := fun (reason : Nat) => s.kill y.place.fn y.place.task
    { reason := reason, cause := x.cause, pos := y.place.pos
      words := some (causeWord x hent endp, returnWord y.ctx.pc y.ctx.seq, x.addr, x.aux) }
  (y.ctx.tl = 2 → t = die 1) ∧
  (y.ctx.tl ≠ 2 → (∀ o, Table.get? s.codes y.place.code = some o → o.trapEntry (y.ctx.tl + 1) = none) → t = die 2)

/-- The marks of R342 that a strand gives a trap by its kind. -/
def hentOf (s : State) (c k : Nat) (x : Trap) : Bool :=
  match x.kind with | .inPlace => (s.strand c k).entering | .postIssue => (s.strand c k).flow.hent | .deferred => false
def endpOf (s : State) (c k : Nat) (x : Trap) : Bool :=
  match x.kind with | .inPlace => false | _ => (s.strand c k).flow.life == .ending

/-- A fault of cause 0x06 of a strand, with its issuing level. -/
def expiry (s : State) (c k : Nat) (kind : Kind) (addr aux : Nat) : Trap :=
  { cause := 0x06, kind := kind, addr := BitVec.ofNat 64 addr, aux := BitVec.ofNat 64 aux, engine := none, itl := (s.strand c k).ctx.tl }

/-- The PC and the delay sequence after a bundle (R95): a transfer's two delay bundles follow it, then its continuation. -/
def Follows (x y : Ctx) (target : Option Nat) : Prop :=
  (∀ g, target = some g → y.pc = (x.pc + 1) % 2 ^ 30 ∧ y.seq = some (1, g)) ∧
  (target = none → ∀ g, x.seq = some (1, g) → y.pc = (x.pc + 1) % 2 ^ 30 ∧ y.seq = some (0, g)) ∧
  (target = none → ∀ g, x.seq = some (0, g) → y.pc = g ∧ y.seq = none) ∧
  (target = none → x.seq = none → y.pc = (x.pc + 1) % 2 ^ 30 ∧ y.seq = none)

/-- The slots a bundle pops from a selector (R27). -/
def popped (us : List Use) (sel : Nat) : Nat := (popsOn us sel).1

/-- The byte that cells leave at a key: the last one written (R123). -/
def written (cells : List (Nat × Byte)) (old : Byte) (key : Nat) : Byte :=
  match cells.reverse.find? (fun c => c.1 == key) with | some c => c.2 | none => old

/-- Dword i of a shape record of a strand, and what R99 asks of the record. -/
def shapeWord (s : State) (c k key : Nat) (w : Bool) (i : Nat) : Nat :=
  ofBytes ((List.range 8).map (fun j => s.loadByte c k ((s.strand c k).flow.bno + 1) (key + 8 * i + j) w))
def ShapeRecord (d : Nat → Nat) : Prop :=
  1 ≤ d 0 ∧ d 0 ≤ 6 ∧ (∀ i, 1 ≤ i → i ≤ 6 → d i < 2 ^ 30 ∧ (d 0 < i → d i = 0)) ∧ d 7 = 0

/-! ### Tasks and the X slot -/

/-- Every queue of a list of strands is disabled, they hold no context and run nothing. -/
def NotLive (t : State) (panel : List (Nat × Nat × PStatus)) : Prop := ∀ c k, (c, k, PStatus.cast) ∈ panel → (t.strand c k).live = false

/-- A task's entry is gone: a HUSK while a child of it is live, else freed, its generation advanced (R243, R265). -/
def EntryLeaves (s t : State) (key : Nat) (g : Task) : Prop :=
  (s.hasChild key g = true → ∃ g', t.task? key = some g' ∧ g'.st = .husk ∧ g'.gen = g.gen) ∧
  (s.hasChild key g = false → Table.wf s.disp.tasks = true →
    t.task? key = none ∧ Table.getD t.disp.gens key 0 = (g.gen + 1) % 2 ^ 14)

/-- No task of a function waits for the predecessor `id` (R249). -/
def Satisfied (t : State) (fn id : Nat) : Prop := ∀ p ∈ t.disp.tasks, p.1 / 2 ^ 18 = fn → id ∉ p.2.preds

/-- The notify word of an event of a task has been written, or dropped where its VA cannot be written, and vector 0 signalled once more; or
the dispatcher has it still to write, since a page waits for the host (R248, R272, R401). -/
def Notified (s t : State) (fn va id event cause : Nat) : Prop :=
  s.host.msix.count (fn, 0) < t.host.msix.count (fn, 0) ∨
  ∃ canpred : Bool, DJob.word fn va (id + event * 2 ^ 32 + cause * 2 ^ 40 + if canpred then 2 ^ 48 else 0) ∈ t.disp.jobs

/-- The kill record of R348 for strand k of core c, whose kill x describes. -/
def KillRecord (s : State) (id : Nat) (x : KillInfo) (c k : Nat) (bs : List Byte) : Prop :=
  let y := s.strand c k
  let d := fun (n : Nat) => ofBytes ((bs.drop (8 * n)).take 8)
  let due := y.flow.due.map Prod.snd
  bs.length = 128 ∧
  (id < 2 ^ 32 → x.cause < 2 ^ 8 → x.reason < 2 ^ 4 → x.pos < 2 ^ 6 → y.ctx.tl < 4 →
    d 0 % 2 ^ 32 = id ∧ d 0 / 2 ^ 32 % 2 ^ 8 = x.cause ∧ d 0 / 2 ^ 40 % 2 ^ 8 = x.reason ∧ d 0 / 2 ^ 48 % 2 ^ 6 = x.pos ∧ d 0 / 2 ^ 54 = y.ctx.tl) ∧
  (∀ a b e f, x.words = some (a, b, e, f) → d 1 = a.toNat ∧ d 2 = b.toNat ∧ d 3 = e.toNat ∧ d 4 = f.toNat) ∧
  (x.words = none → d 1 = 0 ∧ d 2 = 0 ∧ d 3 = 0 ∧ d 4 = 0) ∧
  (∀ n, n ∈ [1, 2] → let b := y.ctx.bank n
    d (4 * n + 1) = b.cause.toNat ∧ d (4 * n + 2) = b.ret.toNat ∧ d (4 * n + 3) = b.addr.toNat ∧ d (4 * n + 4) = b.aux.toNat) ∧
  d 13 % 2 ^ 8 = c % 2 ^ 8 ∧ (c < 256 → k < 4 → d 13 = k * 2 ^ 8 + c) ∧ d 14 = y.icyc % 2 ^ 64 ∧
  ((∀ t ∈ due, ∀ n e, t.engine = some (n, e) → n < 16) →
    (∀ n, n < 16 → ((d 15).testBit n ↔ ∃ t ∈ due, ∃ e, t.engine = some (n, e))) ∧
    ((d 15).testBit 16 ↔ ∃ t ∈ due, t.engine = none ∧ t.cause = 0x0C) ∧ d 15 < 2 ^ 17)

/-- No two strands of a panel stand at one place. -/
def PanelApart (panel : List (Nat × Nat × PStatus)) : Prop := (panel.map (fun x => (x.1, x.2.1))).Nodup

/-- A completing X syllable (R198): the strand waits for its operation, whose row is due `lat` cycles on, at the end of the cycle. -/
def StartsX (i : Instr) (w : State → XWait → Prop) (lat : State → Nat) (row : Nat → Nat → Instr) : Prop :=
  Does i (fun s u => (∃ x, u.me.flow.xwait = some x ∧ w s x) ∧ u.me.ctx = s.me.ctx ∧ u.mem = s.mem ∧
    isDue u (C s) ((s.core (C s)).cyc + lat s) (K s) true (row (C s) (K s)))

/-- The SYL word of a refusal of an X syllable (R343, R198): slot 7, the opcode, field 6. -/
def xSyl (op : Nat) : Dword := BitVec.ofNat 64 (7 * 2 ^ 32 + op * 2 ^ 35 + 6 * 2 ^ 45)

/-- n result slots tagged UINT64 of queue `dst` are reserved by these numbers; none with dst 31 (R64). -/
def Reserved (f : Fields) (n : Nat) (_ : State) (ids : List Nat) : Prop := ids.length = if f.dst = 31 then 0 else n

/-- A refusal (R198): a post-issue trap of the cause, and the strand goes on. -/
def Refused (c k cause : Nat) (t : State) : Prop :=
  (t.strand c k).flow.xwait = none ∧ ∃ x ∈ (t.strand c k).flow.post, x.cause = cause ∧ x.kind = .postIssue

/-- The target of a graft that A names (R200). -/
def tgtCore (w : Nat) : Nat := w % 256
def tgtStrand (w : Nat) : Nat := w / 2 ^ 8 % 4
def tgtQueue (w : Nat) : Nat := w / 2 ^ 10 % 16

/-- A queue that may become a source, and one that may become its target (R33, R200). -/
def CanSource (q : Queue) : Prop := q.en = true ∧ q.occ = 0 ∧ q.gsrc = false ∧ q.gtgt = false
def CanTarget (q src : Queue) : Prop := q.en = true ∧ q.wide = src.wide ∧ q.gtgt = false ∧ q.gsrc = false

/-- The predecessors of a record that a new task awaits (R249): named, live, not HUSKs, not yet triggered. -/
def Awaits (s : State) (fn : Nat) (r : List Dword) (id : Nat) : Prop :=
  id ∈ [(r.getD 4 0).toNat / 2 ^ 32, (r.getD 5 0).toNat % 2 ^ 32, (r.getD 5 0).toNat / 2 ^ 32] ∧ id ≠ 0 ∧
  ∃ x, s.taskOfId fn id = some x ∧ x.2.st ≠ .husk ∧ x.2.fired = false

/-- A task has entered a table (R246): its record, priority and parent; HELD while it awaits a predecessor, else READY. -/
def Entered (s t : State) (fn id : Nat) (r : List Dword) (prio parent : Nat) (spawned : Bool) : Prop :=
  s.task? (taskKey fn (id % 2 ^ 18)) = none ∧ id % 2 ^ 18 ≠ 0 ∧
  ∃ g, t.task? (taskKey fn (id % 2 ^ 18)) = some g ∧ g.gen = id / 2 ^ 18 ∧ g.recd = r ∧ g.prio = prio ∧ g.parent = parent ∧
    g.spawned = spawned ∧ g.first = true ∧ (∀ x, x ∈ g.preds ↔ Awaits s fn r x) ∧ (g.st = if g.preds = [] then .ready else .held)

/-- The effect of a TRACE on the buffer of its core (R207, R328): only for the owner function, and not while the buffer is frozen. -/
def Traces (g : State → Trace → Trace) (s u : State) : Prop :=
  let x := (s.core (C s)).trace
  (u.core (C s)).trace = (if s.me.place.fn = x.owner ∧ x.frozen = false then g s x else x) ∧
  (u.core (C s)).strands = (s.core (C s)).strands ∧ SameOutsideCore s u

/-- The queues a first cast-on gives a strand (R260): those of the launch block; in queue AQ, ARGS, PLIST, PLEN and the task ID stand behind
what it holds, where no other strand of the panel is on the core. -/
def StartsWithQueues (s t : State) (key : Nat) (g : Task) (l : Launch) (ks : List (Nat × Nat × Nat)) (c k : Nat) : Prop :=
  (∀ n, n < 16 → let q := l.queue n
    let y := t.queue c k n
    y.en = q.en ∧ y.wide = q.wide ∧ y.logcap = q.logcap ∧ y.base = q.base ∧ y.head = q.head ∧
    (l.grafts = [] → y.gsrc = q.gsrc ∧ y.gtgt = q.gtgt) ∧ (l.aq ≠ some n → y.tail = q.tail ∧ y.slots = q.slots)) ∧
  ∀ a, l.aq = some a → a < 16 → let q := l.queue a
    let y := t.queue c k a
    q.wide = false → 2 ≤ q.logcap → y.tail = (q.tail + 4) % (2 * 2 ^ q.logcap) ∧
    ∀ i, i < 4 → let n := (q.tail + i) % (2 * 2 ^ q.logcap) % 2 ^ q.logcap
      (y.slot n).present = true ∧ (y.slot n).tag = 8 ∧
      (s.memOk → q.base + 8 * 2 ^ q.logcap ≤ 2 ^ 22 → (∀ p j, (p, c, j) ∈ ks → j = k) →
        t.slotData c k a n = BitVec.ofNat 2048 ([g.dw 9, g.dw 7, g.dw 8, g.id key].getD i 0 % 2 ^ 64))

/-- The strand a first cast-on gives a place (R260). -/
def StartsAt (t : State) (g : Task) (code : Nat) (l : Launch) (epoch c k : Nat) : Prop :=
  let x := t.strand c k
  let e := g.dw 1
  let kern := e / 2 ^ 20 % 2 ^ 20
  x.flow.life = .running ∧ x.ctx.pc = (if (g.dw 3).testBit 17 then e % 2 ^ 20 else kern) ∧ x.ctx.seq = none ∧ x.ctx.tl = 0 ∧
  x.bt 0 = kern ∧ x.bt 1 = (if (g.dw 3).testBit 18 then e / 2 ^ 40 % 2 ^ 20 else 2 ^ 30 - 1) ∧ x.bt 2 = 0 ∧ x.bt 3 = 0 ∧ x.ctx.cb = 0 ∧
  (∀ n, x.lse n = 0 ∧ x.knot n = .idle ∧ x.ctx.bank n = {}) ∧ (∀ n, n < 16 → x.fd n = l.fds.getD n 0) ∧ x.ctx.wlimit = l.wlimit ∧
  x.ctx.budget = 0 ∧ x.icyc = 0 ∧ x.phaseno = 0 ∧ x.epoch = epoch ∧ x.place.code = code ∧ x.place.budgetRec = g.dw 6 % 2 ^ 32 ∧
  x.place.mallot = l.mallot ∧ x.place.gen = g.gen

/-- Only task `key` of the module waits for a panel; every selection gets its launch block and finds that it fits (R251 to R256, R260). -/
def OnlyWaiting (s : State) (fn i : Nat) (g : Task) (rd : Ready) (o : Nat × Nat × Nat) (ks : List (Nat × Nat × Nat)) : Prop :=
  let key := taskKey fn i
  let need := rd.launch.need
  i < 2 ^ 18 ∧ fn < 65 ∧ s.disp.tasks = [(key, g)] ∧ g.st = .ready ∧ g.first = true ∧ g.request = none ∧ g.prio < 8 ∧
  s.disp.blocking = none ∧ s.disp.walks = [] ∧ s.dspfn fn % 256 ≠ 0 ∧ (ks.map Prod.snd).Nodup ∧
  ∃ s0, s.needOf fn g = (some need, s0) ∧ s0.neverFits g need.mallot = false ∧
    ∀ served ptr, ∃ s1 s2, (s0.modDisp (fun d => { d with served := served, ptr := ptr })).needOf fn g = (some need, s1) ∧
      s1.placeOf key g need = some (o, ks) ∧ s1.firstCheck fn g = (.ok (some rd), s2)

/-- The registers that a save area holds of a strand (R36, R263), where none of its knots is pending. -/
def SavedPart (x y : Ctx) : Prop :=
  y.pc = x.pc ∧ y.seq = none ∧ y.tl = x.tl ∧ y.cb = x.cb % 256 ∧ y.wlimit = x.wlimit ∧ y.budget = x.budget ∧ y.bank 1 = x.bank 1 ∧ y.bank 2 = x.bank 2

/-- A queue whose fields fit its descriptor image (R23). -/
def FitsImage (q : Queue) : Prop :=
  q.base < 2 ^ 22 ∧ q.logcap < 2 ^ 4 ∧ q.head < 2 ^ 13 ∧ q.tail < 2 ^ 13 ∧ q.gcred < 2 ^ 13 ∧ q.gtlog < 2 ^ 4 ∧ q.gcore < 2 ^ 8 ∧ q.gstr < 4 ∧
  q.gq < 16

/-- A queue without what no save area holds: its slots' state, which the window holds, and the marks of R361 and R394. -/
def bareQueue (q : Queue) : Queue := { q with slots := [], broken := false, parity := none }

/-! ### Stitch row -/

/-- A field of a micro-operation word (R157). -/
def xf (w lo n : Nat) : Nat := w / 2 ^ lo % 2 ^ n

/-- A lane of a source code, as a number and as an FP32 value. -/
def srcNum (row : Row) (j e code l : Nat) : Nat := (row.source j e code).getD l 0
def srcVal (row : Row) (j e code l : Nat) : XVal := fp32.value (srcNum row j e code l)

/-- SPOLY's value after u steps (R159), with coefficients from register K on. -/
def polyAt (row : Row) (j e w l : Nat) : Nat → Nat
  | 0 => srcNum row j e (xf w 32 7) l
  | u + 1 => fp32.round (RM.ofMod w) (sumX (RM.ofMod w)
      [mulX (fp32.value (polyAt row j e w l u)) (srcVal row j e (xf w 39 7) l), srcVal row j e (xf w 32 7 + (u + 1)) l])

/-- Lane l of an SCVT by its mode (R160); d is the fd image. -/
def cvtLane (d w a : Nat) : Nat :=
  let rm := RM.ofMod w
  let v := fp32.value a
  match xf w 2 3 with
  | 0 => (BitVec.ofInt 32 (toIntSat rm (-(2 ^ 31)) (2 ^ 31 - 1) v)).toNat
  | 1 => fp32.round rm (XVal.ofInt (BitVec.ofNat 32 a).toInt)
  | 2 => fp32.round rm (bf16.value (bf16.round rm v))
  | 3 => fp32.round rm (fp16.value (fp16.round rm v))
  | _ => fp32.round rm ((NarrowFmt.ofImage d).value ((NarrowFmt.ofImage d).cvtn rm v))

/-- Lane l of an operation with a register destination (R159): SADD to SRSQ, SPOLY, SCVT, SSEL, SPASS. -/
def microLane (row : Row) (fd : Nat → Nat) (j e w l : Nat) : Nat :=
  let rm := RM.ofMod w
  let a := srcVal row j e (xf w 39 7) l
  let b := srcVal row j e (xf w 32 7) l
  match xf w 58 6 with
  | 0x01 => fp32.round rm (sumX rm [a, b])
  | 0x02 => fp32.round rm (mulX a b)
  | 0x03 => fp32.round rm (sumX rm [mulX a b, srcVal row j e (xf w 25 7) l])
  | 0x04 => maxBits fp32 (srcNum row j e (xf w 39 7) l) (srcNum row j e (xf w 32 7) l)
  | 0x05 => minBits fp32 (srcNum row j e (xf w 39 7) l) (srcNum row j e (xf w 32 7) l)
  | 0x06 => exp2X fp32 rm a
  | 0x07 => divX fp32 rm (.fin false 1 0) a
  | 0x08 => rsqrtX fp32 rm a
  | 0x09 => polyAt row j e w l (xf w 2 3 + 1)
  | 0x0A => cvtLane (fd (xf w 5 4)) w (srcNum row j e (xf w 39 7) l)
  | 0x0B => if (row.pred e (xf w 5 2)).testBit l then srcNum row j e (xf w 39 7) l else srcNum row j e (xf w 32 7) l
  | _ => srcNum row j e (xf w 39 7) l

/-- phys of R158. -/
def physOf (j n : Nat) : Nat := if n < 32 then (((n : Int) - j) % 32).toNat else n

/-- The active run of a core, with its configuration, in a row cycle that is to begin or to end now. -/
def RowAt (s : State) (c : Nat) (r : RowRun) (g : RowCfg) (mid : Bool) : Prop :=
  (s.core c).row.run = some r ∧ (s.core c).row.cfg = some g ∧ r.last = false ∧ r.due = (s.core c).cyc ∧ r.mid = mid

/-- The sources of an operation have 16 lanes. -/
def Wide16 (row : Row) (j e w : Nat) : Prop :=
  ∀ lo ∈ [39, 32, 25], (row.source j e (xf w lo 7)).length = 16

/-- A row cycle of the active run begins now, in which element e executes the word d for a running iteration (R158); no fold becomes RU in it
and no store of an output slot into P needs a fill. -/
def Executes (s : State) (c e : Nat) (d : Dword) (r : RowRun) (g : RowCfg) : Prop :=
  let w := d.toNat
  let j := r.t / g.ii
  RowAt s c r g false ∧ r.fail = none ∧ s.rowStalls c r g = false ∧ (r.outAt g = none ∨ r.omode ≠ 1) ∧
  (∀ p ∈ (s.core c).row.ruNext, r.t < p.1) ∧ e < 8 ∧ Table.get? g.ops (e * 32 + r.t % g.ii) = some d ∧
  xf w 55 3 ≤ j ∧ j - xf w 55 3 < r.n ∧ Wide16 (s.core c).row j e w

/-- Element e executes an SRED in the row cycle of a run (R159). -/
def MakesSred (r : RowRun) (g : RowCfg) (e : Nat) : Bool :=
  match Table.get? g.ops (e * 32 + r.t % g.ii) with
  | some d => xf d.toNat 58 6 == 0x0E && decide (xf d.toNat 55 3 ≤ r.t / g.ii ∧ r.t / g.ii - xf d.toNat 55 3 < r.n)
  | none => false

/-- One step of the row unit's fold in one lane (R162), and the fold of the contributions of some elements in order. -/
def foldStep (op a b : Nat) : Nat :=
  match op with
  | 1 => maxBits fp32 a b
  | 2 => minBits fp32 a b
  | _ => fp32.round .rne (sumX .rne [fp32.value a, fp32.value b])
def foldOf (op : Nat) (xs : List Nat) : Nat := xs.tail.foldl (foldStep op) (xs.headD 0)

/-- The bits of a group's lane by FMT (R160). -/
def laneWidth (fmt : Nat) : Nat := match fmt with | 0 => 32 | 1 => 16 | 2 => 16 | 3 => 8 | _ => 4

/-- The slot tag an SIN takes by FMT (R357), and a lane of its group, widened. -/
def inTag (w : Nat) : Nat := match xf w 1 3 with | 0 => 0x0B | 1 => 0x0A | 2 => 0x09 | _ => 0x10 + xf w 9 4
def inLane (d w : Nat) (v : SlotBits) (l : Nat) : Nat :=
  let b := laneWidth (xf w 1 3)
  let x := v.toNat / 2 ^ (16 * b * xf w 4 5 + b * l) % 2 ^ b
  match xf w 1 3 with
  | 0 => x
  | 1 => fp32.round .rne (bf16.value x)
  | 2 => fp32.round .rne (fp16.value x)
  | _ => fp32.round .rne ((NarrowFmt.ofImage d).value x)

/-- A lane of an SOUT by FMT (R160), scaled with QS (R163). -/
def outLane (d rmxp w a : Nat) : Nat :=
  let rm := RM.ofMod w
  match xf w 2 3 with
  | 0 => a
  | 1 => bf16.round rm (fp32.value a)
  | 2 => fp16.round rm (fp32.value a)
  | _ => (if w.testBit 14 then { NarrowFmt.ofImage d with scale := quantScale d rmxp } else NarrowFmt.ofImage d).cvtn rm (fp32.value a)

/-- A store is in flight with these cells, performed two cycles on (R167). -/
def RowStores (w : Bool) (cells : List (Nat × Byte)) (c : Nat) (r : RowRun) (s t : State) : Prop :=
  t.mem = s.mem ∧ ∃ id st, Table.get? (t.core c).flight.stores id = some st ∧ st.w = w ∧ st.cells = cells ∧ st.row = true ∧
    st.strand = r.strand ∧ isDue t c ((s.core c).cyc + 2) r.strand false (.storePerformed c id)

/-! ### Pumps -/

/-- The fields of a command word (R210). -/
def pBank (v : Nat) : Nat := v % 16
def pSlot (v : Nat) : Nat := v / 2 ^ 4 % 2 ^ 12
def pCol (v : Nat) : Nat := v / 2 ^ 16 % 2 ^ 6
def pDelta (v : Nat) : Nat := v / 2 ^ 44 % 2 ^ 16
def pCmd (v : Nat) : Nat := v / 2 ^ 60 % 16

/-- Nothing else of the pump is due in the CK cycle: no knot to tell, no data, no rise of D. -/
def Quiet (p : Pump) (c : Nat) : Prop :=
  (∀ e ∈ p.ended, e.last < c → ∃ d ∈ p.data, d.2.op = e.op) ∧ (∀ d ∈ p.data, c < d.2.due) ∧ ∀ t, p.timer = some t → c < t

/-- The word v of the running program g of a pump is at its offset, and is the row i (R214). -/
def AtWord (s : State) (pump : Nat) (g : Prog) (v : Nat) (i : Instr) : Prop :=
  (s.pump pump).prog = some g ∧ g.phase = .running ∧ Quiet (s.pump pump) s.env.ck ∧ s.progWord g g.next = .ok v ∧
  g.start + g.off + pDelta v ≤ s.env.ck ∧ g.lost = none ∧ decodePump pump v = some i

/-- It passes every check of R211 to R219. -/
def Passes (s : State) (pump : Nat) (g : Prog) (v : Nat) : Prop := s.cmdTrap (s.pump pump) g g.next v s.env.ck = none

/-- The program goes on behind its word; the word has issued in this CK cycle (R214). -/
def GoesOn (s t : State) (pump : Nat) (g : Prog) (v : Nat) : Prop :=
  t.mem = s.mem ∧ (t.pump pump).cmdAt = some s.env.ck ∧
  ∃ g', (t.pump pump).prog = some g' ∧ g'.next = g.next + 1 ∧ g'.off = g.off + pDelta v ∧ g'.slots = g.slots ∧ g'.start = g.start

/-- What a row command does: when the word is at its offset and passes the checks, P holds of the next state. -/
def PumpDoes (mk : Nat → PumpFields → Instr) (P : State → State → Nat → Prog → Nat → Prop) : Prop :=
  ∀ (pump v : Nat) (w : PumpFields) (g : Prog) (s : State), AtWord s pump g v (mk pump w) → Passes s pump g v →
    Next (mk pump w) s (fun t => P s t pump g v)

/-- The history of a channel's banks: bank b changes to x, the others stay. -/
def OnlyBank (h h' : PHist) (b : Nat) (x : PBank) : Prop := h'.bank b = x ∧ ∀ n, n ≠ b → h'.bank n = h.bank n

/-- The LPDDR-5X key of the burst that a RD or WR names (R19, R211). -/
def burstOf (_ : State) (pump : Nat) (g : Prog) (v row : Nat) : Nat :=
  keyL (g.slots.getD (pSlot v) 0 % 2 ^ 23 * 2 ^ 18 + row % 32 * 2 ^ 13 + pCol v * 2 ^ 7 + pump % 4 * 2 ^ 5)

/-- A data item of a pump is under way. -/
def Moving (t : State) (pump : Nat) (d : PData) : Prop := ∃ id, Table.get? (t.pump pump).data id = some d

/-- At least n CK cycles lie behind an earlier command, if there was one. -/
def After (x : Option Nat) (n c : Nat) : Prop := ∀ a, x = some a → a + n ≤ c

/-! ### Links -/

/-- The fields of a flit's header (R296). -/
def hTYPE (f : Flit) : Nat := (f.header.extractLsb' 60 4).toNat
def hDST (f : Flit) : Nat := (f.header.extractLsb' 48 12).toNat
def hSRC (f : Flit) : Nat := (f.header.extractLsb' 36 12).toNat
def hFN (f : Flit) : Nat := (f.header.extractLsb' 29 7).toNat
def hE2E (f : Flit) : Bool := f.header.getLsbD 28
def hLAST (f : Flit) : Bool := f.header.getLsbD 27
def hTID (f : Flit) : Nat := (f.header.extractLsb' 16 11).toNat
def hOFS (f : Flit) : Nat := (f.header.extractLsb' 0 16).toNat

/-- Bits of a payload. -/
def pay (u : BitVec 768) (lo n : Nat) : Nat := (u.extractLsb' lo n).toNat

/-- A port that has accepted one flit more (R297). -/
def received (x : Port) : Port := { x with rxSeq := (x.rxSeq + 1) % 2 ^ 12 }

/-- A flit that passes the checks of R297 and, where the port seals, those of R299, brings u to this module; s1 is the state behind it. -/
def Arrives (s : State) (p : Nat) (f : Flit) (typ : Nat) (u : BitVec 768) (s1 : State) : Prop :=
  let x := s.port p
  x.up = true ∧ x.retry = [] ∧ crcPasses f = true ∧ f.seq.toNat = x.rxSeq ∧ hTYPE f = typ ∧ typ ≤ 9 ∧ hE2E f = false ∧
  (typ = 0 ∨ typ = 9 ∨ hDST f = s.fab.modid) ∧
  ((x.hbh = false ∧ u = f.payload ∧ s1 = s.modPort p received) ∨
   (x.hbh = true ∧ ∃ k, Table.get? x.keys x.epoch = some k ∧ f.auth = k.tag k.rx f.header f.payload ∧ u = k.crypt k.rx f.payload ∧
     s1 = s.modPort p (fun y => { received y with keys := Table.set y.keys y.epoch { k with rx := k.rx + 1 } })))

/-- The port has discarded a flit (R297): it is counted, and an idle flit with NAK and the expected SEQ is in the retry buffer, sealed as
the port seals (R300); `auth` counts AUTHERR too. Nothing else changes. -/
def Discards (s : State) (p : Nat) (auth : Bool) (t : State) : Prop :=
  let x := s.port p
  let y := t.port p
  let nak := fun (n : Flit) => n.nak = true ∧ n.ack = BitVec.ofNat 12 x.rxSeq ∧ n.seq = BitVec.ofNat 12 x.txSeq ∧ hTYPE n = 0 ∧ crcPasses n = true
  t.mem = s.mem ∧ t.ops = s.ops ∧ t.disp = s.disp ∧ t.cores = s.cores ∧ t.fab.txns = s.fab.txns ∧ (∀ q, q ≠ p → t.port q = s.port q) ∧
  y.rxSeq = x.rxSeq ∧ y.up = x.up ∧ y.crcerr = (if x.crcerr < 65535 then x.crcerr + 1 else 65535) ∧
  y.autherr = (if auth then (if x.autherr < 255 then x.autherr + 1 else 255) else x.autherr) ∧
  (x.hbh = false → ∃ n, nak n ∧ n.payload = 0 ∧ y.retry = x.retry ++ [n] ∧ (x.retry.length < 512 → y.sent = n :: x.sent)) ∧
  (∀ k, x.hbh = true → Table.get? x.keys x.epoch = some k → k.tx < 2 ^ 48 → ∃ n, nak n ∧ n.payload = k.crypt k.tx 0 ∧
    n.auth = k.tag k.tx n.header n.payload ∧ y.retry = x.retry ++ [n] ∧ ∃ k', Table.get? y.keys x.epoch = some k' ∧ k'.tx = k.tx + 1)

/-- A flit of this module stands in the retry buffer of port q, sealed by no key. -/
def Queues (t : State) (q typ dst fn tid ofs : Nat) (last : Bool) (u : BitVec 768) : Prop :=
  ∃ g ∈ (t.port q).retry, hTYPE g = typ ∧ hDST g = dst ∧ hSRC g = t.fab.modid % 2 ^ 12 ∧ hFN g = fn ∧ hTID g = tid ∧ hOFS g = ofs ∧
    hLAST g = last ∧ hE2E g = false ∧ g.payload = u

/-- A port has gone down (R405): what was to be resent is gone, its transactions too, and the knots of their operations have left
pending. -/
def GoesDown (s : State) (p : Nat) (t : State) : Prop :=
  (t.port p).up = false ∧ (t.port p).down = true ∧ (t.port p).retry = [] ∧ (t.port p).downAt = s.env.ns ∧
  (∀ x ∈ t.fab.txns, x.2.port = p → x.2.done = true) ∧
  (Table.wf s.ops = true → ∀ x ∈ s.fab.txns, ∀ e, x.2.port = p → x.2.done = false → x.2.kind ≠ .member → s.op? x.2.op = some e →
    (t.strand e.core e.strand).knot e.knot ≠ .pending)

/-- How often a NAK with one SEQ has come in a row (R297). -/
def nakRun (x : Port) (seq : BitVec 12) : Nat := match x.naks with | some (q, k) => if q = seq.toNat then k + 1 else 1 | none => 1

/-- The flits of a function to a module leave unsealed on port q (R304), now and in every era of its keys (R303). -/
def Toward (s : State) (fn dst tid q : Nat) : Prop :=
  s.portFor dst tid = some q ∧ (s.port q).hbh = false ∧ ∀ era, (s.fnFab fn).keyOf dst era = none

/-- A reply with this transaction number is for operation e (R305). -/
def ForTxn (s : State) (f : Flit) (kind : TxnKind) (x : Txn) (e : EngOp) : Prop :=
  Table.get? s.fab.txns (hTID f) = some x ∧ x.peer = hSRC f ∧ x.kind = kind ∧ x.fn = hFN f ∧ s.op? x.op = some e

/-- The COLL o is changed; nothing else is. -/
def setColl (s : State) (o : Nat) (x : Coll) : State := s.modFab (fun y => { y with colls := Table.set y.colls o x })

/-- A COLL ends with a collective fault: its record is written at A + 0x40, or nothing is where a row of R116 forbids a byte of it, and its
knot has become failed (R410). -/
def EndsInRecord (s : State) (o : Nat) (e : EngOp) (x : Coll) (reason : Nat) (lrank : Option Nat) (t : State) : Prop :=
  let a := x.addr + 0x40
  let bad := s.addrBad e.core e.strand false ((a : Nat) : Int) 1088 1
  (bad.isSome = true → KnotLeaves s o e .failed t ∧ t.mem = s.mem) ∧
  ∀ keys, bad = none → Plain s e → LiesAt s e 0 true ((List.range 1088).map (fun i => ((a + i : Nat) : Int))) keys →
    KnotLeaves s o e .failed t ∧ BytesWritten s t keys (fun n => (collRecord x reason lrank).getD n 0)

/-- A COLL has no collective fault to report, and what it has heard of the ranks agrees (R408). -/
def Hale (x : Coll) : Prop := x.fail = none ∧ x.differs = none

/-- A COLL has heard a rank's start (R408): its words, and the axes on which it has a path that is end to end. -/
def heardOf (x : Coll) (rk : Nat) (ws : List Dword) (ends now : Nat) : Coll :=
  { x with saw := Table.set x.saw rk ws, ends := Table.set x.ends rk ends, since := now }

/-- The bytes of one value of the chunks of a step. -/
def valueBytes (x : Coll) (name : Nat) : Nat := ((cStep x.desc (name / 2 ^ 16 % 2 ^ 8)).map (CStep.width x.desc)).getD 1

/-- A status unit: the cause, the status word, the VA. -/
def Status (u : BitVec 768) (cause status va : Nat) : Prop := pay u 0 8 = cause ∧ pay u 8 32 = status ∧ pay u 64 64 = va

/-- A request of another module stands behind those that wait. -/
def queued (s : State) (r : Served) : State := s.modFab (fun y => { y with inq := y.inq ++ [r] })

/-- A failure whose words fit a status unit, and the status unit that tells it: AUX[5] for a translation at this module, not for a shared
page (R271, R279). -/
def InStatus (x : VaFault) : Prop := x.cause < 256 ∧ x.status + 32 < 2 ^ 32 ∧ x.addr < 2 ^ 64
def FaultStatus (w : BitVec 768) (x : VaFault) : Prop :=
  Status w x.cause (x.status + if x.cause = 0x0F then 0 else 32) x.addr ∧ w.getLsbD 40 = x.nr

/-- The bytes of a data unit that begins at byte `at_` of a transfer of n. -/
def unitData (u : BitVec 768) (at_ n : Nat) : List Byte := (List.range (min 96 (n - at_))).map (fun i => u.extractLsb' (8 * i) 8)

/-! ### The host -/

/-- One more is counted in a half of a function's ERRCNT, saturating (R316); nothing else of its function's registers, of memory or of
the tasks changes. -/
def Counts (s : State) (fn : Nat) (hi : Bool) (t : State) : Prop :=
  let lo := if hi then 32 else 0
  let n := (s.fnHost fn).errcnt.extractLsb' lo 32
  (t.fnHost fn).errcnt.extractLsb' lo 32 = (if n = BitVec.allOnes 32 then n else n + 1) ∧
  (t.fnHost fn).errcnt.extractLsb' (32 - lo) 32 = (s.fnHost fn).errcnt.extractLsb' (32 - lo) 32 ∧ t.mem = s.mem ∧ t.disp = s.disp

/-- The record that task port p takes: PRI is p and PARENT is 0, whatever it holds (R247). -/
def portRecord (b : BitVec 1024) (p : Nat) : List Dword :=
  (List.range 16).map (fun i =>
    let w := b.extractLsb' (64 * i) 64
    if i = 3 then w.extractLsb' 13 51 ++ BitVec.ofNat 3 p ++ w.extractLsb' 0 10 else if i = 4 then w.extractLsb' 32 32 ++ 0#32 else w)

/-- NOTIFY of a record. -/
def notifyOf (r : List Dword) : Nat := (r.getD 12 0).toNat

/-- A function's registers are changed; nothing else is. -/
def setHost (s : State) (fn : Nat) (h : FnHost) : State := s.modFnHost fn (fun _ => h)

/-- A loader request of a function has ended (R318): BUSY is 0, LDSTAT and LDRESULT hold the outcome, vector 2 is signalled. -/
def RequestEnds (t : State) (fn cause reason result : Nat) : Prop :=
  let h := t.fnHost fn
  h.busy = false ∧ h.ldreq = [] ∧ h.ldstat = cause + reason * 2 ^ 8 ∧ h.ldresult = BitVec.ofNat 64 result ∧
  t.host.msix.head? = some (fn, 2)

/-- A load request of a function that a die in service can serve. -/
def Loading (s : State) (fn obj len text launch : Nat) : Prop :=
  (s.fnHost fn).ldreq = [obj, len, text, launch] ∧ (s.fnHost fn).busy = true ∧ s.serving ≠ []

/-- The fields of EKCMD (R303). -/
def EkFields (w : Dword) (busy err : Bool) (op peer : Nat) : Prop :=
  w.getLsbD 63 = busy ∧ w.getLsbD 62 = err ∧ w.extractLsb' 16 2 = BitVec.ofNat 2 op ∧ w.extractLsb' 0 12 = BitVec.ofNat 12 peer

/-- A write to the configuration window at an offset makes t of s. -/
def Bar4 (off : Nat) (v : Dword) (s : State) (t : State) : Prop := exec (.registerWrite .bar4 off v) s = .next t
def Bar0 (fn off : Nat) (v : Dword) (s : State) (t : State) : Prop := exec (.registerWrite (.bar0 fn) off v) s = .next t

/-- A host read of a register answers with a dword, and changes nothing else. -/
def Answers (s : State) (w : Window) (off v : Nat) : Prop :=
  takeTurn (.hostRead w off) s = .next { s with host := { s.host with answer := bytesLE 8 v } }

/-- The state with one field of the manifold, the dispatcher or the host interface changed. -/
def fab' (s : State) (f : Fabric) : State := { s with fab := f }
def disp' (s : State) (d : Dispatch) : State := { s with disp := d }
def host' (s : State) (h : HostIf) : State := { s with host := h }

/-- A function's host page has a state, and the function is not being reset. -/
def PageIs (s : State) (fn page : Nat) (x : PageState) : Prop :=
  (s.fnHost fn).resetting = false ∧ Table.get? (s.fnHost fn).pages page = some x

/-- The state with that of a host page changed. -/
def pageTo (s : State) (fn page : Nat) (x : PageState) : State :=
  setHost s fn { s.fnHost fn with pages := Table.set (s.fnHost fn).pages page x }

/-- A host line of a function is on its way (R414). -/
def LineAsked (s : State) (fn line : Nat) : Prop :=
  (s.fnHost fn).resetting = false ∧ Table.get? (s.fnHost fn).reads line = some none

/-- The module after its reset (R322). -/
def ModuleIsReset (s : State) (ok : Bool) (t : State) : Prop :=
  t.mem = s.mem ∧ t.poison = s.poison ∧ t.cores = [] ∧ t.dies = [] ∧
  t.pumps = (if ok then imagePumps s.host.image else []) ∧ t.host.slots = (if ok then imageSlots s.host.image else []) ∧
  t.host.image = s.host.image ∧ t.ops = [] ∧ t.codes = [] ∧ t.gens = [] ∧
  t.disp = {} ∧ t.fab = {} ∧ t.bundle = {} ∧ t.host.fwok = ok ∧ t.host.recover = (!ok) ∧ t.host.redclk = true ∧ t.host.fns = [] ∧
  t.host.ptroot = [] ∧ t.host.flash = s.host.flash ∧ t.env.ck = 0

/-- A die that is off or testing (R323). -/
def Waits (s : State) (d : Nat) : Prop := (s.die d).state = .off ∨ (s.die d).state = .testing

/-! ### Steps, words, checks -/

/-- A core whose next cycle does nothing but issue the bundle of strand k: nothing is due, k is current and at a bundle, no other strand
lives, no access waits for a fill of its regions (R273). -/
def QuietCore (c k : Nat) (s : State) : Prop :=
  c < 256 ∧ k < 4 ∧ (s.core c).todo = [] ∧ (s.core c).issue.cur = k ∧ (s.core c).issue.handOver = false ∧
  (∀ j, j < 4 → j ≠ k → (s.strand c j).live = false) ∧ (s.strand c k).atBundle = true ∧
  ∀ r ∈ (s.strand c k).regions, r.2.line = []

/-- The sixteen words of the strand's next bundle: 64 bytes of its code object on its die, with no poison in memory (R58, R284). -/
def FetchesWords (c k : Nat) (ws : List Word) (s : State) : Prop :=
  ∃ o, Table.get? s.codes (s.strand c k).place.code = some o ∧ (s.strand c k).ctx.pc < o.nb ∧ s.poison = [] ∧
    (Table.get? o.pages (dieOf c)).isSome = true ∧ (s.die (dieOf c)).badText.contains (o.textPage (dieOf c) (s.strand c k).ctx.pc) = false ∧
    ws = wordsOfNat (ofBytes (s.bytes (keyW (dieOf c) (o.textW (dieOf c) (s.strand c k).ctx.pc)) 64))

/-- What a core cycle does after the bundle: what is due at its end, the strands' boundaries, the cycle's end. -/
def afterIssue (c k : Nat) (kernel : Bool) (s : State) : Host.Outcome State Fault Refusal :=
  andThen (runDue c true dueFuel s) (fun s1 =>
    andThen (eachStrand (boundary c (if kernel then [k] else [])) [0, 1, 2, 3] s1) (fun s2 => .next (s2.endCycle c)))

/-- The state in which a cycle of core c meets the bundle of strand k. -/
def atCycle (c : Nat) (s : State) : State := s.modBundle (fun _ => { core := c })

/-- A source specifier. -/
def src (q o p : Nat) : Src := { qsel := BitVec.ofNat 5 q, off := BitVec.ofNat 5 o, pop := BitVec.ofNat 3 p }

/-- The fields of a syllable. -/
def fieldsOf (dst : Nat) (a b c : Src) (mod : Nat) : Fields :=
  { dst := BitVec.ofNat 5 dst, a := a, b := b, c := c, mod := BitVec.ofNat 10 mod }

/-- Sixteen words: those given, then zeros. -/
def words16 (ws : List Nat) : List Word := (ws ++ List.replicate (16 - ws.length) 0).map (BitVec.ofNat 32)

/-- The syllables that the words hold, or their refusal. -/
def sylsIn (ws : List Nat) : Option (List (Option Instr)) :=
  match decodeBundle (words16 ws) with
  | .ok b => some (b.syls.map Syl.instr)
  | .error _ => none

/-- An undefined opcode of a slot (R68). -/
def Undefined (sl : Slot) (v : Nat) : Prop := decodeSyllable sl v = none

/-- The bundle that holds one syllable of a slot by its 64 bits. -/
def rawBundle (sl : Slot) (v : Nat) : Bundle := { yield := false, syls := [{ slot := sl, raw := v, instr := decodeSyllable sl v }] }

/-- The uses of a bundle of one syllable. -/
def blockAlone (i : Instr) (s : State) : Option Nat := s.blockedBy (C s) (K s) (usesAlone i)

/-- The trace after n further entries. -/
def recorded (cls k : Nat) : List (Dword × Dword) → Trace → Trace
  | [], t => t
  | e :: es, t => recorded cls k es (t.record cls k e.1 e.2)

/-- Whether an armed word fires on an entry of a class and a strand (R328): the class and the strand are enabled in it, and payload bits
34:0 match bits 34:0 unless bit 35 (ANY) is set. -/
def fires (w : Dword) (cls k : Nat) (d1 : Dword) : Bool :=
  w.getLsbD (40 + cls) && w.getLsbD (36 + k) && (w.getLsbD 35 || w.extractLsb' 0 35 == d1.extractLsb' 0 35)

end Sys2Proof.Claims

open Sys2Proof Sys2Proof.Machine Sys2Proof.Claims

/-- R90 with the tags of R89 and the latencies of R87. -/
def Obligations.IntegerArithmeticAppendsItsResult : Prop :=
  ∀ (w64 : Bool) (f : Fields), let n := width w64
    Appends64 (.add w64 f) f 1 (tagS w64) (fun s => narrowed n f ((An n f s).toInt + (Bn n f s).toInt)) ∧
    Appends64 (.sub w64 f) f 1 (tagS w64) (fun s => narrowed n f ((An n f s).toInt - (Bn n f s).toInt)) ∧
    Appends64 (.mul w64 f) f 3 (tagS w64) (fun s => narrowed n f ((An n f s).toInt * (Bn n f s).toInt)) ∧
    Appends64 (.mulhs w64 f) f 3 (tagS w64) (fun s =>
      (BitVec.ofInt n ((An n f s).toInt * (Bn n f s).toInt / 2 ^ n)).signExtend 64) ∧
    Appends64 (.mulhu w64 f) f 3 (tagU w64) (fun s =>
      (BitVec.ofNat n ((An n f s).toNat * (Bn n f s).toNat / 2 ^ n)).setWidth 64) ∧
    Appends64 (.shl w64 f) f 1 (fun s => if isRaw (s.opd f.a) then 0 else tagS w64 s) (fun s =>
      (An n f s <<< ((Bn n f s).toNat % n)).signExtend 64) ∧
    Appends64 (.shr w64 f) f 1 (fun s => if isRaw (s.opd f.a) then 0 else tagU w64 s) (fun s =>
      (An n f s >>> ((Bn n f s).toNat % n)).setWidth 64) ∧
    Appends64 (.sar w64 f) f 1 (fun s => if isRaw (s.opd f.a) then 0 else tagS w64 s) (fun s =>
      ((An n f s).sshiftRight ((Bn n f s).toNat % n)).signExtend 64)

/-- R91, with the divider of R87 and the trap of a zero divisor. -/
def Obligations.DivisionAppendsItsResultAndTrapsOnZero : Prop :=
  ∀ (w64 : Bool) (f : Fields), let n := width w64; let o := if w64 then 1 else 0
    Does (.div w64 f) (divided w64 (0x1A + o) f (tagS w64) (fun s =>
      (if Bn n f s = 0 then BitVec.allOnes n else (An n f s).sdiv (Bn n f s)).signExtend 64)) ∧
    Does (.rem w64 f) (divided w64 (0x1E + o) f (tagS w64) (fun s =>
      (if Bn n f s = 0 then An n f s else (An n f s).srem (Bn n f s)).signExtend 64)) ∧
    Does (.divu w64 f) (divided w64 (0x1C + o) f (tagU w64) (fun s =>
      (if Bn n f s = 0 then BitVec.allOnes n else An n f s / Bn n f s).setWidth 64)) ∧
    Does (.remu w64 f) (divided w64 (0x20 + o) f (tagU w64) (fun s =>
      (if Bn n f s = 0 then An n f s else An n f s % Bn n f s).setWidth 64))

/-- R92, R93, R94 with the tags of R89; NOP and DROP change nothing beside the pops of their bundle. -/
def Obligations.LogicMovesAndComparesDoAsTheirRules : Prop :=
  ∀ (f : Fields),
    Appends64 (.and f) f 1 (fun s => sharedOrRaw (s.opd f.a) (s.opd f.b)) (fun s => A64 f s &&& B64 f s) ∧
    Appends64 (.or f) f 1 (fun s => sharedOrRaw (s.opd f.a) (s.opd f.b)) (fun s => A64 f s ||| B64 f s) ∧
    Appends64 (.xor f) f 1 (fun s => sharedOrRaw (s.opd f.a) (s.opd f.b)) (fun s => A64 f s ^^^ B64 f s) ∧
    Appends64 (.andn f) f 1 (fun s => sharedOrRaw (s.opd f.a) (s.opd f.b)) (fun s => A64 f s &&& ~~~(B64 f s)) ∧
    Appends64 (.min f) f 1 (fun _ => 4) (fun s => if (A64 f s).sle (B64 f s) then A64 f s else B64 f s) ∧
    Appends64 (.max f) f 1 (fun _ => 4) (fun s => if (A64 f s).sle (B64 f s) then B64 f s else A64 f s) ∧
    Appends64 (.minu f) f 1 (fun _ => 8) (fun s => if (A64 f s).ule (B64 f s) then A64 f s else B64 f s) ∧
    Appends64 (.maxu f) f 1 (fun _ => 8) (fun s => if (A64 f s).ule (B64 f s) then B64 f s else A64 f s) ∧
    Appends64 (.clz f) f 1 (fun _ => 4) (fun s => (A64 f s).clz) ∧
    Appends64 (.popc f) f 1 (fun _ => 4) (fun s => (A64 f s).cpop) ∧
    Appends64 (.sext f) f 1 (fun _ => 1 + f.m 3 2) (fun s => (An (8 * 2 ^ f.m 3 2) f s).signExtend 64) ∧
    Appends64 (.zext f) f 1 (fun _ => 5 + f.m 3 2) (fun s => (An (8 * 2 ^ f.m 3 2) f s).setWidth 64) ∧
    Appends64 (.li f) f 1 (fun s => tagOf (s.opd f.a)) (A64 f) ∧
    Appends64 (.movq f) f 1 (fun s => tagOf (s.opd f.a)) (A64 f) ∧
    Does (.dup f) (fun s u =>
      u = Nat.repeat (fun (t : State) => t.appendTo f.dst.toNat (tagOf (s.opd f.a)) ((A64 f s).setWidth 2048) 1) (f.m 3 5 + 1) s) ∧
    Appends64 (.qlen f) f 1 (fun _ => 8) (fun s =>
      let n := f.m 3 5
      let q := s.me.queue n
      BitVec.ofNat 64 (if n < 16 ∧ q.gsrc = true then 2 ^ q.gtlog - q.gcred else ((s.core s.bundle.core).win s.bundle.strand n).occ)) ∧
    Appends64 (.sel f) f 1 (fun s => tagOf (if s.me.ctx.cond (CB f) then s.opd f.a else s.opd f.b)) (fun s =>
      if s.me.ctx.cond (CB f) then A64 f s else B64 f s) ∧
    (∀ cc, Does (.cmp cc f) (fun s u =>
      u = s.modCtx s.bundle.core s.bundle.strand (fun x => x.setCond (CB f) (compares cc (A64 f s) (B64 f s))))) ∧
    Does (.nop f) (fun s u => u = s) ∧ Does (.drop f) (fun s u => u = s)

/-- R96, R97: PTG prepares a target; BR, BRC, CALL and RET set the continuation of their bundle. -/
def Obligations.TransfersSetTheContinuation : Prop :=
  ∀ (f : Fields),
    Does (.ptg f) (fun s u =>
      let v := keptIndex (if f.mod.getLsbD 3 then s.me.ctx.pc + (A64 f s).toInt else (A64 f s).toNat)
      u = s.modCtx s.bundle.core s.bundle.strand (fun x => { x with bt := Table.set x.bt (BT f) v })) ∧
    Does (.br f) (fun s u => ContinuesAt (s.me.bt (BT f)) s u) ∧
    Does (.brc f) (fun s u =>
      ContinuesAt (if s.me.ctx.cond (CB f) = f.mod.getLsbD 4 then s.me.bt (BT f) else (s.me.ctx.pc + 3) % 2 ^ 30) s u) ∧
    Does (.call f) (fun s u =>
      ContinuesAt (s.me.bt (BT f)) (s.appendTo f.dst.toNat 8 (BitVec.ofNat 2048 ((s.me.ctx.pc + 3) % 2 ^ 64)) 1) u) ∧
    Does (.ret f) (fun s u => ContinuesAt (keptIndex (A64 f s).toNat) s u)

/-- R100, R101, R369: the four forms of LOOP by their trip counts, and LEND. -/
def Obligations.LoopsPushAndPopTheLoopStack : Prop :=
  ∀ (f : Fields),
    Does (.loop f) (fun s u => Loops f (A64 f s).toNat s u) ∧
    Does (.loopTask f) (fun s u =>
      Loops f (if f.m 5 3 < s.me.place.ndim then s.me.place.extents.getD (f.m 5 3) 1 else 1) s u) ∧
    Does (.loopSp f) (fun s u => ∀ n, s.me.flow.shape = some (1, n) → Loops f n s u) ∧
    Does (.loopSw f) (fun s u => ∀ n, s.me.flow.shape = some (1, n) → Loops f n s u) ∧
    Does (.lend f) (fun s u => ∀ n, s.me.loopTop = some n →
      (∀ j, j ≠ n → u.me.lse j = s.me.lse j) ∧ u.mem = s.mem ∧ u.me.queues = s.me.queues ∧
      (if lseRem (s.me.lse n) ≤ 1 then
        u.me.lse n = 0 ∧ u.bundle.target = some ((s.me.ctx.pc + 3) % 2 ^ 30)
      else
        u.me.lse n = lseWord (lseK (s.me.lse n)) (lseIter (s.me.lse n) + 1) (lseRem (s.me.lse n) - 1) ∧
        u.bundle.target = some (s.me.bt (BT f))))

/-- R102, R104, R105, R106, R112, R113, R114: votes, knot tests, waits, phases, triggers and ends. -/
def Obligations.VotesWaitsPhasesAndEnds : Prop :=
  ∀ (f : Fields),
    Does (.vany f) (Votes f (fun s => (A64 f s).setWidth (voteWidth f) != 0)) ∧
    Does (.vall f) (Votes f (fun s => (A64 f s).setWidth (voteWidth f) == BitVec.allOnes (voteWidth f))) ∧
    Does (.ktest f) (fun s u =>
      u = s.modCtx s.bundle.core s.bundle.strand (fun x => x.setCond (CB f) (s.me.knot (KN f) != .pending))) ∧
    Does (.kwait f) (fun s u => FlowOnly (fun x => { x with wait := .knot (KN f) (A64 f s).toNat, waited := 0 }) s u) ∧
    Does (.qwait f) (fun s u =>
      FlowOnly (fun x => { x with wait := .queue f.a.qsel.toNat f.a.off.toNat (B64 f s).toNat, waited := 0 }) s u) ∧
    Does (.phase f) (FlowOnly (fun x => { x with phases := x.phases ++ [x.bno], wait := .phase, waited := 0 })) ∧
    Does (.trig f) (FlowOnly (fun x => { x with trig := some (x.trig.getD x.bno) })) ∧
    Does (.endStrand f) (fun s u => u.me.flow.life = .ending ∧ u.me.ctx = s.me.ctx ∧ u.me.queues = s.me.queues ∧ u.mem = s.mem ∧
      ∀ g, u.task? s.myTask = some g → g.request = none)

/-- R111: SRD appends the register its number names; what it reads of ROWMAX is R163's, and zero for a strand without the row. -/
def Obligations.SrdReadsEveryListedRegister : Prop :=
  ∀ (f : Fields),
    (∀ p ∈ sregs, f.mod.toNat = p.1 → Appends64 (.srd f) f 2 (fun _ => 8) (fun s => BitVec.ofNat 64 (p.2 s))) ∧
    (f.mod.toNat = 0x007 → Appends64 (.srd f) f 2 (fun _ => 8) (fun s =>
      let r := (s.core s.bundle.core).row
      if s.me.place.mallot.testBit 36 then BitVec.ofNat 64 (r.rmx + r.rmxp * 2 ^ 32) else 0))

/-- R111: SWR writes the writable bits of its register, and SRD of any other register reads what it read before. NRES takes the value as
its bundle retires: it counts from the next bundle. -/
def Obligations.SwrWritesItsRegisterAndNoOther : Prop :=
  ∀ (f : Fields), ∀ m ∈ sregMasks, f.mod.toNat = m.1 →
    Does (.swr f) (fun s u =>
      (∀ p ∈ sregs, p.2 u = if p.1 = m.1 ∧ m.1 ≠ 0x00C then ((A64 f s) &&& BitVec.ofNat 64 m.2).toNat else p.2 s) ∧
      (m.1 = 0x00C → u.bundle.nres = some (A64 f s &&& BitVec.ofNat 64 m.2) ∧
        ∀ us, (u.retireBundle (C s) (K s) us).me.nres = A64 f s &&& BitVec.ofNat 64 m.2) ∧
      u.mem = s.mem ∧ u.me.queues = s.me.queues ∧ (m.1 < 0x020 ∨ 0x040 ≤ m.1 → SameOutsideCore s u))

/-- R116, R118, R119, R120, R123, R393: the P loads. LDPS takes no TAG but those of I and IEEE formats (R71 refuses the others). The 4
cycles of an LDPS of n = 0 are the model's choice (log 15: the formula of R123 gives 3), and so is that a P load takes its bytes at issue
(log 7). -/
def Obligations.ScratchpadLoadsAppendTheBytesRead : Prop :=
  ∀ (f : Fields),
    LoadsP (.ldp f) f (fun _ => 4) (fun s v =>
      v = extended s (TAG f) (ofBytes ((List.range (tagBytes (TAG f))).map (fun j => pByte s (ea f s + j))))) ∧
    LoadsP (.ldpv f) f (fun _ => 4) (fun s v => ∀ j, j < 256 →
      byteOf v j = if j < (if TAG f = 0x0D then 8 else 256) then pByte s (ea f s + j) else 0) ∧
    LoadsP (.ldps f) f
      (fun s => 4 + (ceilDiv (min (s.opd f.c).u (2048 / s.me.laneBits (TAG f))) 16 - 1))
      (fun s v => let z := tagBytes (TAG f); tI (TAG f) = true ∨ tIeee (TAG f) = true → ∀ i j, j < z → i < 2048 / (8 * z) →
        byteOf v (i * z + j) = if i < (A64 { f with a := f.c } s).toNat then
          pByte s (((A64 f s).toNat + i * (B64 f s).toInt).toNat + j) else 0)

/-- R118, R119, R121, R123, R385: the W loads. -/
def Obligations.VaultLoadsReserveAndTouchEveryGranule : Prop :=
  ∀ (f : Fields),
    LoadsW (.ldw f) f (fun s gs => slowest (fun a => 14 + s.mesh (C s) a 4) gs) ∧
    LoadsW (.ldwv f) f (fun s gs => slowest (fun a => 14 + s.mesh (C s) a 4) gs) ∧
    LoadsW (.ldwg f) f (fun s gs => slowest (fun a => 14 + s.mesh (C s) a 4) gs + (ceilDiv gs.length 8 - 1))

/-- R116, R118, R119, R122, R123, R273: the stores write nothing at issue; where and what they will write. -/
def Obligations.StoresAreInFlightUntilPerformed : Prop :=
  ∀ (f : Fields),
    Does (.stp f) (fun s u => StoresCells false (cellsAt (keyP (C s) (ea f s)) (scalarBytes f s)) 2 s u) ∧
    Does (.stw f) (fun s u =>
      StoresCells true (cellsAt (keyW (dieOf (C s)) (ea f s)) (scalarBytes f s)) (8 + s.mesh (C s) (ea f s) 2) s u) ∧
    Does (.stpv f) (fun s u => StoresCells false (cellsAt (keyP (C s) (ea f s)) (vectorBytes f s)) 2 s u) ∧
    Does (.stwv f) (fun s u =>
      StoresCells true (cellsAt (keyW (dieOf (C s)) (ea f s)) (vectorBytes f s)) (8 + s.mesh (C s) (ea f s) 2) s u) ∧
    Does (.stwx f) (fun s u =>
      let o := s.opd f.c
      let w := s.me.laneBits o.tag
      let xs := (indexLanes (s.opd f.b)).take (2048 / w)
      let gs := (s.memAccess .w (.stwx f) f).2.granules
      StoresCells true ((List.range xs.length).flatMap (fun i =>
          cellsAt (keyW (dieOf (C s)) ((A64 f s).toNat + xs.getD i 0).toNat) (bytesLE (tagBytes o.tag) (fld o.val (w * i) w))))
        (slowest (fun a => 8 + s.mesh (C s) a 2) gs + (ceilDiv gs.length 8 - 1)) s u)

/-- R135 with the latencies of R127: the integer lanes. -/
def Obligations.IntegerLanesFollowTheirRule : Prop :=
  ∀ (t : ITy) (f : Fields), let w := iw t; let ty : State → Nat := fun _ => ityTag t
    let logic : State → Nat := fun s => if isRaw (s.opd f.a) || isRaw (s.opd f.b) then 0 else ityTag t
    IntLanes (.iadd t f) t f 2 ty (fun s j => fitted t f (asInt t (La w f s j) + asInt t (Lb w f s j))) ∧
    IntLanes (.isub t f) t f 2 ty (fun s j => fitted t f (asInt t (La w f s j) - asInt t (Lb w f s j))) ∧
    IntLanes (.imul t f) t f 4 ty (fun s j => fitted t f (asInt t (La w f s j) * asInt t (Lb w f s j))) ∧
    IntLanes (.imad t f) t f 4 ty (fun s j => fitted t f (asInt t (La w f s j) * asInt t (Lb w f s j) + asInt t (Lc w f s j))) ∧
    IntLanes (.imulh t f) t f 4 ty (fun s j => BitVec.ofInt w (asInt t (La w f s j) * asInt t (Lb w f s j) / 2 ^ w)) ∧
    IntLanes (.iand t f) t f 2 logic (fun s j => La w f s j &&& Lb w f s j) ∧
    IntLanes (.ior t f) t f 2 logic (fun s j => La w f s j ||| Lb w f s j) ∧
    IntLanes (.ixor t f) t f 2 logic (fun s j => La w f s j ^^^ Lb w f s j) ∧
    IntLanes (.ishl t f) t f 2 ty (fun s j => La w f s j <<< ((Lb w f s j).toNat % w)) ∧
    IntLanes (.ishr t f) t f 2 ty (fun s j => La w f s j >>> ((Lb w f s j).toNat % w)) ∧
    IntLanes (.isar t f) t f 2 ty (fun s j => (La w f s j).sshiftRight ((Lb w f s j).toNat % w)) ∧
    IntLanes (.imin t f) t f 2 ty (fun s j => if asInt t (La w f s j) ≤ asInt t (Lb w f s j) then La w f s j else Lb w f s j) ∧
    IntLanes (.imax t f) t f 2 ty (fun s j => if asInt t (La w f s j) ≤ asInt t (Lb w f s j) then Lb w f s j else La w f s j)

/-- R128 with the latencies of R127: each lane is formed exactly and rounded once. The lane functions are those of the model; of sums and
products it is stated that they are exact, of quotients and roots that they are the exact ones rounded by the mode as R43 says, and of the
powers and logarithms the exact cases and the specials of R128's table: that their other results are correctly rounded rests on a 640-bit
evaluation, which is the model's choice (log 45), and is not stated. -/
def Obligations.FloatingPointLanesRoundOnce : Prop :=
  ExactSums ∧ (∀ t, Quotients (FFmt.ieee t) ∧ Roots (FFmt.ieee t) ∧ PowersAndLogarithms (FFmt.ieee t)) ∧
  ∀ (t : FFmt) (f : Fields), let slow : Nat → Nat → Nat := fun a b => if t = .f64 then b else a
    FpLanes (.fadd t f) t f 4 (fun s j => rounded t f (sumX (RMof f) [va t f s j, vb t f s j])) ∧
    FpLanes (.fsub t f) t f 4 (fun s j => rounded t f (sumX (RMof f) [va t f s j, (vb t f s j).neg])) ∧
    FpLanes (.fmul t f) t f 4 (fun s j => rounded t f (mulX (va t f s j) (vb t f s j))) ∧
    FpLanes (.ffma t f) t f 4 (fun s j => rounded t f (sumX (RMof f) [mulX (va t f s j) (vb t f s j), vc t f s j])) ∧
    FpLanes (.ffms t f) t f 4 (fun s j => rounded t f (sumX (RMof f) [mulX (va t f s j) (vb t f s j), (vc t f s j).neg])) ∧
    FpLanes (.fnma t f) t f 4 (fun s j => rounded t f (sumX (RMof f) [(mulX (va t f s j) (vb t f s j)).neg, vc t f s j])) ∧
    FpLanes (.fdiv t f) t f (slow 12 20) (fun s j => divX (FFmt.ieee t) (RMof f) (va t f s j) (vb t f s j)) ∧
    FpLanes (.fsqrt t f) t f (slow 12 20) (fun s j => sqrtX (FFmt.ieee t) (RMof f) (va t f s j)) ∧
    FpLanes (.frcp t f) t f (slow 8 16) (fun s j => divX (FFmt.ieee t) (RMof f) (.fin false 1 0) (va t f s j)) ∧
    FpLanes (.frsq t f) t f (slow 8 16) (fun s j => rsqrtX (FFmt.ieee t) (RMof f) (va t f s j)) ∧
    FpLanes (.fexp2 t f) t f (slow 10 18) (fun s j => exp2X (FFmt.ieee t) (RMof f) (va t f s j)) ∧
    FpLanes (.flog2 t f) t f (slow 10 18) (fun s j => log2X (FFmt.ieee t) (RMof f) (va t f s j))

/-- R129, R131, R132, R133: minima and maxima, sign operations, compares, classes and masks. -/
def Obligations.SignsComparesClassesAndMasks : Prop :=
  (∀ (t : FFmt) (f : Fields),
    FpLanes (.fmin t f) t f 2 (fun s j => minBits (FFmt.ieee t) (La (fw t) f s j).toNat (Lb (fw t) f s j).toNat) ∧
    FpLanes (.fmax t f) t f 2 (fun s j => maxBits (FFmt.ieee t) (La (fw t) f s j).toNat (Lb (fw t) f s j).toNat) ∧
    AppendsLanes (.fabs t f) f 2 (fun _ => fmtTag t) (fun _ => fw t) (fun _ => 2048 / fw t)
      (fun s j => La (fw t) f s j &&& ~~~(BitVec.intMin (fw t))) ∧
    AppendsLanes (.fneg t f) f 2 (fun _ => fmtTag t) (fun _ => fw t) (fun _ => 2048 / fw t)
      (fun s j => La (fw t) f s j ^^^ BitVec.intMin (fw t)) ∧
    AppendsMask (.fcmp t f) f (fun s => maskBit (2048 / fw t) (fun j => fcmpHolds (f.m 3 4) (va t f s j) (vb t f s j))) ∧
    AppendsLanes (.fclass t f) f 2 (fun _ => if t = .f64 then 8 else if t = .f32 then 7 else 6) (fun _ => fw t)
      (fun _ => 2048 / fw t) (fun s j => BitVec.twoPow (fw t) (classBit (FFmt.ieee t) (La (fw t) f s j).toNat))) ∧
  (∀ (t : ITy) (f : Fields),
    AppendsMask (.icmp t f) f (fun s => maskBit (2048 / iw t) (fun j =>
      icmpHolds (f.m 3 4) (asInt t (La (iw t) f s j)) (asInt t (Lb (iw t) f s j))))) ∧
  (∀ (f : Fields),
    AppendsMask (.mand f) f (fun s j => (A64 f s).getLsbD j && (B64 f s).getLsbD j) ∧
    AppendsMask (.mor f) f (fun s j => (A64 f s).getLsbD j || (B64 f s).getLsbD j) ∧
    AppendsMask (.mnot f) f (fun s j => !(A64 f s).getLsbD j) ∧
    Appends64 (.mpopc f) f 2 (fun _ => 8) (fun s => (A64 f s).cpop))

/-- R136, R137, R138: conversions, packing and unpacking. -/
def Obligations.ConversionsPackAndUnpack : Prop :=
  ∀ (f : Fields),
    AppendsLanes (.cvt f) f 3 (fun _ => f.m 3 6) (fun _ => tagLane true (f.m 3 6)) (fun _ => 2048 / tagLane true (f.m 3 6)) (fun s j =>
      let t := (s.opd f.a).tag
      if j < ln s t then BitVec.ofNat _ (convert (s.me.fd (t - 0x10)) t (f.m 3 6) (RMof f) (f.mod.getLsbD 2) (numA f t s j)) else 0) ∧
    AppendsTagLanes (.cvtn f) f 3 (fun _ => 0x10 + f.m 3 4) (fun s j =>
      let t := (s.opd f.a).tag
      if j < ln s t then NarrowFmt.cvtn (NarrowFmt.ofImage (s.me.fd (f.m 3 4))) (RMof f) (elemValue (s.me.fd (t - 0x10)) t (numA f t s j))
      else 0) ∧
    AppendsLanes (.pack f) f 3 (fun s => halfTag (f.mod.getLsbD 4) (shared f s)) (fun s => tagLane true (shared f s) / 2)
      (fun s => 2 * (2048 / tagLane true (shared f s))) (fun s j =>
        let g := shared f s
        let w := tagLane true g
        let n := 2048 / w
        BitVec.ofNat _ (convert 0 g (halfTag (f.mod.getLsbD 4) g) .rne (f.mod.getLsbD 3)
          (if j < n then La w f s j else Lb w f s (j - n)).toNat)) ∧
    AppendsLanes (.unpack f) f 3 (fun s => wideTag (s.opd f.a).tag) (fun s => 2 * tagLane true (s.opd f.a).tag)
      (fun s => 2048 / tagLane true (s.opd f.a).tag / 2) (fun s j =>
        let t := (s.opd f.a).tag
        let w := tagLane true t
        BitVec.ofNat _ (convert 0 t (wideTag t) .rne false (La w f s (f.m 3 1 * (2048 / w / 2) + j)).toNat))

/-- R134, R139, R140, R141: data movement. -/
def Obligations.DataMovementMovesLanes : Prop :=
  ∀ (f : Fields), let ta : State → Nat := fun s => (s.opd f.a).tag
    AppendsTagLanes (.vsel f) f 2 (shared f) (fun s j =>
      if maskLane (s.opd f.c).u (ln s (shared f s)) j then numA f (shared f s) s j else numB f (shared f s) s j) ∧
    AppendsTagLanes (.vperm f) f 2 ta (fun s j => numA f (ta s) s (numB f (ta s) s j % ln s (ta s))) ∧
    AppendsTagLanes (.vrot f) f 2 ta (fun s j => numA f (ta s) s ((j + (B64 f s).toNat) % ln s (ta s))) ∧
    AppendsTagLanes (.vins f) f 2 ta (fun s j =>
      if j = (B64 f s).toNat % ln s (ta s) then (s.opd f.c).u else numA f (ta s) s j) ∧
    AppendsTagLanes (.vshuf f) f 2 (shared f) (fun s j =>
      let g := shared f s
      let h := ln s g / 2
      match f.m 3 2 with
      | 0 => if j % 2 = 0 then numA f g s (j / 2) else numB f g s (j / 2)
      | 1 => if j % 2 = 0 then numA f g s (h + j / 2) else numB f g s (h + j / 2)
      | 2 => if j < h then numA f g s (2 * j) else numB f g s (2 * (j - h))
      | _ => if j < h then numA f g s (2 * j + 1) else numB f g s (2 * (j - h) + 1)) ∧
    Does (.vext f) (fun s u => u = s.appendTo f.dst.toNat (ta s)
      (BitVec.ofNat 2048 (extendElem (lw s (ta s) == 8) (ta s) (numA f (ta s) s ((B64 f s).toNat % ln s (ta s))))) 2) ∧
    Does (.vbcast f) (fun s u =>
      let o := s.opd f.a
      let t := if o.lit then 4 else o.tag
      let vec := !f.a.isLit && ((s.core (C s)).win (K s) f.a.qsel.toNat).wide
      let w := if vec || t ≠ 0 then lw s t else 64
      (t = 0x0D → u = s.appendTo f.dst.toNat 0x0D ((A64 f s).setWidth 2048) 2) ∧
      (t ≠ 0x0D → ∃ v, u = s.appendTo f.dst.toNat t v 2 ∧
        ∀ j, j < 2048 / w → laneAt w v j = if vec then La w f s (f.m 1 9 % (2048 / w)) else BitVec.ofNat w o.val))

/-- R54, R55, R142, R143 with R41: the reductions over the fixed tree, and the inclusive prefix. That lane 0 of a floating-point prefix gives
a NaN in the canonical pattern is R41's rule for every operation that is no move (log 44). A reduction of a literal is left out. -/
def Obligations.ReductionsAndScans : Prop :=
  ∀ (f : Fields),
    Reduces (.vrsum f) f .sum ∧ Reduces (.vrmax f) f .max ∧ Reduces (.vrmin f) f .min ∧
    AppendsTagLanes (.vscan f) f 8 (fun s => (s.opd f.a).tag) (fun s j =>
      let t := (s.opd f.a).tag
      let op := match f.m 3 2 with | 0 => RedOp.sum | 1 => .max | _ => .min
      if tIeee t then
        let g := ieeeOf (nodeTag t)
        let y := prefixAt (fpNode op g (RMof f)) (fun i => g.quiet (nodeOf f s i)) j
        if nodeTag t = t then y else (ieeeOf t).round (RMof f) (fp32.value y)
      else fitTag t (f.mod.getLsbD 2) (prefixAt (intNode op) (fun i => (elemValue 0 t (numA f t s i)).smant) j))

/-- R147 to R152, R155: what the M syllables do at issue. The cycles in which the granules of MMA's B and of MACCL are touched (from the next
cycle on, mmaRate and four a cycle) are the model's choice (log 23); R385 leaves them to the unit's schedule. -/
def Obligations.MatrixSyllablesAtIssue : Prop :=
  ∀ (v : MUnit) (f : Fields),
    (∀ t, StartsMma (.mma v t f) v t false f) ∧ (∀ t, StartsMma (.mmaz v t f) v t true f) ∧
    Does (.mzero v f) (fun s u => u.mem = s.mem ∧ ∃ id eff, MatInFlight v f (.zero (f.mod.getLsbD 6)) id s u ∧
      (s.core (C s)).cyc + 2 ≤ eff ∧ isDue u (C s) eff (K s) true (.tileWrite (C s) id false)) ∧
    Does (.maccl v f) (fun s u =>
      let e := (A64 f s).toNat
      let r := if f.mod.getLsbD 6 then 64 else 32
      let cyc := (s.core (C s)).cyc
      u.mem = s.mem ∧ ((u.core (C s)).unit (U v)).pathFree = cyc + r ∧
      ∃ id, MatInFlight v f (.maccl (f.mod.getLsbD 6) e) id s u ∧
        isDue u (C s) (cyc + 1 + r + (14 + s.mesh (C s) e 4)) (K s) true (.macclComplete (C s) id) ∧
        MatTouches (.maccl (U v) id) 4 ((List.range (4 * r)).map (fun i => e / 64 + i)) s u) ∧
    Does (.maccs v f) (fun s u =>
      let e := (A64 f s).toNat
      let r := if (theTile v f s).f64 then 64 else 32
      StoresCells true (cellsAt (keyW (dieOf (C s)) e) (theTile v f s).bytes) (1 + r + (8 + s.mesh (C s) e 2)) s u ∧
      Table.getD ((u.core (C s)).unit (U v)).reads (tileNo f) 0 = Table.getD ((s.core (C s)).unit (U v)).reads (tileNo f) 0 + 1) ∧
    Does (.mdrain v f) (fun s u =>
      let t := theTile v f s
      let q := 2 * U v + f.m 6 1
      let m := (s.core (C s)).mq q
      let cyc := (s.core (C s)).cyc
      u.mem = s.mem ∧ ((u.core (C s)).mq q).tail = (m.tail + 32) % 128 ∧
      ∀ i, i < 32 → ∃ id p, Table.get? (u.core (C s)).flight.pends id = some p ∧ p.q = 16 + q ∧ p.idx = (m.tail + i) % 64 ∧ p.graft = false ∧
        p.tag = (if t.f64 then 0x0C else 0x0B) ∧
        (∀ j, j < (if t.f64 then 32 else 64) → p.val.toNat / 2 ^ (t.bits * j) % 2 ^ t.bits =
          t.elem i (if t.f64 then 32 * f.m 7 1 + j else j) % 2 ^ t.bits) ∧
        isDue u (C s) (cyc + 4 + i) (K s) false (.slotWrite (C s) id)) ∧
    Does (.mfmt v f) (fun s u => theTile v f u = { theTile v f s with mfmt := (A64 f s).toNat } ∧ u.mem = s.mem ∧
      ∀ x, x ≠ tileNo f → ((u.core (C s)).unit (U v)).tile x = ((s.core (C s)).unit (U v)).tile x)

/-- R53, R151, R152: what a tile holds once a ready operation takes effect; every other tile of the unit, and memory, as before. -/
def Obligations.TileEffectsAreTheSpecifiedSums : Prop :=
  ∀ (s : State) (c id u : Nat) (o : MatOp), ReadyMat s c id u o →
    let old := ((s.core c).unit u).tile o.tile
    ∃ t, exec (.tileWrite c id false) s = .next t ∧ exec (.macclComplete c id) s = .next t ∧ t.mem = s.mem ∧
      Table.get? ((t.core c).unit u).ops id = Table.get? (Table.erase ((s.core c).unit u).ops id) id ∧
      (∀ x, x ≠ o.tile → ((t.core c).unit u).tile x = ((s.core c).unit u).tile x) ∧
      (∀ d, o.kind = .zero d → ∀ i j, (((t.core c).unit u).tile o.tile).elem i j = 0) ∧
      (∀ d e, o.kind = .maccl d e → ∀ i j, i < 32 → j < 64 → let z := if d then 8 else 4
        (((t.core c).unit u).tile o.tile).elem i j = Memory.readNat o.bytes (e + z * (64 * i + j)) z) ∧
      (∀ z fmt rm run fds bfd eb st, o.kind = .mma z fmt rm run fds bfd eb st (mfSlice fmt) → run.length = mfNa fmt → fds.length = mfNa fmt →
        ∀ i j, i < 32 → j < 64 →
          let g := if fmt = .f64 then fp64 else fp32
          (((t.core c).unit u).tile o.tile).elem i j = g.round (RM.ofMod rm) (sumX (RM.ofMod rm)
            (g.value (if z then 0 else old.elem i j) ::
              (List.range (mfK fmt)).map (fun e => mulX (elemA fmt run fds i e) (elemB fmt bfd eb st o.bytes e j)))))

/-- R169, R171 with the operands of R177, R179 to R181, R184 to R186, R188 to R192, R194, R196: the E syllables. -/
def Obligations.EngineSyllablesLaunchTheirOperation : Prop :=
  ∀ (f : Fields), let none : State → Nat := fun _ => 0
    Launches (.copy f) f 0 (fun s => .copy (a64 f s) (b64 f s)) none ∧
    Launches (.copyf f) f 0 (fun s => .copyf (f.m 6 2) (a64 f s) (b64 f s)) none ∧
    Launches (.cpq f) f 0 (fun s => .cpq (a64 f s) (b64 f s) (s.dstIsWide f) s.nibbles) (b64 f) ∧
    Launches (.scata f) f 1 (fun s => .scata (f.m 6 2) (f.m 8 2) (s.opd f.a).tag (s.opd f.b).tag (BitVec.ofNat 2048 (s.opd f.a).val)
      (BitVec.ofNat 2048 (s.opd f.b).val)) none ∧
    Launches (.skupd f) f 2 (fun s => .skupd (a64 f s) (b64 f s)) none ∧
    Launches (.skqry f) f 2 (fun s => .skqry (a64 f s) (s.queryIndex f).1 (s.queryIndex f).2) (fun _ => 1) ∧
    Launches (.skadd f) f 2 (fun s => .skadd (a64 f s) (b64 f s)) none ∧
    Launches (.skscale f) f 2 (fun s => .skscale (a64 f s) (b64 f s)) none ∧
    Launches (.skclr f) f 2 (fun s => .skclr (a64 f s)) none ∧
    Launches (.pump f) f 3 (fun s => .pump (a64 f s) (b64 f s)) none ∧
    Launches (.psplit f) f 3 (fun s => .psplit (a64 f s) (b64 f s)) none ∧
    Launches (.mapr f) f 4 (fun s => .mapr (a64 f s) (b64 f s)) none ∧
    Launches (.mapreq f) f 4 (fun s => .mapreq (a64 f s) (b64 f s)) none ∧
    Launches (.kjoin f) f 7 (fun _ => .kjoin) none ∧
    Launches (.mldr f) f 5 (fun s => .mldr (f.m 6 2) (f.m 8 2) (a64 f s) (b64 f s)) (fun _ => 1) ∧
    Launches (.coll f) f 5 (fun s => .coll (a64 f s) (b64 f s)) none

/-- R169, R171, R192: an operation starts, completes, fails. -/
def Obligations.EngineOperationsStartCompleteAndFail : Prop :=
  (∀ (s s1 : State) (o : Nat) (e e1 : EngOp), s.op? o = some e → e.phase = .ready → s.startOp o e = .go s1 → s1.op? o = some e1 →
    ∃ t, exec (.engineStart o) s = .next t ∧ t.mem = s1.mem ∧
      t.op? o = some { e1 with phase := .working, at_ := (s.core e.core).cyc, era := some (s.fnFab e.fn).era }) ∧
  (∀ (s : State) (o : Nat) (e : EngOp), s.op? o = some e → e.phase = .ready → e.kind = .kjoin →
    ∃ t, exec (.engineStart o) s = .next t ∧ t.mem = s.mem ∧
      isDue t e.core (s.core e.core).cyc e.strand true (.engineComplete o)) ∧
  (∀ (s : State) (o : Nat) (e : EngOp), s.op? o = some e → e.phase = .working →
    (match e.kind with | .cpq .. => False | .skqry .. => False | .mldr .. => False | .strun => False | _ => True) →
    ∃ t, exec (.engineComplete o) s = .next t ∧ KnotLeaves s o e .done t ∧ t.mem = s.mem) ∧
  (∀ (s : State) (o : Nat) (e : EngOp) (x : Trap), s.pumpOfOp o = none → s.op? o = some e → e.kind ≠ .strun →
    ∃ t, exec (.engineFail o x) s = .next t ∧ KnotLeaves s o e .failed t ∧ t.mem = s.mem ∧
      ((s.strand e.core e.strand).live = true → x.cause ≠ 0x0C →
        ((s.core e.core).cyc, x) ∈ (t.strand e.core e.strand).flow.due))

/-- R177, R179, R180: a chunk of a copy moves its bytes, a chunk of a fill writes its pattern, a unit of a CPQ makes a slot present. -/
def Obligations.CopyChunksMoveTheirBytes : Prop :=
  (∀ (s : State) (o : Nat) (e : EngOp) (p : CopyPlan) (d x : Nat) (src dst : List Nat), s.op? o = some e → e.plan = some p →
    e.kind = .copy d x → e.next < p.chunks → e.data = [] → s.txnsOf o = [] → Plain s e →
    LiesAt s e p.ssp false (chunkAddrs e p p.src) src → LiesAt s e p.dsp true (chunkAddrs e p p.dst) dst →
    ∃ t, exec (.copyChunk o) s = .next t ∧
      (ChannelsServe s src dst → BytesWritten s t dst (fun n => s.opView e (src.getD n 0))) ∧
      (¬ ChannelsServe s src dst → t.mem = s.mem ∧ isDue t e.core ((s.core e.core).cyc + 1) e.strand true (.copyChunk o))) ∧
  (∀ (s : State) (o : Nat) (e : EngOp) (p : CopyPlan) (z d v : Nat) (dst : List Nat), s.op? o = some e → e.plan = some p →
    e.kind = .copyf z d v → e.next < p.chunks → e.data = [] → s.txnsOf o = [] → Plain s e →
    LiesAt s e p.dsp true (chunkAddrs e p p.dst) dst → ChannelsServe s [] dst →
    ∃ t, exec (.copyChunk o) s = .next t ∧
      BytesWritten s t dst (fun n => BitVec.ofNat 8 (v / 2 ^ (8 * (((chunkSpan e p).1 + n) % 2 ^ z))))) ∧
  (∀ (s : State) (o : Nat) (e : EngOp) (p : CopyPlan) (d n : Nat) (wide : Bool) (nib id : Nat) (ids : List Nat) (x : Pend),
    s.op? o = some e → e.plan = some p → e.kind = .cpq d n wide nib → e.data ≠ [] → e.slots = id :: ids →
    Table.get? (s.core e.core).flight.pends id = some x → x.q < 16 →
    ∃ t, exec (.cpqUnit o) s = .next t ∧
      ((t.queue e.core x.strand x.q).slot x.idx).present = true ∧ ((t.queue e.core x.strand x.q).slot x.idx).tag = p.tag ∧
      (∀ e', t.op? o = some e' → e'.units = e.units + 1 ∧ e'.slots = ids ∧ e'.data = e.data.drop (cpqBytes wide p.tag)))

/-- R181, R182, R184, R186: an update of the scatter-accumulate engine and of a sketch, on bytes that no later store of the strand has
overwritten. The last update of an SKUPD settles the counters that hold 0x8000_0000 and that no entry hits. -/
def Obligations.EngineUpdatesChangeOnlyTheirWords : Prop :=
  (∀ (s : State) (o : Nat) (e : EngOp) (op rm ta tb : Nat) (a b : SlotBits) (xs : List (Nat × Nat)), s.op? o = some e →
    e.kind = .scata op rm ta tb a b → (s.core e.core).scaOrder.head? = some o → e.at_ + 14 ≤ (s.core e.core).cyc → Plain s e → e.shadow = [] →
    s.scataSpots e (scataLanes ta a) = (.ok xs, s) →
    ∃ t, exec (.scataUpdate o) s = .next t ∧ isDue t e.core (s.core e.core).cyc e.strand true (.engineComplete o) ∧
      (∀ p ∈ xs, word32 t.byte (keyP e.core p.2) =
        scataValue op rm tb (word32 (s.opView e) (keyP e.core p.2)) ((xs.filter (fun q => q.2 == p.2)).map (fun q => (lanes 32 b.toNat).getD q.1 0))
          % 2 ^ 32) ∧
      (∀ k, (∀ p ∈ xs, k < keyP e.core p.2 ∨ keyP e.core p.2 + 4 ≤ k) → t.byte k = s.byte k)) ∧
  (∀ (s : State) (o : Nat) (e : EngOp) (k : Skein) (ks : List Skein) (z l : Nat), s.op? o = some e → e.skeins = k :: ks →
    e.next < e.updates → s.sketchBehind o e = false → Plain s e → e.shadow = [] →
    (e.nextCounters s).any (fun b => s.opEarly e (keyW (dieOf e.core) b)) = false →
    (e.kind = .skclr z → let w := keyW (dieOf e.core) (k.addr (e.next / k.width) (e.next % k.width))
      ∃ t, exec (.sketchUpdate o) s = .next t ∧ word32 t.byte w = 0 ∧ ∀ a, a < w ∨ w + 4 ≤ a → t.byte a = s.byte a) ∧
    (e.kind = .skupd z l → ∀ wa d, e.vals[e.next]? = some (wa, d) → wa % 4 = 0 → let w := keyW (dieOf e.core) wa
      ∃ t, exec (.sketchUpdate o) s = .next t ∧
        word32 t.byte w = wrap 32 (max (-(2 ^ 31 - 1)) (min (2 ^ 31 - 1) (s.counter e wa + d))) ∧
        ((e.next + 1 < e.updates ∨ s.minCounters e k = []) → ∀ a, a < w ∨ w + 4 ≤ a → t.byte a = s.byte a) ∧
        (e.next + 1 = e.updates → ∀ b ∈ s.minCounters e k, b ≠ wa →
          word32 t.byte (keyW (dieOf e.core) b) = 2 ^ 31 + 1)))

/-- R189, R274, R383: the commit of a PSPLIT, and the write-back of a region that an unbinding MAPR unbinds. -/
def Obligations.SplitsAndWriteBacks : Prop :=
  (∀ (s : State) (o : Nat) (e : EngOp) (va page : Nat) (old new : Int) (i j : Nat) (vs : List (Nat × Int)) (keys : List Nat),
    s.op? o = some e → e.kind = .psplit va page → e.vals = (i, old) :: (j, new) :: vs → e.next = 128 → e.data = [] →
    s.boundBy e old.toNat = false → Plain s e → ChannelsServe s [] keys →
    LiesAt s e 2 true ((List.range 8).map (fun i => ((va + i : Nat) : Int))) keys → keys.Nodup → Table.wf s.disp.refs = true →
    ∃ t, exec (.psplitCommit o) s = .next t ∧ KnotLeaves s o e .done t ∧
      BytesWritten s t keys (fun n => BitVec.ofNat 8 (page / 256 ^ n)) ∧
      (old.toNat ≠ new.toNat → Table.getD t.disp.refs new.toNat 0 = 1 ∧
        Table.getD t.disp.refs old.toNat 0 = Table.getD s.disp.refs old.toNat 0 - 1)) ∧
  (∀ (s : State) (c k r o : Nat) (e : EngOp) (x : Region), Table.get? (s.strand c k).regions r = some x → s.unbinder c k r = some (o, e) →
    (x.dirty = [] → ∃ t, exec (.regionWriteBack c k r) s = .next t ∧
      (t.strand c k).regions = Table.erase (s.strand c k).regions r ∧ t.mem = s.mem ∧
      isDue t e.core (s.core e.core).cyc e.strand true (.engineComplete o)) ∧
    (∀ j key, x.dirty = [j] → s.poison = [] → s.memOk → 2 ^ 34 ≤ key → key < 2 ^ 64 →
      s.vaSpot e (x.blockVA j) true = (.ok (.here key), s) → (∀ i, i < 4096 → s.opEarly e (key + i) = false) →
      (s.takeBursts true ((List.range 4096).map (fun i => key + i))).1 = true →
      ∃ t, exec (.regionWriteBack c k r) s = .next t ∧
        (∀ i, i < 4096 → t.byte (key + i) = s.opView e (x.blockKey c j + i)) ∧
        ∀ a, a < key ∨ key + 4096 ≤ a → t.byte a = s.byte a))

/-- R27, R95, R101, R110, R261: what a bundle leaves as it retires. -/
def Obligations.BundlesPopAndAdvance : Prop :=
  (∀ (s : State) (c k : Nat) (us : List Use), s.bundle.eret = false →
    Follows (s.strand c k).ctx ((s.retireBundle c k us).strand c k).ctx s.bundle.target ∧ (s.retireBundle c k us).mem = s.mem) ∧
  (∀ (s : State) (c k : Nat) (us : List Use) (sel : Nat), sel < 16 →
    let q := s.queue c k sel
    (s.retireBundle c k us).queue c k sel =
      if popped us sel = 0 then q else { q with head := (q.head + popped us sel) % (2 * 2 ^ q.logcap) }) ∧
  (∀ (s : State) (c k : Nat) (us : List Use) (m : Nat), m < 4 →
    let q := (s.core c).mq m
    ((s.retireBundle c k us).core c).mq m =
      if popped us (16 + m) = 0 then q else { q with head := (q.head + popped us (16 + m)) % 128 }) ∧
  (∀ (s : State) (c k : Nat) (us : List Use), s.bundle.eret = true →
    let x := (s.strand c k).ctx
    let y := ((s.retireBundle c k us).strand c k).ctx
    let w := (x.bank x.tl).ret
    y.tl = x.tl - 1 ∧ y.pc = (w.extractLsb' 0 30).toNat ∧
    y.seq = (if w.getLsbD 63 then some ((w.extractLsb' 62 1).toNat, (w.extractLsb' 32 30).toNat) else none) ∧ y.banks = x.banks ∧
    ((x.bank x.tl).cause.getLsbD 23 = true → ((s.retireBundle c k us).strand c k).flow.life = .ending)) ∧
  (∀ (s : State) (c k g : Nat) (us : List Use), s.bundle.eret = false → s.bundle.target = none → (s.strand c k).ctx.seq = some (0, g) →
    (s.strand c k).ctx.tl ∈ (s.strand c k).flow.load →
    ((s.retireBundle c k us).strand c k).ctx.budget = (s.strand c k).place.budgetRec)

/-- R21, R29, R32, R59, R107, R261: the issue unit's own rows. -/
def Obligations.IssueUnitRows : Prop :=
  (∀ (y : Bool) (s : State), s.admission (C s) (K s) { yield := y, syls := [] } = .ok →
    Next (.emptyBundle y) s (fun t => Follows s.me.ctx t.me.ctx none ∧ t.me.queues = s.me.queues ∧ SameOutsideCore s t ∧
      (t.core (C s)).issue.handOver = (y || (s.core (C s)).issue.handOver))) ∧
  (∀ (c : Nat) (s : State), 256 ≤ (s.core c).issue.runs →
    Next (.runLimit c) s (fun t => (t.core c).issue = { (s.core c).issue with handOver := true } ∧ t.mem = s.mem)) ∧
  (∀ (c d : Nat) (s : State), let cur := (s.core c).issue.cur
    d ∈ [1, 2, 3] → s.readyNow c cur = false → s.readyNow c ((cur + d) % 4) = true →
    (∀ e, 1 ≤ e → e < d → s.readyNow c ((cur + e) % 4) = false) →
    Next (.switchOnBlockedBundle c) s (fun t => (t.core c).issue = { cur := (cur + d) % 4, runs := 0, handOver := false } ∧
      (t.core c).strands = (s.core c).strands ∧ t.mem = s.mem)) ∧
  (∀ (c k a : Nat) (s : State), (s.strand c k).atBundle = true → (s.strand c k).ctx.wlimit ≠ 0 →
    (s.strand c k).ctx.wlimit ≤ (s.strand c k).flow.blocked → s.verdict c k = .held (some a) →
    Next (.waitLimitExpiry c k) s (fun t => k ∈ t.bundle.barred ∧
      Enters c k (expiry s c k .inPlace (s.strand c k).ctx.pc a) (s.strand c k).entering false none s t)) ∧
  (∀ (c k : Nat) (s : State), let x := s.strand c k
    x.live = true → x.flow.wait ≠ .none → x.waitLimit ≠ 0 → x.waitLimit ≤ x.flow.waited → s.waitOver c k = false →
    Next (.waitExpiry c k) s (fun t => ∃ aux, (t.strand c k).flow.wait = .none ∧
      (t.strand c k).flow.post = expiry s c k .postIssue x.flow.lastPc aux :: x.flow.post ∧ (t.strand c k).ctx = x.ctx ∧ t.mem = s.mem ∧
      (∀ n l, x.flow.wait = .knot n l → aux = 2 ^ 30 + n + 16 * (x.knot n).code) ∧
      (x.flow.wait = .phase → aux = 2 * 2 ^ 30 + x.phaseno % 2 ^ 32 * 2 ^ 32) ∧
      (∀ q o l, x.flow.wait = .queue q o l → q < 16 → 2 * 2 ^ (x.queue q).logcap ≤ 2 ^ 13 →
        aux / 2 ^ 30 % 4 = 3 ∧ aux % 16 = q ∧ aux / 2 ^ 17 % 2 ^ 13 = (x.queue q).tail % 2 ^ 13 ∧
        ∀ j, (s.core c).absent k q 0 (o + 1) false = some j → aux / 2 ^ 4 % 2 ^ 13 = ((x.queue q).head + j) % (2 * 2 ^ (x.queue q).logcap) ∧
          aux / 2 ^ 35 = if j < (x.queue q).occ ∧ ((x.queue q).slot (((x.queue q).head + j) % 2 ^ (x.queue q).logcap)).orphan = true then 1 else 0))) ∧
  (∀ (c k : Nat) (s : State), let x := s.strand c k
    x.live = true → x.ctx.budget = 1 →
    Next (.budgetFault c k) s (fun t => (t.strand c k).ctx = { x.ctx with budget := 0 } ∧ t.mem = s.mem ∧
      let f := { expiry s c k .postIssue x.flow.lastPc x.place.budgetRec with cause := 0x11 }
      if s.bundle.issued = true ∧ s.bundle.core = c ∧ s.bundle.strand = k then (t.strand c k).flow.post = x.flow.post ++ [f]
      else ((s.core c).cyc, f) ∈ (t.strand c k).flow.due ∧ (t.strand c k).flow.post = x.flow.post)) ∧
  (∀ (c id : Nat) (h : Hold) (s : State), Table.get? (s.core c).flight.holds id = some h → h.q < 16 →
    Next (.readHoldRelease c id) s (fun t => t.mem = s.mem ∧
      ((t.queue c h.strand h.q).slot h.idx).holds = ((s.queue c h.strand h.q).slot h.idx).holds - 1))

/-- R108, R109, R110, R340, R342, R345, R346: traps taken, the kill of a strand at TL 2 or without a trap entry, TRAP and ERET. A poison
fault in place of issue is counted first where R394 and R397 say so: the dies alone may differ before its kill. -/
def Obligations.TrapsEnterTheirHandler : Prop :=
  (∀ (c k : Nat) (x : Trap) (s : State), (s.strand c k).live = true →
    Next (.takeTrap c k x) s (fun t =>
      Enters c k x (hentOf s c k x) (endpOf s c k x) none s t ∧ ∃ s0, s0 = { s with dies := s0.dies } ∧
        ((x.kind ≠ .inPlace ∨ x.cause ≠ 0x16) → s0 = s) ∧ KilledBy c k x (hentOf s c k x) (endpOf s c k x) s0 t)) ∧
  (∀ (c k cy : Nat) (x : Trap) (s : State), (s.strand c k).atBoundary = true → (s.strand c k).takeable = some (cy, x) →
    (s.strand c k).ctx.tl ≤ x.itl ∧
    Next (.deferredFaultTaken c k) s (Enters c k x x.hent ((s.strand c k).flow.life == .ending) x.ret s)) ∧
  (∀ (f : Fields), Does (.trap f) (fun s u => FlowOnly (fun x => { x with post := x.post ++
    [{ expiry s (C s) (K s) .postIssue s.me.ctx.pc (f.m 0 8) with cause := 0x01 }] }) s u)) ∧
  (∀ (f : Fields), Does (.eret f) (fun s u => u = s.modBundle (fun b => { b with eret := true })))

/-- R28, R29, R99, R100, R123, R124, R273, R385: results, stores, touches, shape records and fills land. That a non-zero extent of an unused
dimension breaks a shape record is the model's choice (log 19). -/
def Obligations.ResultsAndStoresLand : Prop :=
  (∀ (c id : Nat) (p : Pend) (s : State), Table.get? (s.core c).flight.pends id = some p → (s.core c).flight.waits id = false →
    p.graft = false → p.fin = .whole → s.memOk →
    Next (.slotWrite c id) s (fun t =>
      (p.q < 16 → let q := s.queue c p.strand p.q
        let x := (t.queue c p.strand p.q).slot p.idx
        x.present = true ∧ x.tag = p.tag ∧ x.orphan = false ∧
        (∀ j, j < q.size → t.byte (keyP c (q.base + p.idx * q.size) + j) = byteOf p.val j) ∧
        ∀ a, (a < keyP c (q.base + p.idx * q.size) ∨ keyP c (q.base + p.idx * q.size) + q.size ≤ a) → t.byte a = s.byte a) ∧
      (16 ≤ p.q → let m := (t.core c).mq (p.q - 16)
        (m.slot p.idx).present = true ∧ (m.slot p.idx).tag = p.tag ∧ Table.getD m.data p.idx 0 = p.val ∧ t.mem = s.mem))) ∧
  (∀ (c id : Nat) (st : PStore) (s : State), Table.get? (s.core c).flight.stores id = some st →
    (s.core c).flight.earlier (dieOf c) st id = false →
    (st.row = true ∨ (s.updating c st = false ∧ (s.storeTouches c st st.grans).isSome = true)) →
    s.poison = [] → s.memOk →
    Next (.storePerformed c id) s (fun t => t.poison = [] ∧ ∀ a, t.byte a = written st.cells (s.byte a) a)) ∧
  (∀ (c id : Nat) (y : Touch) (s : State), Table.get? (s.core c).flight.touches id = some y →
    (s.core c).flight.touchBefore id y = false → (s.granule c y).isSome = true → s.poison = [] →
    Next (.vaultTouch c id) s (fun t => t.mem = s.mem ∧
      (∀ pend p a n o, y.what = .load pend [(a, n, o)] → o + n ≤ 256 → Table.get? (s.core c).flight.pends pend = some p →
        ∃ p', Table.get? (t.core c).flight.pends pend = some p' ∧ p'.tag = p.tag ∧ ∀ j, j < 256 →
          byteOf p'.val j = byteOf p.val j |||
            (if o ≤ j ∧ j < o + n then s.view c y.strand y.bno (keyW (dieOf c) (a + (j - o))) else 0)) ∧
      (∀ v op m, (y.what = .mma v op ∨ y.what = .maccl v op) → Table.get? ((s.core c).unit v).ops op = some m → Memory.wf m.bytes = true →
        ∃ m', Table.get? ((t.core c).unit v).ops op = some m' ∧ m'.bad = m.bad ∧ ∀ a, Memory.read m'.bytes a =
          if a / 64 = y.granule ∧ m.kind.needs a = true then s.view c y.strand y.bno (keyW y.die a) else Memory.read m.bytes a))) ∧
  (∀ (c k due a : Nat) (u : Use) (w : Bool) (s : State), (s.strand c k).flow.shape = some (0, due) → due ≤ (s.core c).cyc →
    s.shapeUse c k = some (u, w, a) → (s.core c).flight.shapeOut k = false → s.poison = [] →
    let d := shapeWord s c k (if w then keyW (dieOf c) a else keyP c a) w
    Next (.shapeFetchReturn c k) s (fun t => t.mem = s.mem ∧
      (ShapeRecord d → (t.strand c k).flow.shape = some (1, if u.f.m 5 3 < d 0 then d (u.f.m 5 3 + 1) else 1)) ∧
      (¬ ShapeRecord d → (t.strand c k).flow.shape = some (2, 0)))) ∧
  (∀ (c k r j key : Nat) (store : Bool) (x : Region) (s : State), s.fillWanted c k = some (r, j, store) → (s.strand c k).atBundle = true →
    Table.get? (s.strand c k).regions r = some x → s.memOk →
    let e := s.strandAccess c k
    s.firstInLine e x = true →
    (∀ bs s1, s.readBlock e r x (x.blockVA j) store = (.ok bs, s1) →
      Next (.regionFill c k r j) s (fun t => (t.strand c k).block r j = .clean ∧
        (∀ i, i < bs.length → t.byte (x.blockKey c j + i) = bs.getD i 0) ∧
        ∀ a, (a < x.blockKey c j ∨ x.blockKey c j + bs.length ≤ a) → t.byte a = s.byte a)) ∧
    (store = false → s.vaSpot e (x.blockVA j) false = (.ok (.here key), s) → key + 4096 ≤ 2 ^ 64 → s.poison = [] →
      (∀ i, i < 4096 → s.opEarly e (key + i) = false) → (s.takeBursts false ((List.range 4096).map (fun i => key + i))).1 = true →
      ∃ s1, s.readBlock e r x (x.blockVA j) store = (.ok ((List.range 4096).map (fun i => s.view c k e.bno (key + i))), s1))) ∧
  (∀ (c id u n : Nat) (s : State), Table.get? (s.core c).flight.flags id = some (u, n) → Table.wf ((s.core c).unit u).reads = true →
    Next (.readFlagClear c id) s (fun t => t.mem = s.mem ∧
      Table.getD ((t.core c).unit u).reads n 0 = Table.getD ((s.core c).unit u).reads n 0 - 1))

/-- R346 to R348 with R249, R265, R266: a kill. The kill record of a strand that is cast on goes to SAVE + p * SSZ * 4,096 + 0x800 after the
stop and the release of the page list; then the final notify word, where NOTIFY is not 0 and the task has none yet, with MSI-X vector 0. What
the dispatcher writes waits for a page of the host in the order given (R272). -/
def Obligations.KillsStopThePanelAndFreeTheEntry : Prop :=
  (∀ (fn va : Nat) (bs : List Byte) (s : State), s.disp.jobs = [] → let t := s.submit (.record fn va bs)
    (∀ ks, WritesAt s fn va bs.length ks → t.disp.jobs = [] ∧ ∀ a, t.byte a = written (ks.zip bs) (s.byte a) a) ∧
    (∀ s1, s.writeVA fn va bs = (.wait, s1) → t.mem = s.mem ∧ t.disp.jobs = [.record fn va bs]) ∧
    (∀ x s1, s.writeVA fn va bs = (.bad x, s1) → s.poison = [] → t.mem = s.mem ∧ t.disp.jobs = [])) ∧
  ∀ (fn i : Nat) (x : KillInfo) (g : Task) (s : State), let key := taskKey fn i
    i < 2 ^ 18 → s.task? key = some g → g.st ≠ .husk → s.captured key = false →
    Next (.kill fn i x) s (fun t => NotLive t g.panel ∧ EntryLeaves s t key g ∧ Satisfied t fn (g.id key) ∧
      (Table.wf s.disp.tasks = true → ∀ p ∈ t.disp.tasks, ∀ h, s.task? p.1 = some h → p.1 / 2 ^ 18 = fn → g.id key ∈ h.preds → p.1 ≠ key → p.2.canpred = true) ∧
      (g.notify ≠ 0 → g.final = false → Notified s t fn (g.notify + 8) (g.id key) 4 x.cause) ∧
      ∀ c k, g.panel[x.pos]? = some (c, k, .cast) → x.held = none → ∃ u bs, NotLive u g.panel ∧ Satisfied u fn (g.id key) ∧
        (s.disp.jobs = [] → u.mem = s.mem) ∧ KillRecord s (g.id key) x c k bs ∧
        t = ((u.submit (.record fn (g.save + x.pos * g.ssz * 4096 + 0x800) bs)).finalWord key 4 x.cause).retire key)

/-- R112 to R114, R249, R263, R265, R384, R386: what becomes of strands, tasks, phases and epochs. -/
def Obligations.TaskRowsEndAndAdvanceTasks : Prop :=
  (∀ (c k : Nat) (s : State), (s.strand c k).flow.life = .ending → s.quiesced c k = true → (s.strand c k).dirtyRegion = none →
    Next (.strandEnd c k) s (fun t => t.mem = s.mem ∧
      (let x := s.strand c k
       let y := t.strand c k
       y.live = false ∧ y.ctx = x.ctx ∧ y.icyc = x.icyc ∧ y.phaseno = x.phaseno ∧ y.place = x.place ∧ y.regions = [] ∧ y.flow.due = [] ∧
       ∀ n, (y.queue n).en = false ∧ (y.queue n).gsrc = false ∧ (y.queue n).gtgt = false ∧ (y.queue n).head = (x.queue n).head ∧
         (y.queue n).tail = (x.queue n).tail) ∧
      let p := (s.strand c k).place
      ∀ g, s.task? (taskKey p.fn p.task) = some g → ∃ g', t.task? (taskKey p.fn p.task) = some g' ∧
        ∀ n, g'.panel[n]? = (g.panel[n]?).map (fun x => if n = p.pos then (x.1, x.2.1, .ended) else x))) ∧
  (∀ (fn i : Nat) (g : Task) (s : State), let key := taskKey fn i
    i < 2 ^ 18 → s.task? key = some g → g.st = .running → g.panel ≠ [] → (∀ x ∈ g.panel, x.2.2 = .ended) → s.captured key = false →
    Next (.taskComplete fn i) s (fun t => EntryLeaves s t key g ∧ Satisfied t fn (g.id key) ∧
      (g.notify ≠ 0 → g.final = false → Notified s t fn (g.notify + 8) (g.id key) 2 0))) ∧
  (∀ (fn i : Nat) (g : Task) (s : State), let key := taskKey fn i
    s.task? key = some g → g.st = .running → g.fired = false → g.panel ≠ [] → (∀ x ∈ g.panel, s.trigDone x = true) →
    s.captured key = false →
    Next (.trigger fn i) s (fun t => (∃ g', t.task? key = some g' ∧ g'.fired = true ∧ g'.st = .running) ∧ Satisfied t fn (g.id key) ∧
      t.mem = s.mem ∧ t.cores = s.cores)) ∧
  (∀ (fn i : Nat) (g : Task) (s : State), let key := taskKey fn i
    s.task? key = some g → g.st = .held → g.preds = [] → s.captured key = false →
    Next (.taskReady fn i) s (fun t => t = s.setTask key { g with st := .ready, since := s.env.ns })) ∧
  (∀ (fn i e : Nat) (g : Task) (s : State), let key := taskKey fn i
    s.task? key = some g → g.st = .running → PanelApart g.panel → (s.die g.origin.1).nextEpoch = some e →
    (∃ c k, (c, k, PStatus.cast) ∈ g.panel ∧ (s.strand c k).flow.phases ≠ []) → (∀ x ∈ g.panel, s.phaseDone x = true) →
    Next (.phaseComplete fn i) s (fun t => t.mem = s.mem ∧ e = ((s.die g.origin.1).epoch + 1) % 2 ^ 20 ∧
      (t.die g.origin.1).epoch = e ∧ (∀ e', (e', key) ∈ (t.die g.origin.1).live ↔ e' = e) ∧
      ∀ c k, (c, k, PStatus.cast) ∈ g.panel → (t.strand c k).phaseno = ((s.strand c k).phaseno + 1) % 2 ^ 32 ∧
        (t.strand c k).epoch = e ∧ (t.strand c k).flow.phases = (s.strand c k).flow.phases.drop 1 ∧
        ((s.strand c k).flow.phases.length ≤ 1 → (t.strand c k).flow.wait ≠ .phase) ∧ (t.strand c k).ctx = (s.strand c k).ctx)) ∧
  (∀ (d : Nat) (s : State), let q := ((s.die d).epoch / 2 ^ 18 + 1) % 4
    (∀ p ∈ (s.die d).live, p.1 / 2 ^ 18 ≠ q) → Table.wf (s.die d).tags = true →
    Next (.epochSweep d) s (fun t => (t.die d).swept = q ∧ t.mem = s.mem ∧
      ∀ g r, r ∈ Table.getD (t.die d).tags g [] ↔ r ∈ Table.getD (s.die d).tags g [] ∧ r.epoch / 2 ^ 18 ≠ q)) ∧
  (∀ (fn i p : Nat) (g : Task) (s s1 : State), let key := taskKey fn i
    s.task? key = some g → g.st = .running → g.request.isSome = true → PanelApart g.panel → (∀ x ∈ g.panel, s.saveReady x = true) →
    (∃ c k, (c, k, PStatus.cast) ∈ g.panel) → s.captured key = false → s.saveContexts fn g (numbered 0 g.panel) = (p, .ok (), s1) →
    Next (.contextSave fn i) s (fun t => NotLive t g.panel ∧ (∀ e, (e, key) ∉ (t.die g.origin.1).live) ∧ t.mem = s1.mem ∧
      ∃ g', t.task? key = some g' ∧ g'.st = .saved ∧ g'.request = none ∧ g'.since = s.env.ns ∧
        ∀ x ∈ g'.panel, x.2.2 ≠ .cast))

/-- R251 to R256, R260: a selection in which a single task waits casts it on, with its queues and arguments; what a selection casts on
waited; and the one place of a blocking task (R254). -/
def Obligations.SelectionsCastTasksOn : Prop :=
  (∀ (fn i : Nat) (g : Task) (rd : Ready) (o : Nat × Nat × Nat) (ks : List (Nat × Nat × Nat)) (s : State),
    OnlyWaiting s fn i g rd o ks →
    Next .dispatcherSelection s (fun t => ∃ g', t.task? (taskKey fn i) = some g' ∧ g'.st = .running ∧ g'.first = false ∧
      g'.castAt = s.env.ns ∧ g'.recd = g.recd ∧ g'.panel = ks.map (fun x => (x.2.1, x.2.2, .cast)) ∧
      ∀ p c k, (p, c, k) ∈ ks →
        StartsAt t g' rd.code rd.launch (((s.die o.1).nextEpoch).getD 0) c k ∧ (t.strand c k).place.pos = p ∧
        (t.strand c k).place.fn = fn ∧ (t.strand c k).place.task = i ∧ StartsWithQueues s t (taskKey fn i) g' rd.launch ks c k)) ∧
  (∀ (s : State), Next .dispatcherSelection s (fun t => ∀ c k, (t.strand c k).live = true → (s.strand c k).live = false →
    ∃ p ∈ s.disp.tasks, p.1 = taskKey (t.strand c k).place.fn (t.strand c k).place.task ∧ (p.2.st = .ready ∨ p.2.st = .saved))) ∧
  (∀ (fn i : Nat) (g : Task) (s : State), s.task? (taskKey fn i) = some g → s.disp.blocking = none → s.qualifies g = true →
    (∀ p ∈ s.disp.tasks, s.qualifies p.2 = true → g.passedAt ≤ p.2.passedAt) → s.captured (taskKey fn i) = false →
    Next (.taskBecomesBlocking fn i) s (fun t => (∃ b, t.disp.blocking = some (fn, i, b)) ∧ t.mem = s.mem ∧ t.cores = s.cores))

/-- R23, R36, R103, R263, R264: what a save area holds of a context is what a restore puts back: the registers, with no delay sequence; the
queue descriptors, with their graft fields; the slots of a queue, data, tag and presence. -/
def Obligations.RestoresGiveBackWhatSavesHeld : Prop :=
  (∀ (c k n c' k' : Nat) (s u : State), let q := s.queue c k n
    n < 16 → q.en = true → q.occ ≠ 0 → q.occ ≤ q.cap → q.base + q.cap * q.size ≤ 2 ^ 22 → u.memOk → u.queue c' k' n = bareQueue q →
    (∀ o, o < q.occ → tagOk (q.slot (q.index o)).tag = true ∧ (q.slot (q.index o)).tag < 256) →
    ∃ v, u.putWindow c' k' n (s.windowBytes c k n) = some v ∧ ∀ o, o < q.occ → let i := q.index o
      ((v.queue c' k' n).slot i).present = true ∧ ((v.queue c' k' n).slot i).tag = (q.slot i).tag ∧
      v.slotData c' k' n i = s.slotData c k n i) ∧
  ∀ (c k : Nat) (s : State), let x := s.strand c k
    let run := fun (n : Nat) => (((s.saveImage c k).getD n (0, [])).2)
    let y := restoreCtx (dwords (run 0) 13) (dwords (run 1) 48)
    x.ctx.pc < 2 ^ 30 → x.ctx.tl < 3 → (∀ n, x.bt n < 2 ^ 30) → x.ctx.wlimit < 2 ^ 32 → x.ctx.budget < 2 ^ 32 → (∀ n, x.fd n < 2 ^ 32) →
    ((s.saveImage c k).map Prod.fst = [0, 0x80, 0x1000] ∧ SavedPart x.ctx y ∧
      (∀ n, n < 4 → Table.getD y.bt n 0 = x.bt n ∧ Table.getD y.lse n 0 = x.lse n) ∧
      (∀ n, n < 16 → Table.getD y.knots n .idle = x.knot n ∧ Table.getD y.fds n 0 = x.fd n) ∧
      ∀ n, n < 16 → FitsImage (x.queue n) → let d := dwords (run 1) 48
        Queue.ofImage (d.getD (16 + 2 * n) 0) (d.getD (17 + 2 * n) 0) = bareQueue (x.queue n))

/-- R33 to R35, R199 to R202, R361: descriptors, fd registers and grafts. That the rows of QGRAFT and QUNGRAFT are due in the cycle after
issue, inside the bound of R422, is the model's choice (log 15, 26). The graft of a queue to itself is left out. -/
def Obligations.DescriptorsAndGrafts : Prop :=
  (∀ (f : Fields),
    Does (.qdesc f) (fun s u => let v := u.me.queue (f.m 0 4)
      v.en = (A64 f s).getLsbD 27 ∧ v.wide = (A64 f s).getLsbD 26 ∧ v.logcap = ((A64 f s).extractLsb' 22 4).toNat ∧
      v.base = ((A64 f s).extractLsb' 0 22).toNat ∧ v.head = ((A64 f s).extractLsb' 32 13).toNat ∧
      v.tail = ((A64 f s).extractLsb' 45 13).toNat ∧ v.gsrc = (B64 f s).getLsbD 0 ∧ v.gtgt = (B64 f s).getLsbD 1 ∧ v.slots = [] ∧
      (∀ n, n ≠ f.m 0 4 → u.me.queue n = s.me.queue n) ∧ u.me.ctx = s.me.ctx ∧ u.mem = s.mem) ∧
    Does (.fdset f) (fun s u => u.me.fd (f.m 0 4) = (A64 f s).toNat ∧ (∀ n, n ≠ f.m 0 4 → u.me.fd n = s.me.fd n) ∧
      u.me.queues = s.me.queues ∧ SameOutsideCore s u) ∧
    StartsX (.qgraft f) (fun s x => x = .graft (f.m 0 4) (A64 f s).toNat (xSyl 0x011)) (fun _ => 1) .qgraftDone ∧
    StartsX (.qungraft f) (fun _ x => x = .ungraft (f.m 0 4) (xSyl 0x012)) (fun _ => 1) .qungraftDone) ∧
  (∀ (c k q w : Nat) (aux : Dword) (s : State), (s.strand c k).flow.xwait = some (.graft q w aux) →
    let src := s.queue c k q
    let d := s.strand (tgtCore w) (tgtStrand w)
    let tgt := d.queue (tgtQueue w)
    ((¬ CanSource src ∨ 2 ^ 14 ≤ w) → Next (.qgraftDone c k) s (Refused c k 0x18)) ∧
    (CanSource src → w < 2 ^ 14 → (d.live = false ∨ d.place.fn ≠ (s.strand c k).place.fn) →
      Next (.qgraftDone c k) s (Refused c k 0x14)) ∧
    (CanSource src → w < 2 ^ 14 → d.live = true → d.place.fn = (s.strand c k).place.fn → ¬ CanTarget tgt src →
      Next (.qgraftDone c k) s (Refused c k 0x18)) ∧
    (CanSource src → w < 2 ^ 14 → d.live = true → d.place.fn = (s.strand c k).place.fn → CanTarget tgt src →
      (tgtCore w, tgtStrand w, tgtQueue w) ≠ (c, k, q) →
      Next (.qgraftDone c k) s (fun t => (t.strand c k).flow.xwait = none ∧ t.mem = s.mem ∧
        t.queue c k q = { src with gsrc := true, gcore := tgtCore w, gstr := tgtStrand w, gq := tgtQueue w, gtlog := tgt.logcap,
                                   gcred := 2 ^ tgt.logcap - tgt.occ, broken := false } ∧
        t.queue (tgtCore w) (tgtStrand w) (tgtQueue w) = { tgt with gtgt := true }))) ∧
  (∀ (c k n : Nat) (aux : Dword) (s : State), (s.strand c k).flow.xwait = some (.ungraft n aux) →
    let q := s.queue c k n
    (q.gsrc = false → Next (.qungraftDone c k) s (Refused c k 0x18)) ∧
    (q.gsrc = true → q.broken = false → s.graftBusy c k n = false → q.gcore < 256 → (q.gcore, q.gstr, q.gq) ≠ (c, k, n) →
      Next (.qungraftDone c k) s (fun t => (t.strand c k).flow.xwait = none ∧ (t.queue c k n).gsrc = false ∧
        (t.queue c k n).gcred = 0 ∧ (t.queue c k n).head = q.head ∧ (t.queue c k n).tail = q.tail ∧
        t.queue q.gcore q.gstr q.gq = { s.queue q.gcore q.gstr q.gq with gtgt := false } ∧ t.mem = s.mem))) ∧
  (∀ (c id : Nat) (m : GraftMsg) (s : State), Table.get? (s.core c).flight.grafts id = some m → m.q < 16 → s.memOk →
    (∀ y ∈ (s.core c).flight.grafts, y.1 < id → y.2.strand = m.strand → y.2.q ≠ m.q) →
    let q := s.queue c m.strand m.q
    let i := q.tail % 2 ^ q.logcap
    Next (.graftArrival c id) s (fun t => let v := t.queue c m.strand m.q
      v.tail = (q.tail + 1) % (2 * 2 ^ q.logcap) ∧ v.head = q.head ∧ (v.slot i).present = true ∧ (v.slot i).tag = m.tag ∧
      (∀ j, j < q.size → t.byte (keyP c (q.base + i * q.size) + j) = byteOf m.val j) ∧
      ∀ a, (a < keyP c (q.base + i * q.size) ∨ keyP c (q.base + i * q.size) + q.size ≤ a) → t.byte a = s.byte a)) ∧
  (∀ (c id : Nat) (m : GraftMsg) (s : State), Table.get? (s.core c).flight.grafts id = some m →
    (∃ y ∈ (s.core c).flight.grafts, y.1 < id ∧ y.2.strand = m.strand ∧ y.2.q = m.q) →
    Next (.graftArrival c id) s (fun t => t.mem = s.mem ∧ Table.get? (t.core c).flight.grafts id = some m ∧
      isDue t c ((s.core c).cyc + 1) m.strand false (.graftArrival c id))) ∧
  (∀ (c id : Nat) (m : Credit) (s : State), Table.get? (s.core c).flight.credits id = some m →
    let q := s.queue c m.strand m.q
    Next (.graftCreditReturn c id) s (fun t => t.mem = s.mem ∧
      t.queue c m.strand m.q = if q.gsrc = true ∧ q.broken = false then { q with gcred := q.gcred + 1 } else q))

/-- R203 to R206, R246, R247, R249, R251, R266, R376: tasks spawned, forked, cancelled, prioritised. The cycles after issue in which the
rows of TSPAWN, TFORK and TCANCEL are due, inside the bounds of R422, are the model's choice (log 26, 29). -/
def Obligations.TaskSyllablesActOnTheTable : Prop :=
  (∀ (f : Fields),
    StartsX (.tspawn f) (fun s x => ∃ ids, x = .spawn ids (s.xRead (A64 f s).toNat 128 64) (B64 f s).toNat (xSyl 0x020) ∧
      Reserved f 1 s ids) (fun _ => 1) .tspawnEntry ∧
    StartsX (.tfork f) (fun s x => ∃ ids, x = .fork ids (A64 f s).toNat (s.xRead (B64 f s).toNat 128 64) (xSyl 0x021) ∧
      Reserved f ((A64 f s).toNat % 128) s ids) (fun _ => 1) .tforkStep ∧
    Does (.tcancel f) (fun s u =>
      let id := (A64 f s).toNat
      let fn := s.me.place.fn
      ((2 ^ 32 ≤ id ∨ s.taskOfId fn id = none) → u = s.appendTo f.dst.toNat 8 0 1) ∧
      (id < 2 ^ 32 → (s.taskOfId fn id).isSome = true → u.mem = s.mem ∧ ∃ n w, Table.get? u.disp.walks n = some w ∧
        w.fn = fn ∧ w.root = id ∧ w.by_ = (C s, K s) ∧ w.stopped = false ∧ w.pend.isSome = !(f.dst == 31) ∧
        isDue u (C s) ((s.core (C s)).cyc + 1) (K s) true (.bindOffStop n) ∧
        isDue u (C s) ((s.core (C s)).cyc + 2) (K s) true (.bindOffWalk n))) ∧
    Does (.tprio f) (fun s u =>
      let own := s.me.place.gen * 2 ^ 18 + s.me.place.task
      let id := if A64 f s = 0 then own else (A64 f s).toNat
      ((A64 f s).toNat < 2 ^ 32 → ∀ key g, s.taskOfId s.me.place.fn id = some (key, g) →
        ∃ g', u = s.setTask key g' ∧ g'.prio = (B64 f s).toNat % 8 ∧ g'.st = g.st ∧ g'.since = g.since ∧ g'.recd = g.recd) ∧
      ((2 ^ 32 ≤ (A64 f s).toNat ∨ s.taskOfId s.me.place.fn id = none) → u = s))) ∧
  (∀ (c k arg : Nat) (ids ps : List Nat) (r : List Dword) (aux : Dword) (s s1 : State),
    (s.strand c k).flow.xwait = some (.spawn ids (.words r) arg aux) →
    let p := (s.strand c k).place
    let parent := p.gen * 2 ^ 18 + p.task
    let r' := spawnRecord r parent arg
    let prio := (r.getD 3 0).toNat / 2 ^ 10 % 8
    (s.core c).flight.settled k (s.strand c k).flow.bno = true → s.vet p.fn r' prio = (.ok ps, s1) →
    Next (.tspawnEntry c k) s (fun t => (t.strand c k).flow.xwait = none ∧ ∃ id, Entered s t p.fn id r' prio parent true ∧
      ∀ n, ids = [n] → ∀ x, Table.get? (s.core c).flight.pends n = some x → x.strand = k →
        (∃ y, Table.get? (t.core c).flight.pends n = some y ∧ y.val = BitVec.ofNat 2048 id) ∧
        isDue t c ((s.core c).cyc + 1) k false (.slotWrite c n))) ∧
  (∀ (c k arg : Nat) (ids : List Nat) (r : List Dword) (aux : Dword) (x : VaFault) (s s1 : State),
    (s.strand c k).flow.xwait = some (.spawn ids (.words r) arg aux) →
    let p := (s.strand c k).place
    (s.core c).flight.settled k (s.strand c k).flow.bno = true →
    s.vet p.fn (spawnRecord r (p.gen * 2 ^ 18 + p.task) arg) ((r.getD 3 0).toNat / 2 ^ 10 % 8) = (.bad x, s1) →
    Next (.tspawnEntry c k) s (fun t => Refused c k x.cause t ∧ t.disp.tasks = s.disp.tasks)) ∧
  (∀ (c k arg : Nat) (ids : List Nat) (r : List Dword) (aux : Dword) (s : State),
    (s.strand c k).flow.xwait = some (.spawn ids (.words r) arg aux) → (s.core c).flight.settled k (s.strand c k).flow.bno = false →
    Next (.tspawnEntry c k) s (fun t => t.disp.tasks = s.disp.tasks ∧ (t.strand c k).flow.xwait = (s.strand c k).flow.xwait ∧
      isDue t c ((s.core c).cyc + 1) k true (.tspawnEntry c k))) ∧
  (∀ (c k w : Nat) (ids kids : List Nat) (m : List Dword) (aux : Dword) (g : Task) (s s1 : State),
    (s.strand c k).flow.xwait = some (.fork ids w (.words m) aux) →
    let p := (s.strand c k).place
    s.task? (taskKey p.fn p.task) = some g → p.task < 2 ^ 18 →
    (s.core c).flight.settled k (s.strand c k).flow.bno = true → s.fork (taskKey p.fn p.task) g w (some m) = (.ok kids, s1) →
    Next (.tforkStep c k) s (fun t => (t.strand c k).flow.xwait = none ∧ kids.length = w % 128 ∧ t.disp.tasks = s1.disp.tasks ∧
      ∀ n, n < kids.length → ∃ h, t.task? (taskKey p.fn (kids.getD n 0 % 2 ^ 18)) = some h ∧ h.parent = g.id (taskKey p.fn p.task) ∧
        h.prio = w / 2 ^ 8 % 8 ∧ h.recd = childRecord m w g.plen (g.id (taskKey p.fn p.task)) n ∧ h.spawned = true)) ∧
  (∀ (n : Nat) (w : Walk) (key : Nat) (g : Task) (s : State), Table.get? s.disp.walks n = some w → w.stopped = false →
    s.taskOfId w.fn w.root = some (key, g) → s.captured key = false →
    Next (.bindOffStop n) s (fun t => NotLive t g.panel ∧
      (∃ w', Table.get? t.disp.walks n = some w' ∧ w'.stopped = true ∧ key ∈ w'.found ∧
        (∀ p ∈ s.disp.tasks, s.task? p.1 = some p.2 → p.1 / 2 ^ 18 = w.fn → p.2.parent = g.id key → p.1 ≠ key → s.captured p.1 = false →
          p.1 ∈ w'.found ∧ NotLive t p.2.panel)))) ∧
  (∀ (n id : Nat) (w : Walk) (x : Pend) (s : State), Table.get? s.disp.walks n = some w → w.stopped = true → w.found.Nodup →
    (∀ key ∈ w.found, (s.task? key).isSome = true) → Table.wf s.disp.tasks = true → w.freed = none → w.pend = some id →
    Table.get? (s.core w.by_.1).flight.pends id = some x → let y := s.walkEntries w
    Next (.bindOffWalk n) s (fun t => (∀ key ∈ w.found, t.task? key = none) ∧
      (∀ m s2, y.2.releaseLists w.fn y.1.lists = ([], m, s2) →
        (∃ z, Table.get? (t.core w.by_.1).flight.pends id = some z ∧ z.val = BitVec.ofNat 2048 ((w.pages + m) * 2 ^ 32 + w.found.length)) ∧
        isDue t w.by_.1 ((s.core w.by_.1).cyc + 1) w.by_.2 false (.slotWrite w.by_.1 id)) ∧
      ((y.2.releaseLists w.fn y.1.lists).1 ≠ [] → (∃ z, Table.get? t.disp.walks n = some z ∧ z.freed = some w.found.length) ∧
        isDue t w.by_.1 ((s.core w.by_.1).cyc + 1) w.by_.2 true (.bindOffWalk n))))

/-- R193, R207, R326, R328: address groups and the trace. That the end of an AGSET is due in the cycle after issue is the model's choice
(log 26). -/
def Obligations.GroupsAndTraces : Prop :=
  (∀ (f : Fields),
    StartsX (.agset f) (fun s x => ∃ got, x = .agset got (B64 f s).toNat (xSyl 0x030) ∧
      ∀ h m, s.xRead (A64 f s).toNat 8 8 = .words [h] → 1 ≤ h.toNat → h.toNat ≤ 64 → s.xRead (A64 f s).toNat (8 + 8 * h.toNat) 8 = m →
        got = m) (fun _ => 1) .agsetDone ∧
    Does (.traceOn f) (Traces (fun s x => { x with classes := (A64 f s).toNat % 256 })) ∧
    Does (.traceOff f) (Traces (fun _ x => { x with classes := 0 })) ∧
    Does (.traceArm f) (Traces (fun s x => { x with armed := some (A64 f s), post := none })) ∧
    Does (.traceMark f) (fun s u =>
      let x := (s.core (C s)).trace
      let y := (u.core (C s)).trace
      (s.me.place.fn = x.owner → x.frozen = false → K s < 4 → s.me.place.task < 2 ^ 18 →
        ∃ d0, y = { x with pend := insertEntry (K s, 5, d0, A64 f s) x.pend } ∧ d0.extractLsb' 0 18 = BitVec.ofNat 18 s.me.place.task ∧
          d0.extractLsb' 18 2 = BitVec.ofNat 2 (K s) ∧ d0.extractLsb' 20 3 = 5 ∧ d0.extractLsb' 24 40 = BitVec.ofNat 40 s.env.ck) ∧
      ((s.me.place.fn ≠ x.owner ∨ x.frozen = true) → y = x) ∧ u.mem = s.mem ∧ (u.core (C s)).strands = (s.core (C s)).strands)) ∧
  (∀ (c k g : Nat) (aux h : Dword) (ms : List Dword) (s : State), (s.strand c k).flow.xwait = some (.agset (.words (h :: ms)) g aux) →
    let fn := (s.strand c k).place.fn
    h.toNat = ms.length → 1 ≤ ms.length → ms.length ≤ 64 → (∀ w ∈ ms, w.toNat / 2 ^ 56 = 1) → g < 64 →
    (∀ w ∈ ms, s.inDomain w = true) → (∀ w ∈ ms, ∀ p, s.memberPod w = some p → s.endToEnd fn p = false) →
    s.groupBusy fn g = false →
    Next (.agsetDone c k) s (fun t => (t.strand c k).flow.xwait = none ∧ t.mem = s.mem ∧ Table.get? (t.fnFab fn).groups g = some ms ∧
      ∀ x, x ≠ g → Table.get? (t.fnFab fn).groups x = Table.get? (s.fnFab fn).groups x)) ∧
  (∀ (c k g : Nat) (aux : Dword) (ws : List Dword) (s : State), (s.strand c k).flow.xwait = some (.agset (.words ws) g aux) →
    64 ≤ g → Next (.agsetDone c k) s (fun t => Refused c k 0x18 t ∧ t.fab = s.fab))

/-- R161, R165, R166, R168: STCFG and the end of its load, STRUN, STSTOP. That STCFG takes its words at issue (log 7) and touches a granule
of an image in W in the cycle of the granule's first word (log 23) are the model's choice. -/
def Obligations.StitchSyllablesLoadRunAndStop : Prop :=
  (∀ (f : Fields),
    Does (.stcfg f) (fun s u =>
      let w := f.m 0 1 == 1
      let a := (A64 f s).toNat
      let n := (B64 f s).toNat
      let key := if w then keyW (dieOf (C s)) a else keyP (C s) a
      let due := (s.core (C s)).cyc + n + 4
      let row := (u.core (C s)).row
      let poison := s.loadPoison (C s) (K s) s.me.flow.bno false ((List.range (8 * n)).map (fun i => key + i))
      u.mem = s.mem ∧ row.cfg = none ∧ row.run = (s.core (C s)).row.run ∧ isDue u (C s) due (K s) false (.stitchLoadEnd (C s)) ∧
      (w = true ∨ poison = none → ∃ ws, row.load = some (due, ws) ∧ ws.length = n ∧ ∀ i, i < ws.length → (ws.getD i 0).toNat =
        ofBytes ((List.range 8).map (fun j => s.loadByte (C s) (K s) s.me.flow.bno (key + (8 * i + j)) w))) ∧
      (∀ x, w = false → poison = some x → row.load = some (due, []) ∧ (s.me.live = true → ∃ cy y, (cy, y) ∈ u.me.flow.due ∧ y.cause = 0x16 ∧
        y.kind = .deferred ∧ y.addr = BitVec.ofNat 64 (granuleAddr x))) ∧
      (w = true → ∀ g, a / 64 ≤ g → g * 64 < a + 8 * n → ∃ tid t, Table.get? (u.core (C s)).flight.touches tid = some t ∧ t.strand = K s ∧
        t.granule = g ∧ t.wrote = false ∧ t.what = .image a ∧
        isDue u (C s) ((s.core (C s)).cyc + 1 + (g * 64 - a) / 8) (K s) false (.vaultTouch (C s) tid))) ∧
    Does (.strun f) (fun s u =>
      let w := (A64 f s).toNat
      let cyc := (s.core (C s)).cyc
      let old := (s.core (C s)).row
      let row := (u.core (C s)).row
      u.me.knot (KN f) = .pending ∧ (∀ x, x ≠ KN f → u.me.knot x = s.me.knot x) ∧ u.mem = s.mem ∧ row.cfg = old.cfg ∧
      row.rmxp = old.rmx ∧ row.rmx = (if w.testBit 48 then old.rmx else 0) ∧ row.preds = [] ∧ row.outl = [] ∧ row.ru = [] ∧
      (∀ e n, n < 32 → Table.get? row.regs (e * 64 + n) = none) ∧
      (w % 2 ^ 30 = 0 → row.run = none ∧ ∃ o, isDue u (C s) cyc (K s) true (.engineComplete o)) ∧
      (w % 2 ^ 30 ≠ 0 → isDue u (C s) (cyc + 2) 4 false (.rowCycle (C s)) ∧ ∃ r, row.run = some r ∧ r.strand = K s ∧ r.n = w % 2 ^ 30 ∧
        r.port0 = (if w.testBit 35 then some (xf w 30 5) else none) ∧ r.port1 = (if w.testBit 41 then some (xf w 36 5) else none) ∧
        r.omode = xf w 42 2 ∧ r.oq = xf w 44 4 ∧ r.otag = xf w 49 6 ∧ r.base = (B64 f s).toNat ∧ sval 64 r.stride = (A64 { f with a := f.c } s).toInt ∧
        r.t = 0 ∧ r.mid = false ∧ r.last = false ∧ r.due = cyc + 2 ∧ ∀ n, n < 16 → Table.getD r.fds n 0 = s.me.fd n)) ∧
    Does (.ststop f) (fun s u =>
      let old := (s.core (C s)).row
      let row := (u.core (C s)).row
      row.cfg = old.cfg ∧ row.rmx = old.rmx ∧ row.rmxp = old.rmxp ∧ row.run = none ∧ u.mem = s.mem ∧
      (old.run = none → u = s) ∧ ∀ r e, old.run = some r → s.op? r.op = some e → KnotLeaves s r.op e .done u)) ∧
  (∀ (c due : Nat) (ws : List Dword) (s : State), (s.core c).row.load = some (due, ws) → due ≤ (s.core c).cyc →
    (∀ t ∈ (s.core c).flight.touches, ∀ a, t.2.what ≠ .image a) →
    (∀ g regs, readImage ws = .ok (g, regs) → Next (.stitchLoadEnd c) s (fun t => let row := (t.core c).row
      row.cfg = some g ∧ row.regs = regs ∧ row.load = none ∧ row.preds = [] ∧ row.outl = [] ∧ row.rmx = (s.core c).row.rmx ∧ t.mem = s.mem)) ∧
    (∀ i, readImage ws = .error i → Next (.stitchLoadEnd c) s (fun t => let row := (t.core c).row
      row.cfg = none ∧ row.bad = some i ∧ row.load = none ∧ t.mem = s.mem)))

/-- R158, R159, R160, R162, R163, R167: what a row cycle does. That the predicate of an operation of several cycles is sampled in its own row
cycle is the model's choice (log 44). -/
def Obligations.RowCyclesOperateLandAndStore : Prop :=
  (∀ (c e l : Nat) (d : Dword) (r : RowRun) (g : RowCfg) (s : State), Executes s c e d r g → l < 16 →
    let row := (s.core c).row
    let w := d.toNat
    let j := r.t / g.ii
    let fd := fun n => Table.getD r.fds n 0
    let keeps := fun (x : RowWrite) => x.keep.testBit l = (xf w 52 3 = 0 ∨ (row.pred e (xf w 52 3 - 4)).testBit l)
    (xf w 58 6 ∈ [1, 2, 3, 4, 5, 6, 7, 8, 9, 0x0A, 0x0B, 0x0D] →
      (xf w 58 6 = 9 → xf w 32 7 + xf w 2 3 + 2 ≤ 64) → (xf w 58 6 = 0x0A → xf w 2 3 ≤ 4) →
      Next (.rowCycle c) s (fun t => t.mem = s.mem ∧ (t.core c).row.regs = row.regs ∧ isDue t c (s.core c).cyc 4 true (.rowCycle c) ∧
        ∃ r' x, (t.core c).row.run = some r' ∧ r'.mid = true ∧ r'.t = r.t ∧ x ∈ r'.writes ∧ x.elem = e ∧ x.dst = physOf j (xf w 46 6) ∧
          x.at_ = r.t + (if xf w 58 6 ∈ [6, 7, 8] then 3 else if xf w 58 6 = 9 then xf w 2 3 + 2 else 1) - 1 ∧ keeps x ∧
          x.vals.getD l 0 = microLane row fd j e w l)) ∧
    (xf w 58 6 = 0x0C → Next (.rowCycle c) s (fun t => t.mem = s.mem ∧ ∃ r' x, (t.core c).row.run = some r' ∧ x ∈ r'.writes ∧ x.elem = e ∧
      x.dst = 64 + xf w 5 2 ∧ x.at_ = r.t ∧ keeps x ∧
      (x.vals.headD 0).testBit l = fcmpHolds (xf w 2 3) (srcVal row j e (xf w 39 7) l) (srcVal row j e (xf w 32 7) l))) ∧
    (∀ v tag q n, xf w 58 6 = 0x0F → (r.inAt g = none ∨ r.ports = []) →
      Table.get? r.slots (2 * (j - xf w 55 3) + xf w 0 1) = some (v, tag, q, n) →
      (tag = inTag w → Next (.rowCycle c) s (fun t => t.mem = s.mem ∧ ∃ r' x, (t.core c).row.run = some r' ∧ x ∈ r'.writes ∧ x.elem = e ∧
        x.dst = physOf j (xf w 46 6) ∧ x.at_ = r.t ∧ keeps x ∧ x.vals.getD l 0 = inLane (fd (xf w 9 4)) w v l)) ∧
      (∀ o, tag ≠ inTag w → s.op? r.op = some o → Next (.rowCycle c) s (fun t => t.mem = s.mem ∧ ∃ r' x, (t.core c).row.run = some r' ∧
        r'.fail = some x ∧ x.cause = 0x05))) ∧
    (xf w 58 6 = 0x10 → let b := laneWidth (xf w 2 3)
      let lo := 16 * b * xf w 5 5
      let i := j - xf w 55 3
      lo + 16 * b ≤ 2048 →
      (∀ n d', n < 8 → n ≠ e → Table.get? g.ops (n * 32 + r.t % g.ii) = some d' → xf d'.toNat 58 6 ≠ 0x10) →
      Next (.rowCycle c) s (fun t => t.mem = s.mem ∧ ∃ r', (t.core c).row.run = some r' ∧
        let old := Table.getD r.outs i 0
        let new := Table.getD r'.outs i 0
        new.toNat / 2 ^ (lo + b * l) % 2 ^ b = (if xf w 52 3 = 0 ∨ (row.pred e (xf w 52 3 - 4)).testBit l then
          outLane (fd (xf w 10 4)) row.rmxp w (srcNum row j e (xf w 39 7) l) % 2 ^ b else old.toNat / 2 ^ (lo + b * l) % 2 ^ b) ∧
        ∀ n, n < lo ∨ lo + 16 * b ≤ n → new.getLsbD n = old.getLsbD n)) ∧
    (xf w 58 6 = 0x0E → let es := (List.range 8).filter (MakesSred r g)
      let part := fun (n : Nat) => match Table.get? g.ops (n * 32 + r.t % g.ii) with
        | some d' => srcNum row j n (xf d'.toNat 39 7) l
        | none => 0
      (∀ n ∈ es, ∀ d', Table.get? g.ops (n * 32 + r.t % g.ii) = some d' → (row.source j n (xf d'.toNat 39 7)).length = 16) →
      Next (.rowCycle c) s (fun t => t.mem = s.mem ∧ e ∈ es ∧
        (∀ n ∈ es, ∃ v, (r.t + 2, n, v) ∈ (t.core c).row.ruNext ∧
          v.getD l 0 = foldOf g.redop ((if g.redop = 3 then es.filter (fun m => decide (m ≤ n)) else es).map part)) ∧
        let v := foldOf g.redop (es.map part)
        row.rmx ≤ (t.core c).row.rmx ∧ ((fp32.value v).isNan = false → v % 2 ^ 31 ≤ (t.core c).row.rmx)))) ∧
  (∀ (c e : Nat) (v : List Nat) (r : RowRun) (g : RowCfg) (s : State), RowAt s c r g false → r.fail = none → s.rowStalls c r g = false →
    (r.outAt g = none ∨ r.omode ≠ 1) → (s.core c).row.ruNext = [(r.t, e, v)] →
    Next (.rowCycle c) s (fun t => t.mem = s.mem ∧ Table.get? (t.core c).row.ru e = some v)) ∧
  (∀ (c l : Nat) (x : RowWrite) (r : RowRun) (g : RowCfg) (s : State), RowAt s c r g true → x ∈ r.writes → x.at_ = r.t → 64 ≤ x.dst → l < 16 →
    (∀ y ∈ r.writes, y.at_ = r.t → y.elem * 4 + y.dst = x.elem * 4 + x.dst → 64 ≤ y.dst → y = x) →
    let old := (s.core c).row.pred x.elem (x.dst - 64)
    Next (.rowCycle c) s (fun t => ((t.core c).row.pred x.elem (x.dst - 64)).testBit l =
      if x.keep.testBit l then (x.vals.headD 0).testBit l else old.testBit l)) ∧
  (∀ (c i : Nat) (r : RowRun) (g : RowCfg) (s : State), RowAt s c r g true → r.fail = none → r.outAt g = some i → r.omode = 3 → s.memOk →
    let q := s.queue c r.strand r.oq
    let n := q.tail % 2 ^ q.logcap
    r.oq < 16 → q.wide = true → q.base + 256 * 2 ^ q.logcap ≤ 2 ^ 22 →
    Next (.rowCycle c) s (fun t => let y := t.queue c r.strand r.oq
      y.tail = (q.tail + 1) % (2 * 2 ^ q.logcap) ∧ y.head = q.head ∧ (y.slot n).present = true ∧ (y.slot n).tag = r.otag ∧
      (∀ a, a < 256 → t.byte (keyP c (q.base + n * 256) + a) = if r.otag = 0x0D ∧ 8 ≤ a then 0 else byteOf (Table.getD r.outs i 0) a) ∧
      ∀ a, (a < keyP c (q.base + n * 256) ∨ keyP c (q.base + n * 256) + 256 ≤ a) → t.byte a = s.byte a)) ∧
  (∀ (c l : Nat) (x : RowWrite) (r : RowRun) (g : RowCfg) (s : State), RowAt s c r g true → x ∈ r.writes → x.at_ = r.t → x.dst < 64 →
    (∀ y ∈ r.writes, y.at_ = r.t → y.elem = x.elem → y = x) → x.vals.length = 16 → l < 16 →
    let old := Table.getD (s.core c).row.regs (x.elem * 64 + x.dst) zeros16
    old.length = 16 →
    Next (.rowCycle c) s (fun t => let row := (t.core c).row
      (Table.getD row.regs (x.elem * 64 + x.dst) zeros16).getD l 0 = (if x.keep.testBit l then x.vals.getD l 0 else old.getD l 0) ∧
      Table.getD row.outl x.elem zeros16 = x.vals)) ∧
  (∀ (c : Nat) (r : RowRun) (g : RowCfg) (s : State), RowAt s c r g true → r.fail = none → r.outAt g = none →
    Next (.rowCycle c) s (fun t => t.mem = s.mem ∧ ∃ r', (t.core c).row.run = some r' ∧ r'.t = r.t + 1 ∧ r'.mid = false ∧
      (r.t + 1 < (r.n + g.ns - 1) * g.ii → r'.last = false ∧ isDue t c ((s.core c).cyc + 1) 4 false (.rowCycle c)) ∧
      ((r.n + g.ns - 1) * g.ii ≤ r.t + 1 → r'.last = true ∧ ∃ due, isDue t c due 4 true (.engineComplete r.op)))) ∧
  (∀ (c i : Nat) (w : Bool) (r : RowRun) (g : RowCfg) (s : State), RowAt s c r g true → r.fail = none → r.outAt g = some i →
    r.omode = (if w then 2 else 1) → let a := (r.base : Int) + i * sval 64 r.stride
    s.addrBad c r.strand w a 256 64 = none →
    Next (.rowCycle c) s (RowStores w (cellsAt (if w then keyW (dieOf c) a.toNat else keyP c a.toNat)
      (bytesLE 256 (Table.getD r.outs i 0).toNat)) c r s)) ∧
  (∀ (c i q : Nat) (r : RowRun) (g : RowCfg) (s : State), RowAt s c r g false → r.fail = none → s.rowStalls c r g = false →
    (r.outAt g = none ∨ r.omode ≠ 1) → r.inAt g = some i → r.port0 = some q → r.port1 = none → q < 16 →
    let x := s.queue c r.strand q
    let o := s.readAt c r.strand q 0
    let n := x.head % 2 ^ x.logcap
    Next (.rowCycle c) s (fun t => (t.queue c r.strand q).head = (x.head + 1) % (2 * 2 ^ x.logcap) ∧
      ((t.queue c r.strand q).slot n).holds = (x.slot n).holds + 1 ∧ t.mem = s.mem ∧
      ∃ r', (t.core c).row.run = some r' ∧ r'.mid = true ∧ Table.get? r'.slots (2 * i) = some (BitVec.ofNat 2048 o.val, o.tag, q, n))) ∧
  (∀ (c o : Nat) (e : EngOp) (r : RowRun) (s : State), s.op? o = some e → e.core = c → e.kind = .strun → e.phase = .working →
    (s.core c).row.run = some r → r.op = o → r.last = true → (s.core c).rowStoring r = false →
    Next (.engineComplete o) s (fun t => (r.fail = none → KnotLeaves s o e .done t) ∧
      (∀ x, r.fail = some x → KnotLeaves s o e .failed t) ∧ (t.core c).row.run = none ∧ t.mem = s.mem)) ∧
  (∀ (c : Nat) (e : EngOp) (x : Trap) (r : RowRun) (g : RowCfg) (s : State), RowAt s c r g false → r.fail = some x → s.op? r.op = some e →
    Next (.rowCycle c) s (fun t => KnotLeaves s r.op e .failed t ∧ (t.core c).row.run = none ∧ t.mem = s.mem))

/-- R210, R211, R214, R217, R219, R220, R221, R222: the pump commands. That a PRE of a closed bank sets the bank's precharge time, being
timed as any PRE, is the model's choice (log 31). -/
def Obligations.PumpCommandsActOnTheirChannel : Prop :=
  PumpDoes .act (fun s t pump g v => GoesOn s t pump g v ∧ (t.pump pump).hist.acts.head? = some (s.env.ck, pBank v) ∧
    OnlyBank (s.pump pump).hist (t.pump pump).hist (pBank v) { (s.pump pump).hist.bank (pBank v) with
      opened := some (pSlot v, g.slots.getD (pSlot v) 0 % 2 ^ 14 * 32 + v / 2 ^ 16 % 32), act := some s.env.ck }) ∧
  PumpDoes .rd (fun s t pump g v => GoesOn s t pump g v ∧ (t.pump pump).hist.rd = some s.env.ck ∧ (t.pump pump).hist.col = some s.env.ck ∧
    OnlyBank (s.pump pump).hist (t.pump pump).hist (pBank v) { (s.pump pump).hist.bank (pBank v) with rd := some s.env.ck } ∧
    ∀ sl row, ((s.pump pump).hist.bank (pBank v)).opened = some (sl, row) →
      ∃ d, Moving t pump d ∧ d.op = g.op ∧ d.due = s.env.ck + (s.pump pump).rl + 18 ∧ d.route = v / 2 ^ 42 % 4 ∧ d.part = v / 2 ^ 22 % 8 ∧
        d.word = g.next ∧ d.off = g.off + pDelta v ∧ (∀ j, j < 32 → d.bytes.getD j 0 = s.byte (burstOf s pump g v row + j)) ∧
        d.dest = if v / 2 ^ 42 % 4 = 0 then keyW (dieOf g.core) (g.hdr0 % 2 ^ 31 + 32 * (v / 2 ^ 22 % 2 ^ 20)) else g.hdr0 / 2 ^ 53 % 2 ^ 10) ∧
  PumpDoes .wr (fun s t pump g v => GoesOn s t pump g v ∧ (t.pump pump).hist.wr = some s.env.ck ∧ (t.pump pump).hist.col = some s.env.ck ∧
    OnlyBank (s.pump pump).hist (t.pump pump).hist (pBank v) { (s.pump pump).hist.bank (pBank v) with wr := some s.env.ck } ∧
    ∀ sl row, ((s.pump pump).hist.bank (pBank v)).opened = some (sl, row) →
      ∃ d, Moving t pump d ∧ d.op = g.op ∧ d.due = s.env.ck + (s.pump pump).wl + 2 ∧ d.route = 3 ∧ d.dest = burstOf s pump g v row ∧
        let p := v / 2 ^ 42 % 4 == 1
        let a := (if p then g.hdr0 / 2 ^ 31 % 2 ^ 22 else g.hdr0 % 2 ^ 31) + 32 * (v / 2 ^ 22 % 2 ^ 20)
        d.bytes = s.pumpBytes g (!p) a 32) ∧
  PumpDoes .pre (fun s t pump g v => GoesOn s t pump g v ∧
    OnlyBank (s.pump pump).hist (t.pump pump).hist (pBank v) { (s.pump pump).hist.bank (pBank v) with opened := none, pre := some s.env.ck }) ∧
  PumpDoes .prea (fun s t pump g v => GoesOn s t pump g v ∧ ∀ b, b < 16 → let x := (s.pump pump).hist.bank b
    (t.pump pump).hist.bank b = if x.opened.isSome then { x with opened := none, pre := some s.env.ck } else x) ∧
  PumpDoes .refab (fun s t pump g v => GoesOn s t pump g v ∧ (t.pump pump).owed = (s.pump pump).owed - 1 ∧
    (t.pump pump).hist = { (s.pump pump).hist with refab := some s.env.ck }) ∧
  PumpDoes .refpb (fun s t pump g v => GoesOn s t pump g v ∧
    OnlyBank (s.pump pump).hist (t.pump pump).hist (pBank v) { (s.pump pump).hist.bank (pBank v) with refpb := some s.env.ck } ∧
    let m := (s.pump pump).marks ||| 2 ^ pBank v
    (s.pump pump).marks < 2 ^ 16 → (t.pump pump).owed = (if m = 2 ^ 16 - 1 then (s.pump pump).owed - 1 else (s.pump pump).owed) ∧
      (t.pump pump).marks = if m = 2 ^ 16 - 1 then 0 else m) ∧
  PumpDoes .slots (fun s t pump g v => GoesOn s t pump g v ∧
    (t.pump pump).window = some (s.env.ck + 1, s.env.ck + v / 2 ^ 16 % 2 ^ 16) ∧ (t.pump pump).hist = (s.pump pump).hist) ∧
  PumpDoes .ksig (fun s t pump g v => GoesOn s t pump g v ∧ (∃ ws, s.tailWords g (g.next + 1) 8 = .ok (some ws) ∧
      ∃ g', (t.pump pump).prog = some g' ∧ g'.phase = .tail ∧ g'.tail = ws ∧ g'.ksig = true) ∧
    { op := g.op, last := s.env.ck, fail := none, sealed := true : Ended } ∈ (t.pump pump).ended) ∧
  PumpDoes .pend (fun s t pump g _ => t.mem = s.mem ∧ (t.pump pump).prog = none ∧ (t.pump pump).window = none ∧
    (t.pump pump).queue = (s.pump pump).queue ∧
    (g.ksig = false → { op := g.op, last := s.env.ck, fail := g.fail, sealed := false : Ended } ∈ (t.pump pump).ended)) ∧
  (∀ (pump v : Nat) (w : PumpFields) (g : Prog) (x : Trap) (s : State), AtWord s pump g v (.act pump w) →
    s.cmdTrap (s.pump pump) g g.next v s.env.ck = some x → Next (.act pump w) s (fun t => t.mem = s.mem ∧
      (t.pump pump).hist = (s.pump pump).hist ∧ (t.pump pump).prog = some { g with phase := .closing, fail := some x }))

/-- R213 with R210 and R221: a word that passes the checks keeps every timing minimum and bank rule of the channel. -/
def Obligations.PassedCommandsKeepTheTimingMinima : Prop :=
  ∀ (s : State) (p : Pump) (g : Prog) (i v c : Nat), s.cmdTrap p g i v c = none →
    let cmd := pCmd v
    let b := p.hist.bank (pBank v)
    let bank := fun (n : Nat) => p.hist.bank n
    (i ≠ 2 → pDelta v ≠ 0) ∧ (∀ lo hi, p.window = some (lo, hi) → c < lo ∨ hi < c) ∧
    ((cmd = 2 ∨ cmd = 3) → b.opened.isSome = true ∧ After b.act p.tRCD c ∧ After p.hist.col p.tCCD c) ∧
    (cmd = 2 → After p.hist.wr (p.wl + 2 + p.tWTR) c) ∧ (cmd = 3 → After p.hist.rd (p.rl + 4) (c + p.wl)) ∧
    (cmd = 1 → b.opened = none ∧ After b.pre p.tRP c ∧ After b.act p.tRC c ∧ (∀ n, n < 16 → n ≠ pBank v → After (bank n).act p.tRRD c) ∧
      (p.hist.acts.filter (fun a => decide (c < a.1 + p.tFAW ∧ a.1 < c))).length ≤ 3 ∧ After p.hist.refab p.tRFCab c ∧
      After b.refpb p.tRFCpb c) ∧
    (∀ n, n < 16 → (cmd = 5 ∨ (cmd = 4 ∧ n = pBank v)) → (bank n).opened.isSome = true →
      After (bank n).act p.tRAS c ∧ After (bank n).wr (p.wl + 2 + p.tWR) c ∧ After (bank n).rd p.tRTP c) ∧
    (cmd = 6 → After p.hist.refab p.tRFCab c ∧ ∀ n, n < 16 → (bank n).opened = none ∧ After (bank n).pre p.tRP c ∧
      After (bank n).refpb p.tRFCpb c) ∧
    (cmd = 7 → b.opened = none ∧ After b.pre p.tRP c ∧ After p.hist.refab p.tRFCab c ∧ After b.refpb p.tRFCpb c) ∧
    ((cmd = 8 ∨ cmd = 15) → ∀ n, n < 16 → (bank n).opened = none)

/-- R188, R189, R214, R216, R219, R220, R222, R397: the rows of a pump beside its commands. The cycle in which a program is bound is the
model's choice (log 31). A scalar queue gets each 8 bytes laid out by TAGQ as any element of that tag (R48, R51). -/
def Obligations.PumpRowsBindDeliverAndRefresh : Prop :=
  (∀ (pump : Nat) (g g1 : Prog) (gs : List Prog) (s : State), Quiet (s.pump pump) s.env.ck → (s.pump pump).prog = none →
    (s.pump pump).queue = g :: gs → g.start < s.env.ck → s.bindProg g pump = .ok g1 →
    Next (.programStart pump) s (fun t => t.mem = s.mem ∧ (t.pump pump).queue = gs ∧ (t.pump pump).prog = some g1 ∧ g1.phase = .bound ∧
      g1.start = s.env.ck + (g.nsl + 7) / 8 ∧ g1.slots.length = g.nsl)) ∧
  (∀ (pump : Nat) (g : Prog) (s : State), Quiet (s.pump pump) s.env.ck → (s.pump pump).prog = some g → g.phase = .bound →
    (s.pump pump).owed = 0 → g.start ≤ s.env.ck → After (s.pump pump).refAt (s.pump pump).tRFCab s.env.ck → (s.pump pump).dynPre < s.env.ck →
    Next (.programStart pump) s (fun t => t.mem = s.mem ∧ ∃ g', (t.pump pump).prog = some g' ∧ g'.phase = .running ∧
      g'.start = s.env.ck ∧ g'.next = g.next ∧ g'.off = g.off ∧ g'.slots = g.slots)) ∧
  (∀ (pump id : Nat) (d : PData) (e : EngOp) (s : State), Table.get? (s.pump pump).data id = some d → d.route = 0 → d.due ≤ s.env.ck →
    s.op? d.op = some e → d.bad = none → (s.routeKeys d e).any (s.opEarly e) = false → s.poison = [] → s.memOk →
    Next (.rdDataDelivery pump id) s (fun t => ∀ a, t.byte a = written (cellsAt d.dest d.bytes) (s.byte a) a)) ∧
  (∀ (pump id : Nat) (d : PData) (e : EngOp) (s : State), Table.get? (s.pump pump).data id = some d → d.route = 1 → d.due ≤ s.env.ck →
    s.op? d.op = some e → d.bad = none → d.bytes.length = 32 → s.memOk →
    let x := s.queue e.core e.strand (d.dest % 16)
    x.wide = false → 4 ≤ x.free →
    Next (.rdDataDelivery pump id) s (fun t => let y := t.queue e.core e.strand (d.dest % 16)
      y.tail = (x.tail + 4) % (2 * 2 ^ x.logcap) ∧ ∀ i, i < 4 → let n := (x.tail + i) % (2 * 2 ^ x.logcap) % 2 ^ x.logcap
        (y.slot n).present = true ∧ (y.slot n).tag = d.dest / 16 ∧
        t.slotData e.core e.strand (d.dest % 16) n = slotLayout false ((s.strand e.core e.strand).laneBits (d.dest / 16) != 4) (d.dest / 16)
          (ofBytes ((d.bytes.drop (8 * i)).take 8)))) ∧
  (∀ (pump id : Nat) (d : PData) (s : State), Table.get? (s.pump pump).data id = some d → d.route = 3 → d.due ≤ s.env.ck →
    s.poison = [] → s.memOk →
    Next (.wrPerformed pump id) s (fun t => ∀ a, t.byte a = written (cellsAt d.dest d.bytes) (s.byte a) a)) ∧
  (∀ (pump t0 : Nat) (s : State), let p := s.pump pump
    (∀ e ∈ p.ended, e.last < s.env.ck → ∃ d ∈ p.data, d.2.op = e.op) → (∀ d ∈ p.data, s.env.ck < d.2.due) →
    p.timer = some t0 → t0 ≤ s.env.ck →
    Next (.refreshTimer pump) s (fun t => t.mem = s.mem ∧ (t.pump pump).owed = p.owed + 1 ∧
      (t.pump pump).timer = some (s.env.ck + max 1 p.tREFI) ∧ (t.pump pump).hist = p.hist ∧
      (p.owed + 1 < 9 → (t.pump pump).prog = p.prog) ∧
      (9 ≤ p.owed + 1 → ∀ g, p.prog = some g → g.phase = .running → ∃ x, (t.pump pump).prog = some
        { g with phase := .closing, guard := true, fail := some x } ∧ x.cause = 0x0D ∧ (x.aux.extractLsb' 24 4 = 0xD ∨ s.op? g.op = none)))) ∧
  (∀ (pump : Nat) (s : State), let p := s.pump pump
    Quiet p s.env.ck → p.prog = none → p.queue = [] → p.owed ≠ 0 → p.legal 6 0 s.env.ck = true → p.cmdAt ≠ some s.env.ck →
    Next (.owedRefresh pump) s (fun t => t.mem = s.mem ∧ (t.pump pump).owed = p.owed - 1 ∧
      (t.pump pump).hist = { p.hist with refab := some s.env.ck } ∧ (t.pump pump).cmdAt = some s.env.ck)) ∧
  (∀ (pump o old new row : Nat) (e : EngOp) (p : Pump) (s : State), s.pumpNext pump = some .split →
    s.splitNext pump = some (o, e, old, new, row, p) → s.op? o = some e → s.poison = [] → s.memOk →
    let ch := pump % 4
    let at_ := fun (page m n : Nat) => keyL (page * 2 ^ 18 + row * 2 ^ 13 + m * 2 ^ 7 + ch * 2 ^ 5 + n)
    Next (.dynamicTraffic pump) s (fun t => (∀ m n, m < 64 → n < 32 → t.byte (at_ new m n) = s.byte (at_ old m n)) ∧
      (∀ a, (∀ m n, m < 64 → n < 32 → a ≠ at_ new m n) → t.byte a = s.byte a) ∧
      (∃ e', t.op? o = some e' ∧ e'.next = e.next + 1 ∧ splitRows e'.vals ch = row + 1) ∧
      (e.next + 1 = 128 → isDue t e.core (s.core e.core).cyc e.strand true (.psplitCommit o)))) ∧
  (∀ (store : ScrubStore) (key : Nat) (found : ScrubFinding) (s : State),
    ((s.scrubReads store key).1 = false → Next (.patrolScrub store key found) s (fun t => t = (s.scrubReads store key).2 ∧ t.mem = s.mem)) ∧
    (store ≠ .lpddr → s.scrubReads store key = (true, s)) ∧
    (store = .lpddr → s.scrubReads store key = s.takeBursts false [key])) ∧
  (∀ (store : ScrubStore) (key : Nat) (s s0 : State), s.scrubReads store key = (true, s0) →
    Next (.patrolScrub store key .clean) s (fun t => t = s0 ∧ t.mem = s.mem ∧ t.poison = s.poison) ∧
    Next (.patrolScrub store key .corrected) s (fun t => t.mem = s.mem ∧ t.poison = s.poison ∧
      let lo := match store with | .lpddr => 0 | .vault => 8 | .scratchpad => 16
      let n := (s.die (dieOfKey key)).ras.extractLsb' lo 8
      (t.die (dieOfKey key)).ras.extractLsb' lo 8 = if n = 255 then 255 else n + 1) ∧
    Next (.patrolScrub store key .uncorrectable) s (fun t => t.mem = s.mem ∧ t.poisoned key = true ∧
      (∀ a, s.poisoned a = true → t.poisoned a = true) ∧
      let lo := match store with | .lpddr => 40 | .vault => 48 | .scratchpad => 56
      let n := (s.die (dieOfKey key)).ras.extractLsb' lo 8
      (t.die (dieOfKey key)).ras.extractLsb' lo 8 = if n = 255 then 255 else n + 1))

/-- R297, R299, R300, R301, R405: what the ports do. -/
def Obligations.PortsCheckResendTrainAndTurnKeys : Prop :=
  (∀ (p : Nat) (f : Flit) (u : BitVec 768) (s s1 : State), Arrives s p f 0 u s1 → Next (.idle p f) s (fun t => t = s1)) ∧
  (∀ (p : Nat) (f : Flit) (s : State), (s.port p).up = true → (crcPasses f = false ∨ f.seq.toNat ≠ (s.port p).rxSeq ∨ 9 < hTYPE f) →
    Next (.flitDiscarded p f) s (Discards s p false) ∧ Next (.idle p f) s (Discards s p false)) ∧
  (∀ (p : Nat) (f : Flit) (k : SealKey) (s : State), let x := s.port p
    x.up = true → x.hbh = true → crcPasses f = true → f.seq.toNat = x.rxSeq → hTYPE f = 0 → hE2E f = false → x.retry = [] → x.newEp = none →
    x.asked = none → x.prev = none → Table.get? x.keys x.epoch = some k → f.auth ≠ k.tag k.rx f.header f.payload →
    Next (.idle p f) s (Discards s p true)) ∧
  (∀ (p : Nat) (f : Flit) (u : BitVec 768) (s s1 : State), Arrives s p f 9 u s1 → let e := pay u 0 8
    (pay u 8 8 = 0 → Table.get? (s1.port p).keys e = none →
      Next (.keyControl p f) s (fun t => t = s1.modPort p (fun y => { y with asked := some e }))) ∧
    (∀ k, pay u 8 8 = 0 → Table.get? (s1.port p).keys e = some k → Next (.keyControl p f) s (fun t => let y := t.port p
      y.epoch = e ∧ y.prev = some (s1.port p).epoch ∧ y.newEp = none ∧ y.asked = none ∧
      (∃ k', Table.get? y.keys e = some k' ∧ k'.key = k.key ∧ k'.salt = k.salt ∧ k'.tx = 0 ∧ k'.rx = 0) ∧
      ((s.port p).hbh = false → ∃ g ∈ y.retry, hTYPE g = 9 ∧ pay g.payload 0 8 = e ∧ pay g.payload 8 8 = 1))) ∧
    (∀ k, pay u 8 8 = 1 → (s1.port p).newEp = some e → Table.get? (s1.port p).keys e = some k →
      Next (.keyControl p f) s (fun t => let y := t.port p
        y.epoch = e ∧ y.prev = none ∧ y.newEp = none ∧ (∃ k', Table.get? y.keys e = some k' ∧ k'.key = k.key ∧ k'.rx = 0) ∧
        ((s.port p).hbh = false → ∃ g ∈ y.retry, hTYPE g = 9 ∧ pay g.payload 0 8 = e ∧ pay g.payload 8 8 = 2))) ∧
    (pay u 8 8 = 1 → (s1.port p).newEp ≠ some e →
      ((s1.port p).epoch = e → (s1.port p).prev.isSome = true → Next (.keyControl p f) s (fun t => let y := t.port p
        y.epoch = e ∧ y.prev = none ∧
        ((s.port p).hbh = false → ∃ g ∈ y.retry, hTYPE g = 9 ∧ pay g.payload 0 8 = e ∧ pay g.payload 8 8 = 2))) ∧
      (((s1.port p).epoch ≠ e ∨ (s1.port p).prev = none) → Next (.keyControl p f) s (fun t => t = s1))) ∧
    (2 ≤ pay u 8 8 → Next (.keyControl p f) s (fun t => t = s1.modPort p (fun y => { y with prev := none })))) ∧
  (∀ (p : Nat) (seq : BitVec 12) (gs : List Flit) (g : Flit) (hs : List Flit) (s : State), let x := s.port p
    x.up = true → nakRun x seq < 16 → x.retry.take 512 = hs ++ g :: gs → g.seq = seq → (∀ h ∈ hs, h.seq ≠ seq) →
    Next (.nak p seq) s (fun t => t = s.modPort p (fun y => { y with
      naks := some (seq.toNat, nakRun x seq), sent := ((g :: gs).map resent).reverse ++ y.sent, replay := min 65535 (y.replay + (g :: gs).length) }))) ∧
  (∀ (p : Nat) (seq : BitVec 12) (s : State), (s.port p).up = true → 16 ≤ nakRun (s.port p) seq → Next (.nak p seq) s (GoesDown s p)) ∧
  (∀ (p : Nat) (k : SealKey) (s : State), let x := s.port p
    x.up = true → x.hbh = true → Table.get? x.keys x.epoch = some k → 2 ^ 48 ≤ k.tx → Next (.sealCountExhausted p) s (GoesDown s p)) ∧
  (∀ (p : Nat) (s : State), let x := s.port p
    (x.en = true → x.up = false → x.downAt + 1000000 ≤ s.env.ns →
      Next (.portRetrain p) s (fun t => t = s.modPort p (fun y => { y with train := true }))) ∧
    ((x.en = false ∨ x.up = true ∨ s.env.ns < x.downAt + 1000000) → Next (.portRetrain p) s (fun t => t = s)) ∧
    (x.en = true → x.train = true → x.up = false → x.newEp = none → Next (.portTrained p) s (fun t => t = s.modPort p (fun y => { y with
      up := true, train := false, replay := 0, crcerr := 0, autherr := 0, txSeq := 0, rxSeq := 0, retry := [], naks := none }))) ∧
    ((x.en = false ∨ x.train = false ∨ x.up = true) → Next (.portTrained p) s (fun t => t = s)))

/-- R273, R305, R306, R307, R406: requests of other modules are served, replies reach their operations, and a flit that no key of its
function for its source opens is counted and not answered. -/
def Obligations.RequestsAndRepliesCrossTheLinks : Prop :=
  (∀ (mldr : Bool) (p : Nat) (f : Flit) (u : BitVec 768) (s s1 : State), Arrives s p f (if mldr then 6 else 1) u s1 → s.fab.inq = [] →
    let row := if mldr then Instr.mldrRequest p f else .readRequest p f
    let typ := if mldr then 7 else 2
    let va := pay u 0 64
    let n := pay u 64 64
    let r : Served := { flit := f, reply := typ, va := va, len := n, bytes := [], last := true, store := u.getLsbD 128 }
    let s0 := queued s1 r
    (∀ ks v q, Toward s (hFN f) (hSRC f) (hTID f) q → ReadsAt s0 (hFN f) va n ks v → n ≤ 96 * 65535 →
      (u.getLsbD 128 = true → (v.storeRefused 0 (hFN f) va).1 = none) →
      Next row s (fun t => t.mem = s.mem ∧ t.fab.inq = [] ∧
        Queues t q typ (hSRC f) (hFN f) (hTID f) 0 (decide (n = 0)) 0 ∧
        ∀ i, i * 96 < n → Queues t q typ (hSRC f) (hFN f) (hTID f) (i + 1) (decide (n ≤ 96 * (i + 1)))
          (BitVec.ofNat 768 (ofBytes (((ks.map s.byte).drop (96 * i)).take 96))))) ∧
    (∀ x v q, Toward s (hFN f) (hSRC f) (hTID f) q → s0.readVA (hFN f) va n = (.bad x, v) →
      Next row s (fun t => t.mem = s.mem ∧ t.fab.inq = [] ∧
        ∃ w, Queues t q typ (hSRC f) (hFN f) (hTID f) 0 true w ∧ (InStatus x → FaultStatus w x))) ∧
    (∀ ks x v q, Toward s (hFN f) (hSRC f) (hTID f) q → ReadsAt s0 (hFN f) va n ks v → u.getLsbD 128 = true →
      (v.storeRefused 0 (hFN f) va).1 = some x → Next row s (fun t => t.mem = s.mem ∧ t.fab.inq = [] ∧
        ∃ w, Queues t q typ (hSRC f) (hFN f) (hTID f) 0 true w ∧ (InStatus x → FaultStatus w x))) ∧
    (∀ v, s0.readVA (hFN f) va n = (.wait, v) → Next row s (fun t => t.mem = s.mem ∧ t.fab.inq = [r]))) ∧
  (∀ (p : Nat) (f : Flit) (u : BitVec 768) (s s1 : State), Arrives s p f 3 u s1 → let key := hSRC f * 2 ^ 11 + hTID f
    (hOFS f = 0 → Next (.writeData p f) s (fun t => t.mem = s.mem ∧
      Table.get? t.fab.inb key = some { va := pay u 0 64, len := pay u 64 64, bad := none })) ∧
    ∀ (q : Nat) (x : Inbound), hOFS f ≠ 0 → s.fab.inq = [] → Table.get? s.fab.inb key = some x → x.bad = none →
      Toward s (hFN f) (hSRC f) (hTID f) q →
      let at_ := (hOFS f - 1) * 96
      let bs := unitData u at_ x.len
      let r : Served := { flit := f, reply := 0, va := x.va + at_, len := 0, bytes := bs, last := hLAST f }
      let s0 := queued s1 r
      (∀ ks, WritesAt s0 (hFN f) (x.va + at_) bs.length ks →
        Next (.writeData p f) s (fun t => t.fab.inq = [] ∧ (∀ a, t.byte a = written (ks.zip bs) (s.byte a) a) ∧
          (hLAST f = true → Queues t q 4 (hSRC f) (hFN f) (hTID f) 0 true 0) ∧
          (hLAST f = false → Table.get? t.fab.inb key = some x))) ∧
      (∀ y v, s0.writeVA (hFN f) (x.va + at_) bs = (.bad y, v) → s.poison = [] → InStatus y →
        Next (.writeData p f) s (fun t => t.mem = s.mem ∧ t.fab.inq = [] ∧ ∃ w, FaultStatus w y ∧
          (hLAST f = true → Queues t q 4 (hSRC f) (hFN f) (hTID f) 0 true w) ∧
          (hLAST f = false → Table.get? t.fab.inb key = some { x with bad := some w }))) ∧
      (∀ v, s0.writeVA (hFN f) (x.va + at_) bs = (.wait, v) → Next (.writeData p f) s (fun t => t.mem = s.mem ∧ t.fab.inq = [r]))) ∧
  (∀ (p : Nat) (f : Flit) (s : State), let x := s.port p
    x.up = true → x.retry = [] → crcPasses f = true → f.seq.toNat = x.rxSeq → hE2E f = true → hDST f = s.fab.modid →
    (s.fnFab (hFN f)).openers f = [] → Table.get? s.fab.inb (hSRC f * 2 ^ 11 + hTID f) = none → s.fab.inq = [] →
    ∀ row ∈ [Instr.readRequest p f, .writeData p f, .mldrRequest p f],
      (row = .readRequest p f → hTYPE f = 1) → (row = .writeData p f → hTYPE f = 3) → (row = .mldrRequest p f → hTYPE f = 6) →
      Next row s (fun t => t.mem = s.mem ∧ t.fab.inq = [] ∧ (t.port p).autherr = (if x.autherr < 255 then x.autherr + 1 else 255) ∧
        ∀ q, (t.port q).retry = (s.port q).retry)) ∧
  (∀ (p : Nat) (f : Flit) (u : BitVec 768) (x : Txn) (e : EngOp) (s s1 : State), Arrives s p f 2 u s1 → ForTxn s f .read x e →
    (hOFS f = 0 → pay u 0 8 = 0 → Next (.readData p f) s (fun t => t = s1)) ∧
    (hOFS f = 0 → pay u 0 8 ≠ 0 → Next (.readData p f) s (fun t => KnotLeaves s x.op e .failed t ∧ t.mem = s.mem)) ∧
    (hOFS f ≠ 0 → Next (.readData p f) s (fun t => t = s1.setTxn (hTID f)
      { x with bytes := x.bytes ++ unitData u x.bytes.length x.len, done := hLAST f || x.done }))) ∧
  (∀ (p : Nat) (f : Flit) (u : BitVec 768) (x : Txn) (e : EngOp) (s s1 : State), Arrives s p f 4 u s1 → ForTxn s f .write x e →
    (pay u 0 8 = 0 → Next (.writeAcknowledgement p f) s (fun t => t = s1.setTxn (hTID f) { x with done := true })) ∧
    (pay u 0 8 ≠ 0 → Next (.writeAcknowledgement p f) s (fun t => KnotLeaves s x.op e .failed t ∧ t.mem = s.mem))) ∧
  (∀ (p : Nat) (f : Flit) (u : BitVec 768) (x : Txn) (e : EngOp) (m : Mldr) (s s1 : State), Arrives s p f 7 u s1 → ForTxn s f .member x e →
    Table.get? s.fab.mldrs x.op = some m → let bs := x.bytes ++ unitData u x.bytes.length x.len
    (hOFS f = 0 → pay u 0 8 ≠ 0 → Next (.mldrData p f) s (fun t => KnotLeaves s x.op e .failed t ∧ t.mem = s.mem)) ∧
    (hOFS f ≠ 0 → hLAST f = false → Next (.mldrData p f) s (fun t => t = s1.setTxn (hTID f) { x with bytes := bs })) ∧
    (hOFS f ≠ 0 → hLAST f = true → Next (.mldrData p f) s (fun t => t.mem = s.mem ∧
      (∃ m', Table.get? t.fab.mldrs x.op = some m' ∧ m'.replies = Table.set m.replies x.index bs ∧ m'.members = m.members) ∧
      ((Table.set m.replies x.index bs).length = m.members.length →
        isDue t e.core ((s.core e.core).cyc + 1) e.strand false (.engineComplete x.op)))))

/-- R307, R313, R314, R406 to R410: collectives exchange and fail, and MLDRs lose their members. The layout of the control units and of the
chunks' heads is the model's choice, and so is that a sequence number that differs (R196) is found when CTMO ends, of a rank that has told
the same collective under another number, and writes no record (log 13). -/
def Obligations.CollectivesExchangeAndFail : Prop :=
  (∀ (p : Nat) (f : Flit) (u : BitVec 768) (s s1 : State), Arrives s p f 5 u s1 → let key := 2 ^ 23 + hSRC f * 2 ^ 11 + hTID f
    (hOFS f = 0 → hLAST f = false → s.collOf (hFN f) (pay u 0 32) = none → Next (.ringChunk p f) s (fun t => t = s1.modFab (fun y => { y with
      inb := Table.set y.inb key { va := pay u 0 128, len := pay u 128 64, bad := none } }))) ∧
    (∀ (h : Inbound) (o : Nat) (x : Coll), hOFS f ≠ 0 → Table.get? s.fab.inb key = some h →
      s.collOf (hFN f) (h.va % 2 ^ 32) = some (o, x) → s.coll? o = some x →
      let name := h.va / 2 ^ 32
      let old := Table.getD x.parts name []
      let bs := old ++ unitData u old.length h.len
      let w := valueBytes x name
      let q := chunkOf name (elemsOf w (bs.length / w) bs)
      (hLAST f = false → Next (.ringChunk p f) s (fun t => t = setColl s1 o { x with
        parts := Table.set x.parts name bs, since := s.env.ns })) ∧
      (hLAST f = true → bs.length = h.len → x.passOn q = (true, none) → x.heardAll = false → Hale x →
        Next (.ringChunk p f) s (fun t => t = setColl (s1.dropInb key) o { x with
          mail := x.mail ++ [q], parts := Table.erase x.parts name, since := s.env.ns })))) ∧
  (∀ (p : Nat) (f : Flit) (u : BitVec 768) (s s1 : State), Arrives s p f 8 u s1 →
    let kind := pay u 0 8
    let seq := pay u 8 32
    let r := pay u 40 12
    let ws := (List.range 5).map (fun i => u.extractLsb' (64 * (i + 1)) 64)
    (s.collOf (hFN f) seq = none → kind = 1 → Next (.collectiveControl p f) s (fun t => t = s1.modFab (fun y => { y with
      early := y.early ++ [{ fn := hFN f, seq := seq, pod := hSRC f, rank := r, words := ws, ends := pay u 52 3, at_ := s.env.ns }] }))) ∧
    (∀ (o : Nat) (x : Coll) (e : EngOp), s.collOf (hFN f) seq = some (o, x) → s.coll? o = some x → s.op? o = some e →
      (∀ rk, kind = 1 → x.ranks.Nodup → x.ranks[rk]? = some (hSRC f) → let y := heardOf x rk ws (pay u 52 3) s.env.ns
        (Hale y → y.heardAll = false → Next (.collectiveControl p f) s (fun t => t = setColl s1 o y)) ∧
        (y.fail = none → y.differs.isSome = true → y.writing = false →
          Next (.collectiveControl p f) s (fun t => KnotLeaves s o e .failed t ∧ t.mem = s.mem))) ∧
      (kind = 2 → r ∉ x.dones → x.heardAll = false → Hale x → Next (.collectiveControl p f) s (fun t => t = setColl s1 o { x with
        dones := r :: x.dones, since := s.env.ns })) ∧
      (kind = 2 → r ∉ x.dones → x.heardAll = true → Hale x → x.writing = false → x.piece = cPieces x.desc →
        ceilDiv x.result.length (2 ^ chLog (cDstBytes x.desc x.my)) ≤ x.chunks → x.my ∈ x.dones →
        Next (.collectiveControl p f) s (fun t => t.mem = s.mem ∧ t.coll? o = some { x with
            dones := r :: x.dones, since := s.env.ns } ∧
          (x.dones.length + 1 = x.ranks.length → isDue t e.core (s.core e.core).cyc e.strand true (.engineComplete o)))) ∧
      (kind = 3 → x.fail = none → x.writing = false → let w := pay u 64 64
        Next (.collectiveControl p f) s (EndsInRecord s o e x (w % 2 ^ 4) (if w.testBit 16 then some (w / 2 ^ 4 % 2 ^ 12) else none))))) ∧
  (∀ (o lrank : Nat) (x : Coll) (e : EngOp) (s : State), s.coll? o = some x → s.op? o = some e →
    let other := x.heardAll = false ∧
      ∃ q ∈ s.fab.early, q.fn = x.fn ∧ q.seq ≠ x.seq ∧ rankOf? x.ranks q.pod = some lrank ∧ q.words = collWords x.desc x.ranks
    (x.clock + s.fab.ctmo * 1000 ≤ s.env.ns → x.silent = some lrank → x.writing = false →
      (¬other → x.fail = none → Next (.collectiveTimeout o lrank) s (EndsInRecord s o e x 1 (some lrank))) ∧
      (other → Next (.collectiveTimeout o lrank) s (fun t => KnotLeaves s o e .failed t ∧ t.mem = s.mem))) ∧
    (s.env.ns < x.clock + s.fab.ctmo * 1000 → Next (.collectiveTimeout o lrank) s (fun t => t = s))) ∧
  (∀ (o n : Nat) (x : Mldr) (e : EngOp) (s : State), Table.get? s.fab.mldrs o = some x → s.op? o = some e → n < x.members.length →
    Table.get? x.replies n = none →
    (x.sent + 1000000 ≤ s.env.ns → Next (.mldrMemberTimeout o n) s (fun t => KnotLeaves s o e .failed t ∧ t.mem = s.mem)) ∧
    (s.env.ns < x.sent + 1000000 → Next (.mldrMemberTimeout o n) s (fun t => t = s)))

/-- R247 with R246, R250, R414 and R415: what a write to a task port does. That it waits behind every posted write of its function is the
model's choice (log 11: R247 leaves the writes to different ports unordered, R317 puts aperture writes before them). -/
def Obligations.TaskPortsEnterOrRefuse : Prop :=
  ∀ (fn port size : Nat) (aligned : Bool) (b : BitVec 1024) (s : State),
    let row := Instr.taskPortWrite fn port size aligned b
    let p := port % 8
    let r := portRecord b p
    (s.host.recover = true → Next row s (Counts s fn false)) ∧
    (s.host.recover = false → (s.fnHost fn).resetting = true → Next row s (fun t => t = s)) ∧
    (s.host.recover = false → (s.fnHost fn).resetting = false → (size ≠ 128 ∨ aligned = false) → Next row s (Counts s fn false)) ∧
    (s.host.recover = false → (s.fnHost fn).resetting = false → size = 128 → aligned = true →
      ((s.fnHost fn).posted = [] →
        (∀ (c : Nat) (s1 : State),
          (fn ≠ 0 ∧ p = 7 ∧ c = 0x1A ∧ s1 = s) ∨ ((fn = 0 ∨ p ≠ 7) ∧ ∃ x, s.vet fn r p = (.bad x, s1) ∧ c = x.cause) →
          (notifyOf r % 16 ≠ 0 ∨ notifyOf r = 0 → Next row s (Counts s fn false)) ∧
          (notifyOf r % 16 = 0 → notifyOf r ≠ 0 → s.disp.jobs = [] → ∀ ks, WritesAt (s1.errcnt fn false) fn (notifyOf r) 8 ks →
            Next row s (fun t => t.disp = s.disp ∧ t.host.msix.head? = some (fn, 0) ∧
              ∀ a, t.byte a = written (ks.zip (bytesLE 8 (5 * 2 ^ 32 + c * 2 ^ 40))) (s.byte a) a))) ∧
        (∀ (ps : List Nat) (s1 : State), (fn = 0 ∨ p ≠ 7) → s.disp.jobs = [] → s.vet fn r p = (.ok ps, s1) →
          Next row s (fun t => (∃ id, Entered s t fn id r p 0 false) ∧
            ∀ pg, Table.getD t.disp.refs pg 0 = Table.getD s.disp.refs pg 0 + ps.count pg)) ∧
        (∀ s1, (fn = 0 ∨ p ≠ 7) → s.vet fn r p = (.wait, s1) →
          Next row s (fun t => t = s1.modFnHost fn (fun h => { h with posted := [.port port b] })))) ∧
      (∀ (w : Posted) (ws : List Posted) (s1 : State), (s.fnHost fn).posted = w :: ws →
        (s.doPosted fn w = (true, s1) → Next row s (fun t => t = s1.doPosteds fn (ws ++ [.port port b]))) ∧
        (s.doPosted fn w = (false, s1) → Next row s (fun t => t = s1.modFnHost fn (fun h => { h with posted := w :: (ws ++ [.port port b]) })))))

/-- R270, R316, R393: the aperture, TLBINV and RESQ. That an aperture write waits behind every posted write of its function is the model's
choice (log 11, from R317). -/
def Obligations.AperturesAndInvalidations : Prop :=
  (∀ (fn off va len : Nat) (s : State), s.apertureVA fn off = some va →
    (∀ ks u, ReadsAt s fn va len ks u →
      Next (.apertureRead fn off len) s (fun t => t.host.answer = ks.map s.byte ∧ t.mem = s.mem ∧ t.disp = s.disp)) ∧
    (∀ s1, s.readVA fn va len = (.wait, s1) → Next (.apertureRead fn off len) s (fun t => t = s1)) ∧
    (∀ x s1, s.readVA fn va len = (.bad x, s1) →
      Next (.apertureRead fn off len) s (fun t => Counts s fn true t ∧ t.host.answer = List.replicate len 0xFF))) ∧
  (∀ (fn off va : Nat) (bs : List Byte) (s : State), s.apertureVA fn off = some va → (s.fnHost fn).posted = [] →
    (∀ ks, WritesAt s fn va bs.length ks →
      Next (.apertureWrite fn off bs) s (fun t => (∀ a, t.byte a = written (ks.zip bs) (s.byte a) a) ∧ t.disp = s.disp)) ∧
    (∀ s1, s.writeVA fn va bs = (.wait, s1) →
      Next (.apertureWrite fn off bs) s (fun t => t = s1.modFnHost fn (fun h => { h with posted := [.aperture va bs] }))) ∧
    (∀ x s1, s.writeVA fn va bs = (.bad x, s1) → s.poison = [] → Next (.apertureWrite fn off bs) s (Counts s fn true))) ∧
  (∀ (fn off va : Nat) (bs : List Byte) (w : Posted) (ws : List Posted) (s s1 : State), s.apertureVA fn off = some va →
    (s.fnHost fn).posted = w :: ws →
    (s.doPosted fn w = (true, s1) → Next (.apertureWrite fn off bs) s (fun t => t = s1.doPosteds fn (ws ++ [.aperture va bs]))) ∧
    (s.doPosted fn w = (false, s1) → Next (.apertureWrite fn off bs) s (fun t =>
      t = s1.modFnHost fn (fun h => { h with posted := w :: (ws ++ [.aperture va bs]) })))) ∧
  (∀ (fn off len : Nat) (bs : List Byte) (s : State), s.apertureVA fn off = none →
    Next (.apertureRead fn off len) s (fun t => Counts s fn true t ∧ t.host.answer = List.replicate len 0xFF) ∧
    Next (.apertureWrite fn off bs) s (Counts s fn true)) ∧
  (∀ (fn off : Nat) (s : State), (s.fnHost fn).apbase + off < 2 ^ 56 → s.apertureVA fn off = some ((s.fnHost fn).apbase + off)) ∧
  (∀ (fn : Nat) (s : State), let h := s.fnHost fn
    Next (.tlbinv fn) s (fun t => t = setHost s fn { h with tlbinv := true }) ∧
    (h.tlbinv = true → Next (.tlbinvComplete fn) s (fun t => t.mem = s.mem ∧ t.cores = s.cores ∧ (t.fnHost fn).tlbinv = false ∧
      ∀ d, d < 4 → (t.die d).tlb = Table.erase (s.die d).tlb fn)) ∧
    (h.tlbinv = false → Next (.tlbinvComplete fn) s (fun t => t = s)) ∧
    (h.resq = [] → Next (.resq fn) s (fun t => t = host' s { s.host with answer := List.replicate 8 0 })) ∧
    (∀ v vs, h.resq = v :: vs → Next (.resq fn) s (fun t => (t.fnHost fn).resq = vs ∧ t.mem = s.mem ∧
      t.host.answer = bytesLE 8 (2 ^ 63 + v / 2 ^ 12 % 2 ^ 45 * 2 ^ 12))))

/-- R285, R288, R318, R398, R416: the loader. That a load takes its operands as they stood at the write of LDCMD is the model's choice
(log 38: R318 says only that the write starts the request). -/
def Obligations.LoadsAndUnloads : Prop :=
  (∀ (fn : Nat) (s : State), let h := s.fnHost fn
    ((s.host.recover = true ∨ h.busy = true) →
      Next (.ldcmdLoad fn) s (fun t => t = s) ∧ Next (.ldcmdUnload fn) s (fun t => t = s)) ∧
    (s.host.recover = false → h.busy = false →
      Next (.ldcmdLoad fn) s (fun t => t = setHost s fn { h with
        ldcmd := 1, busy := true, ldreq := [h.ldobj, h.ldlen, h.ldtext, h.ldlaunch] }) ∧
      (∀ i x, s.toUnload fn h.ldhandle = some (i, x) → Next (.ldcmdUnload fn) s (fun t => RequestEnds t fn 0 0 0 ∧ t.mem = s.mem ∧
        t.codes = Table.set s.codes i { x with st := .closing })) ∧
      (s.toUnload fn h.ldhandle = none → Next (.ldcmdUnload fn) s (fun t => RequestEnds t fn 0x19 5 0 ∧ t.mem = s.mem ∧ t.codes = s.codes)))) ∧
  (∀ (fn obj len text launch : Nat) (s : State), Loading s fn obj len text launch →
    ((obj % 64 ≠ 0 ∨ text % 2 ^ 18 ≠ 0 ∨ len = 0 ∨ 2 ^ 32 ≤ len) →
      Next (.loadEnd fn) s (fun t => RequestEnds t fn 0x18 1 0 ∧ t.mem = s.mem ∧ t.codes = s.codes)) ∧
    (obj % 64 = 0 → text % 2 ^ 18 = 0 → len ≠ 0 → len < 2 ^ 32 →
      (∀ e s1, s.readVA fn obj len = (.bad e, s1) → Next (.loadEnd fn) s (fun t => RequestEnds t fn 0x0A 0 0 ∧ t.mem = s.mem ∧ t.codes = s.codes)) ∧
      (∀ s1, s.readVA fn obj len = (.wait, s1) → Next (.loadEnd fn) s (fun t => t = s1)) ∧
      ∀ bs s1, s.readVA fn obj len = (.ok bs, s1) →
        (parseObject bs = none → Next (.loadEnd fn) s (fun t => RequestEnds t fn 0x18 0 0 ∧ t.mem = s.mem ∧ t.codes = s.codes)) ∧
        ∀ o, parseObject bs = some o →
          (o.native.isSome = true → launch ≠ 0 → Next (.loadEnd fn) s (fun t => RequestEnds t fn 0x18 1 0 ∧ t.mem = s.mem ∧ t.codes = s.codes)) ∧
          ((o.native.isSome = false ∨ launch = 0) →
            (∀ n, accepted s.host.slots o bs = .error n → Next (.loadEnd fn) s (fun t => RequestEnds t fn 0x19 n 0 ∧ t.mem = s.mem ∧ t.codes = s.codes)) ∧
            ∀ m, accepted s.host.slots o bs = .ok m → let n := ceilDiv (m.text.length / 64) 4096
              (s1.textReady fn text n = false → Next (.loadEnd fn) s (fun t => RequestEnds t fn 0x0A 1 0 ∧ t.mem = s.mem ∧ t.codes = s.codes)) ∧
              (s1.textReady fn text n = true → (s.freeCode = none ∨ ∃ d ∈ s.serving, s.freeText d n = none) →
                Next (.loadEnd fn) s (fun t => RequestEnds t fn 0x1B 0 0 ∧ t.mem = s.mem ∧ t.codes = s.codes)) ∧
              (∀ s2, s1.loadImage fn o m bs text launch = (.wait, s2) → Next (.loadEnd fn) s (fun t => t = s2)) ∧
              (∀ c e s2, s1.loadImage fn o m bs text launch = (.fail c e, s2) →
                Next (.loadEnd fn) s (fun t => RequestEnds t fn c e 0 ∧ t.codes = s.codes)) ∧
              (∀ handle s2, s1.loadImage fn o m bs text launch = (.ok handle, s2) → Next (.loadEnd fn) s (fun t =>
                RequestEnds t fn 0 0 handle ∧ ∃ i x, 0 < i ∧ i < 4096 ∧ Table.get? s.codes i = none ∧
                  handle = i + x.gen * 2 ^ 12 + 2 ^ 28 + 2 ^ 29 ∧ t.codes = Table.set s.codes i x ∧ x.fn = fn ∧ x.st = .loaded ∧
                  x.gen = Table.getD s.gens i 0 ∧ x.nb = m.text.length / 64 ∧ x.entries = m.entries ∧ x.textva = text ∧
                  (s.memOk → ∀ d ∈ s.serving, (Table.getD x.pages d []).length = n ∧ ∀ j, j < 64 * x.nb →
                    t.byte (keyW d (textPageW ((Table.getD x.pages d []).getD (j / 2 ^ 18) 0) + j % 2 ^ 18)) = m.text.getD j 0)))))) ∧
  (∀ (i : Nat) (x : Code) (s : State), Table.get? s.codes i = some x → x.st = .closing →
    (s.named i x = true → Next (.unloadComplete i) s (fun t => t = s)) ∧
    (s.named i x = false → Table.wf s.codes = true → Next (.unloadComplete i) s (fun t => Table.get? t.codes i = none ∧
      Table.getD t.gens i 0 = (x.gen + 1) % 2 ^ 16 ∧
      ((∀ y ∈ s.codes, y.2.st = .loaded → ∀ d ∈ s.serving, (Table.get? y.2.pages d).isSome = true) →
        t.codes = Table.erase s.codes i ∧ ∀ d, d < 4 → (t.die d).tlb = Table.erase (s.die d).tlb x.fn)))) ∧
  (∀ (die page i j d p : Nat) (x : Code) (ds : List Nat) (s : State), die < 4 → d < 4 → page < 192 → s.codes = [(i, x)] →
    (Table.getD x.pages die [])[j]? = some page → (Table.getD x.pages die []).Nodup →
    s.serving.filter (fun n => n != die) = d :: ds → (Table.getD x.pages d [])[j]? = some p → s.firstPoison (pageUnits d p) = none →
    (s.firstPoison (pageUnits die page)).isSome = true → s.memOk →
    Next (.textPageRepair die page) s (fun t => (t.die die).badText.contains page = false ∧ ∀ n, n < 2 ^ 18 →
      t.byte (keyW die (textPageW page) + n) = s.byte (keyW d (textPageW p) + n) ∧ t.poisoned (keyW die (textPageW page) + n) = false)) ∧
  (∀ (s : State), Next .wellheadWatchdog s (fun t => t.mem = s.mem ∧ t.disp = s.disp ∧ t.pumps = s.pumps ∧ t.fab = s.fab ∧
    ∀ fn, (s.fnHost fn).busy = true → let h := t.fnHost fn
      h.busy = false ∧ h.ldreq = [] ∧ h.ldstat = 0x16 ∧ h.ldresult = 0))

/-- R298, R301, R303, R304, R316, R318, R319, R320, R323, R327, R328, R412, R415: the registers that the host writes and reads. That a write of
the epoch in use to PCTL starts nothing (log 36) and that an access of another size or alignment than a register's changes nothing (log 11)
are the model's choice, and so is that a write of DSPCFG with a field of 0 changes neither field (log 37). -/
def Obligations.HostRegistersTakeTheirWrites : Prop :=
  (∀ (s : State),
    Answers s .bar4 0 s.fab.modid ∧ Answers s .bar4 8 s.fab.ctmo ∧ Answers s .bar4 0x10 s.disp.cfg.toNat ∧
    (∃ n, Answers s .bar4 0x18 n ∧ (∀ d, d < 4 → n / 2 ^ (3 * d) % 8 = (match (s.die d).state with
        | .off => 0 | .testing => 1 | .vector => 2 | .full => 3 | .failed => 4)) ∧
      n.testBit 12 = s.host.redclk ∧ n.testBit 13 = s.host.fwok ∧ n < 2 ^ 14) ∧
    Answers s .bar4 0x400 (2 ^ 63 + 0x3FFF * 2 ^ 32) ∧
    (∀ p, p < 24 → let x := s.port p
      (∃ n, Answers s .bar4 (0x700 + 8 * p) n ∧ n.testBit 0 = x.en ∧ n.testBit 1 = x.hbh ∧ n.testBit 2 = x.up ∧ n.testBit 3 = x.down ∧
        n / 2 ^ 4 % 2 ^ 8 = x.epoch % 2 ^ 8 ∧ n / 2 ^ 12 % 2 ^ 4 = 0 ∧ n / 2 ^ 16 % 2 ^ 8 = x.autherr % 2 ^ 8 ∧ n / 2 ^ 24 % 2 ^ 8 = 0 ∧
        n / 2 ^ 32 % 2 ^ 16 = x.crcerr % 2 ^ 16 ∧ n / 2 ^ 48 = x.replay % 2 ^ 16) ∧
      (∀ i, i < 8 → i ≠ 5 → Answers s .bar4 (0x4000 + 64 * p + 8 * i) 0) ∧
      (∃ n, Answers s .bar4 (0x4000 + 64 * p + 0x28) n ∧ n % 2 ^ 9 = x.nepoch % 2 ^ 8 ∧
        n.testBit 9 = (Table.get? x.keys x.nepoch).isSome ∧ n < 2 ^ 10)) ∧
    (∀ d, d < 4 → Answers s .bar4 (0xA00 + 8 * d) (s.die d).mxret.toNat ∧ Answers s .bar4 (0xA20 + 8 * d) (s.die d).ras.toNat) ∧
    (∀ p, p < 96 → Answers s .bar4 (0x2000 + 16 * p) (s.pump p).tima.toNat ∧ Answers s .bar4 (0x2008 + 16 * p) (s.pump p).timb.toNat) ∧
    (∀ m, m < 4096 → Answers s .bar4 (0x8000 + 8 * m) (Table.getD s.fab.routes m 0).toNat) ∧
    (∀ off, off % 8 = 0 → (0x18 < off ∧ off < 0x100 ∨ 0x308 ≤ off ∧ off < 0x400 ∨ 0x608 ≤ off ∧ off < 0x700 ∨
        0x7C0 ≤ off ∧ off < 0x800 ∨ 0xA40 ≤ off ∧ off < 0x1000 ∨ 0x1820 ≤ off ∧ off < 0x2000 ∨ 0x2600 ≤ off ∧ off < 0x3000 ∨
        0x3800 ≤ off ∧ off < 0x4000 ∨ 0x4600 ≤ off ∧ off < 0x8000 ∨ 0x10000 ≤ off) →
      Answers s .bar4 off 0) ∧
    ∀ fn, fn < 65 → let h := s.fnHost fn
      Answers s (.bar0 fn) 0x2000 (if h.tlbinv then 1 else 0) ∧ Answers s (.bar0 fn) 0x2010 h.errcnt.toNat ∧
      Answers s (.bar0 fn) 0x2018 h.apbase ∧ (∀ i, i < 5 → Answers s (.bar0 fn) (0x3000 + 8 * i) 0) ∧
      Answers s (.bar0 fn) 0x3028 (s.fnFab fn).ekcmd.toNat ∧ Answers s (.bar0 fn) 0x8000 h.trsel ∧
      (s.host.recover = false → Answers s (.bar0 fn) 0x10F0 h.ldresult.toNat ∧
        Answers s (.bar0 fn) 0x10F8 (h.ldstat % 2 ^ 12 + if h.busy then 2 ^ 63 else 0)) ∧
      (let x := (s.core h.trsel).trace
       (x.owner = fn → (∀ i, i < 4096 → let e := Table.getD x.buf i (0, 0)
          Answers s (.bar0 fn) (0x10000 + 16 * i) e.1.toNat ∧ Answers s (.bar0 fn) (0x10008 + 16 * i) e.2.toNat) ∧
        ∃ n, Answers s (.bar0 fn) 0x8008 n ∧ n % 2 ^ 7 = fn ∧ n.testBit 7 = x.armed.isSome ∧ n.testBit 8 = x.frozen ∧
          n / 2 ^ 12 = x.wptr % 2 ^ 12) ∧
       (x.owner ≠ fn → Answers s (.bar0 fn) 0x8008 0 ∧ ∀ i, i < 8192 → Answers s (.bar0 fn) (0x10000 + 8 * i) 0))) ∧
  (∀ (w : Window) (off : Nat) (s : State), off % 8 ≠ 0 → takeTurn (.hostRead w off) s = .next s) ∧
  (∀ (fn : Nat) (s : State), fn < 65 → ∃ t, takeTurn (.hostRead (.bar0 fn) 0x2008) s = .next t ∧ exec (.resq fn) s = .next t) ∧
  (∀ (fn peer : Nat) (s : State), let x := s.fnFab fn
    let pod := peer % 2 ^ 12
    let busy := x.ekcmd.getLsbD 63
    (busy = true → Next (.ekcmdInstall fn peer) s (fun t => t = s) ∧ Next (.ekcmdRemove fn peer) s (fun t => t = s)) ∧
    (busy = false →
      Next (.ekcmdInstall fn peer) s (fun t => (t.fnFab fn).keys = x.keys ∧
        let bad := decide (pod = s.fab.modid) || decide (256 ≤ x.keys.length)
        EkFields (t.fnFab fn).ekcmd (!bad) bad 1 pod) ∧
      Next (.ekcmdRemove fn peer) s (fun t => (t.fnFab fn).keys = x.keys ∧
        let bad := decide (pod = s.fab.modid)
        EkFields (t.fnFab fn).ekcmd (!bad) bad 2 pod)) ∧
    (EkFields x.ekcmd true false 1 pod → s.reducing fn pod = true → Next (.ekcmdEffect fn) s (fun t => t = s)) ∧
    (EkFields x.ekcmd true false 1 pod → s.reducing fn pod = false → Next (.ekcmdEffect fn) s (fun t =>
      EkFields (t.fnFab fn).ekcmd false false 1 pod ∧ (t.fnFab fn).era = x.era + 1 ∧
      (t.fnFab fn).keys = Table.set x.keys pod { key := x.ekey, salt := x.eksalt, tx := 0, rx := 0, born := x.era + 1 } ∧
      ∀ k, s.anyOp fn = true → Table.get? x.keys pod = some k → ⟨pod, k, x.era + 1⟩ ∈ (t.fnFab fn).past)) ∧
    (EkFields x.ekcmd true false 2 pod → Next (.ekcmdEffect fn) s (fun t =>
      EkFields (t.fnFab fn).ekcmd false false 2 pod ∧ (t.fnFab fn).era = x.era + 1 ∧ (t.fnFab fn).keys = Table.erase x.keys pod ∧
      ∀ k, s.anyOp fn = true → Table.get? x.keys pod = some k → ⟨pod, k, x.era + 1⟩ ∈ (t.fnFab fn).past))) ∧
  (∀ (fn c owner : Nat) (s : State),
    ((s.core (s.fnHost fn).trsel).trace.owner = fn → Next (.trcctlUnfreeze fn) s (fun t => t = s.modCore (s.fnHost fn).trsel (fun x =>
      { x with trace := { x.trace with frozen := false } }))) ∧
    ((s.core (s.fnHost fn).trsel).trace.owner ≠ fn → Next (.trcctlUnfreeze fn) s (fun t => t = s)) ∧
    (c < 256 → Next (.trcctlOwnerWrite c owner) s (fun t => let x := (t.core c).trace
      x.owner = owner % 2 ^ 7 ∧ x.buf = [] ∧ x.wptr = 0 ∧ x.frozen = false ∧ x.armed = none ∧ x.post = none ∧
      (t.core c).strands = (s.core c).strands ∧ t.mem = s.mem)) ∧
    (256 ≤ c → Next (.trcctlOwnerWrite c owner) s (fun t => t = s))) ∧
  (∀ (p e : Nat) (s : State), p < 24 → e < 256 → let x := s.port p
    (e = x.epoch → Next (.hctlInstall p e) s (fun t => t = s.modPort p (fun y => { y with nepoch := e }))) ∧
    (e ≠ x.epoch → x.asked ≠ some e → Table.wf x.keys = true → Next (.hctlInstall p e) s (fun t => let y := t.port p
      y.nepoch = e ∧ y.epoch = x.epoch ∧ Table.get? y.keys e = some { key := x.hkey, salt := x.hsalt, tx := 0, rx := 0 } ∧
      Table.get? y.keys x.epoch = Table.get? x.keys x.epoch ∧ (∀ n, n ≠ e → n ≠ x.epoch → Table.get? y.keys n = none) ∧
      ∀ n, y.newEp = some n ↔ x.newEp = some n ∧ n = e)) ∧
    (∀ k, e ≠ x.epoch → Table.get? x.keys e = some k → Next (.pctlEpochWrite p e) s (fun t => (t.port p).newEp = some e ∧
      (t.port p).epoch = x.epoch ∧ t.mem = s.mem)) ∧
    ((e = x.epoch ∨ Table.get? x.keys e = none) → Next (.pctlEpochWrite p e) s (fun t => t = s))) ∧
  (∀ (i : Nat) (v : Dword) (s : State), i < 64 → let pod := (v.extractLsb' 0 12).toNat
    let route := Table.getD s.fab.routes pod 0
    let hops := (route.extractLsb' 24 5).toNat
    let usable := pod = s.fab.modid ∨ (hops ≠ 0 ∧ hops ≤ 3 ∧ route.extractLsb' 0 24 ≠ 0)
    ((v.getLsbD 63 = true → usable) → Next (.domtabWrite i v) s (fun t => t = fab' s { s.fab with
      dom := Table.set s.fab.dom i (v &&& 0x8000000000000FFF) })) ∧
    (v.getLsbD 63 = true → ¬usable → Next (.domtabWrite i v) s (fun t => (Table.getD t.fab.dom i 0).getLsbD 63 = false))) ∧
  (∀ (w : Window) (off : Nat) (v : Dword) (s : State), off % 8 ≠ 0 → Next (.registerWrite w off v) s (fun t => t = s)) ∧
  (∀ (v : Dword) (s : State), let n := v.toNat
    Bar4 0 v s (fab' s { s.fab with modid := n % 2 ^ 12 }) ∧ Bar4 8 v s (fab' s { s.fab with ctmo := n }) ∧
    (v.extractLsb' 0 32 ≠ 0 → v.extractLsb' 32 32 ≠ 0 → let u := disp' s { s.disp with cfg := v }
      Bar4 0x10 v s (disp' u { u.disp with tasks := u.disp.tasks.map (fun p => (p.1,
        { p.2 with passed := p.2.passed.filter (fun x => x.2 == u.effPrio p.2) })) })) ∧
    ((v.extractLsb' 0 32 = 0 ∨ v.extractLsb' 32 32 = 0) → Bar4 0x10 v s s) ∧
    (∀ f, f < 65 → Bar4 (0x100 + 8 * f) v s (disp' s { s.disp with fns := Table.set s.disp.fns f (v &&& 0x3FFFFFF) })) ∧
    Bar4 0x400 v s s ∧
    (∀ f, 1 ≤ f → f < 65 → Bar4 (0x400 + 8 * f) v s (host' s { s.host with prwin := Table.set s.host.prwin f (v &&& 0x80003FFF00003FFF) })) ∧
    (∀ i, i < 260 → Bar4 (0x1000 + 8 * i) v s (host' s { s.host with ptroot := Table.set s.host.ptroot i (n / 2 ^ 12 % 2 ^ 29 * 2 ^ 12) })) ∧
    (∀ m, m < 4096 → Bar4 (0x8000 + 8 * m) v s (fab' s { s.fab with routes := Table.set s.fab.routes m (v &&& 0x1FFFFFFF) })) ∧
    (∀ p, p < 96 → (s.pump p).prog = none → (s.pump p).queue = [] → Bar4 (0x2000 + 16 * p) v s (s.modPump p (fun x => { x with tima := v })) ∧
      Bar4 (0x2008 + 16 * p) v s (s.modPump p (fun x => { x with timb := v }))) ∧
    (∀ p, p < 96 → ((s.pump p).prog.isSome = true ∨ (s.pump p).queue ≠ []) → Bar4 (0x2000 + 16 * p) v s s ∧ Bar4 (0x2008 + 16 * p) v s s) ∧
    Bar4 0x18 v s s ∧ (∀ off, 0x2600 ≤ off → off < 0x3000 → off % 8 = 0 → Bar4 off v s s) ∧
    (∀ fn, fn < 65 → let h := s.fnHost fn
      Bar0 fn 0x2018 v s (setHost s fn { h with apbase := n / 2 ^ 36 % 2 ^ 21 * 2 ^ 36 }) ∧
      Bar0 fn 0x8000 v s (setHost s fn { h with trsel := n % 2 ^ 8 }) ∧ Bar0 fn 0x2008 v s s ∧ Bar0 fn 0x2010 v s s ∧
      (s.host.recover = false →
        Bar0 fn 0x1008 v s (setHost s fn { h with ldobj := n }) ∧ Bar0 fn 0x1010 v s (setHost s fn { h with ldlen := n }) ∧
        Bar0 fn 0x1018 v s (setHost s fn { h with ldtext := n }) ∧ Bar0 fn 0x1020 v s (setHost s fn { h with ldlaunch := n }) ∧
        Bar0 fn 0x1028 v s (setHost s fn { h with ldhandle := n }))) ∧
    (s.host.recover = true → Bar0 0 0x1000 v s (host' s { s.host with rcvaddr := n }) ∧ Bar0 0 0x1008 v s (host' s { s.host with rcvlen := n }))) ∧
  (∀ (s : State),
    (s.host.recover = true → s.host.rcvctl = false → Next .rcvctlGo s (fun t => t = host' s { s.host with rcvctl := true, rcvstat := 1 })) ∧
    ((s.host.recover = false ∨ s.host.rcvctl = true) → Next .rcvctlGo s (fun t => t = s)) ∧
    ∀ r, (s.host.recover = true → s.host.rcvctl = true → Next (.recoveryUpdateEnd r) s (fun t => t = host' s { s.host with
        rcvctl := false
        rcvstat := match r with | .readFailed => 0x12 | .signatureFailed => 0x22 | .tooLong => 0x32 | .flashWriteFailed => 0x42 | .written => 3
        flash := match r with | .flashWriteFailed => false | .written => true | _ => s.host.flash })) ∧
      ((s.host.recover = false ∨ s.host.rcvctl = false) → Next (.recoveryUpdateEnd r) s (fun t => t = s)))

/-- R270, R272, R414: what PCIe answers. -/
def Obligations.HostPagesAndLinesFollowTheirAnswers : Prop :=
  (∀ (fn page : Nat) (s : State),
    (∀ w, PageIs s fn page (.pri w) →
      Next (.priResponse fn page .success) s (fun t => t = pageTo s fn page (.again w)) ∧
      Next (.priResponse fn page .invalidRequest) s (fun t => t = pageTo s fn page (.refused 16)) ∧
      Next (.priResponse fn page .responseFailure) s (fun t => (t.fnHost fn).priStop = true ∧ t.mem = s.mem ∧
        (t.fnHost fn).pages = Table.set (s.fnHost fn).pages page (.refused 16)) ∧
      Next (.priTimeout fn page) s (fun t => t = pageTo s fn page (.refused 16))) ∧
    (∀ r w, (PageIs s fn page .ats → Next (.atsCompletion fn page (.granted r w)) s (fun t => t = pageTo s fn page (.held r w none))) ∧
      (∀ k, PageIs s fn page (.again k) → Next (.atsCompletion fn page (.granted r w)) s (fun t => t = pageTo s fn page (.held r w (some k)))) ∧
      ∀ a, (s.fnHost fn).resetting = false → Table.get? (s.fnHost fn).pages page = some (.held r w a) →
        Next (.atsInvalidation fn page) s (fun t => t = setHost s fn { s.fnHost fn with pages := Table.erase (s.fnHost fn).pages page })) ∧
    ((PageIs s fn page .ats ∨ ∃ k, PageIs s fn page (.again k)) →
      Next (.atsCompletion fn page .error) s (fun t => t = pageTo s fn page (.refused 0)))) ∧
  (∀ (fn page : Nat) (code : PriCode) (ans : AtsAnswer) (s : State),
    ((s.fnHost fn).resetting = true ∨ Table.get? (s.fnHost fn).pages page = none) →
    Next (.priResponse fn page code) s (fun t => t = s) ∧ Next (.priTimeout fn page) s (fun t => t = s) ∧
    Next (.atsCompletion fn page ans) s (fun t => t = s)) ∧
  (∀ (fn page level : Nat) (w : Bool) (s : State), let h := s.fnHost fn
    let a := page * 4096
    ((h.atsOn = false ∨ h.bme = false) → s.hostLeaf fn a level w = (.fail 0x0A level, s)) ∧
    (h.atsOn = true → h.bme = true →
      (Table.get? h.pages page = none → s.hostLeaf fn a level w = (.wait, pageTo s fn page .ats)) ∧
      (∀ x, Table.get? h.pages page = some x → (x = .ats ∨ ∃ k, x = .pri k ∨ x = .again k) → s.hostLeaf fn a level w = (.wait, s)) ∧
      (∀ aux, Table.get? h.pages page = some (.refused aux) →
        s.hostLeaf fn a level w = (.fail 0x0A (aux + level), setHost s fn { h with pages := Table.erase h.pages page })) ∧
      (∀ r wr k, Table.get? h.pages page = some (.held r wr k) → (if w then wr else r) = true →
        s.hostLeaf fn a level w = (.ok (keyH a), if k = some w then pageTo s fn page (.held r wr none) else s)) ∧
      (∀ r wr k, Table.get? h.pages page = some (.held r wr k) → k ≠ some w → (if w then wr else r) = false →
        s.hostLeaf fn a level w = if h.priStop then (.fail 0x0A (16 + level), s)
          else if h.asking < h.prAlloc then (.wait, pageTo s fn page (.pri w)) else (.wait, s)) ∧
      (∀ r wr, Table.get? h.pages page = some (.held r wr (some w)) → (if w then wr else r) = false →
        s.hostLeaf fn a level w = (.fail 0x0A (16 + level), pageTo s fn page (.held r wr none))))) ∧
  (∀ (fn addr : Nat) (ok bad : Bool) (bs : List Byte) (s : State), let line := addr / 64 * 64
    (LineAsked s fn line →
      Next (.hostReadCompletion fn addr ok bad bs) s (fun t => t = setHost s fn { s.fnHost fn with
        reads := Table.set (s.fnHost fn).reads line (some (bs, ok, bad)) }) ∧
      Next (.hostReadTimeout fn addr) s (fun t => t = setHost s fn { s.fnHost fn with
        reads := Table.set (s.fnHost fn).reads line (some ([], true, true)) })) ∧
    (¬LineAsked s fn line → Next (.hostReadCompletion fn addr ok bad bs) s (fun t => t = s) ∧ Next (.hostReadTimeout fn addr) s (fun t => t = s))) ∧
  (∀ (fn : Nat) (ats bme : Bool) (s : State),
    Next (.priReset fn) s (fun t => t = setHost s fn { s.fnHost fn with priStop := false }) ∧
    Next (.atsOrBusMasterEnable fn ats bme) s (fun t => t = setHost s fn { s.fnHost fn with atsOn := ats, bme := bme }))

/-- R212, R220, R286, R289, R321, R322, R323, R324, R413: resets, dies entering service, clocks. The model's choice (log 4, 40): memory and
poison are kept and CK is 0 after a module reset, the enables of a function outlive its reset, the dies enter service from the lowest on, and
owed refreshes, marks and the timer of a pump start with its die. -/
def Obligations.ResetsDiesAndClocks : Prop :=
  (∀ (img : Bool) (s : State), Next (.moduleReset img) s (ModuleIsReset s (img && s.host.flash)) ∧
    Next (.functionLevelReset 0) s (ModuleIsReset s (s.host.flash && (s.host.fwok || s.host.rcvstat == 3)))) ∧
  (∀ (v : Nat) (s : State), 1 ≤ v → v ≤ 64 → Table.wf s.disp.tasks = true → s.disp.jobs = [] → Next (.functionLevelReset v) s (fun t =>
    t.mem = s.mem ∧ t.host.msix = s.host.msix ∧ (∀ p ∈ t.disp.tasks, p.1 / 2 ^ 18 ≠ v) ∧
    (∀ x ∈ t.codes, x.2.fn = v → x.2.st = .closing) ∧ t.fab.fns = Table.erase s.fab.fns v ∧ t.host.ptroot = s.host.ptroot ∧
    t.fnHost v = { atsOn := (s.fnHost v).atsOn, bme := (s.fnHost v).bme, priStop := (s.fnHost v).priStop, prAlloc := (s.fnHost v).prAlloc,
                   resetting := s.codes.any (fun x => x.2.fn == v) })) ∧
  (∀ (v : Nat) (s : State), 64 < v → Next (.functionLevelReset v) s (fun t => t = s)) ∧
  (∀ (d : Nat) (s : State), s.host.fwok = true → d < 4 → Waits s d → (∀ n, n < d → ¬Waits s n) →
    Next (.dieEntersService d) s (fun t => (t.die d).state = .vector ∧ (∀ n, n ≠ d → (t.die n).state = (s.die n).state) ∧
      ((∀ n, n < 4 → n ≠ d → ¬Waits s n) → t.host.redclk = false) ∧
      (∀ n, n < 4 → n ≠ d → Waits s n → t.host.redclk = s.host.redclk) ∧
      (∀ p, p < 24 → let x := s.pump (24 * d + p)
        t.pump (24 * d + p) = { x with owed := 0, marks := 0, timer := some (s.env.ck + x.tREFI) }) ∧
      (∀ p, (p < 24 * d ∨ 24 * d + 24 ≤ p) → t.pump p = s.pump p) ∧
      ∀ i x ps b, s.codes = [(i, x)] → x.st = .loaded → Table.get? x.pages d = none → s.serving.find? (s.goodCopy x) = some b →
        s.freeText d (ceilDiv x.nb 4096) = some ps → t.codes = [(i, { x with pages := Table.set x.pages d ps })])) ∧
  (∀ (d : Nat) (s : State), (s.host.fwok = false ∨ 4 ≤ d ∨ ¬Waits s d ∨ ∃ n, n < d ∧ Waits s n) →
    Next (.dieEntersService d) s (fun t => t = s)) ∧
  (∀ (d : Nat) (pass : Bool) (s : State),
    ((s.die d).state = .vector → Next (.matrixSelfTestEnd d pass) s (fun t => (t.die d).state = (if pass then .full else .failed) ∧
      (∀ n, n ≠ d → t.die n = s.die n) ∧ t.mem = s.mem ∧ t.cores = s.cores ∧
      t.codes = if pass then s.codes else s.codes.map (fun c => (c.1, { c.2 with pages := Table.erase c.2.pages d })))) ∧
    ((s.die d).state ≠ .vector → Next (.matrixSelfTestEnd d pass) s (fun t => t = s))) ∧
  (∀ (c mhz : Nat) (s : State), let fits := c < 256 ∧ mhz % 100 = 0 ∧ 800 ≤ mhz ∧ mhz ≤ if s.host.redclk then 1200 else 2400
    (fits → Next (.clockChange c mhz) s (fun t => t = s.modCore c (fun x => { x with clk := mhz }))) ∧
    (¬fits → Next (.clockChange c mhz) s (fun t => t = s)))

/-- R10, R32, R36, R44, R103, R212, R252, R319, R323, R327: what module reset leaves. The registers named here have a reset value in the
spec's tables; what the spec gives none is in log entries 4 and 5 and is not stated. -/
def Obligations.ResetLeavesTheListedValues : Prop :=
  (∀ c k, let t := State.reset.strand c k
    t.live = false ∧ (∀ q, (t.queue q).en = false) ∧ (∀ n, n < 16 → t.knot n = .idle ∧ t.fd n = 0x00077430) ∧
    t.ctx.wlimit = 0x00100000) ∧
  (∀ c, ((State.reset.core c).trace.classes = 0 ∧ (State.reset.core c).trace.owner = 0 ∧ (State.reset.core c).trace.frozen = false) ∧
    (State.reset.core c).clk = 1200 ∧ (State.reset.core c).row.run = none ∧ (State.reset.core c).row.cfg = none) ∧
  (∀ d, (State.reset.die d).state = .off ∧ (State.reset.die d).mxret = 0) ∧ State.reset.host.redclk = true ∧
  State.reset.host.fwok = false ∧
  (∀ p, (State.reset.pump p).tima = 0x2E02140550381818 ∧ (State.reset.pump p).timb = 0x516176BB180C0A10 ∧ (State.reset.pump p).owed = 0 ∧
    (State.reset.pump p).prog = none) ∧
  State.reset.disp.cfg = 0x000000C8000003E8 ∧ State.reset.disp.tasks = [] ∧ State.reset.codes = [] ∧ State.reset.fab.ctmo = 1000000 ∧
  (∀ r, Table.get? State.reset.fab.routes r = none) ∧ (∀ p, (Table.getD State.reset.fab.ports p {}).up = false) ∧
  ∀ fn, let h := State.reset.fnHost fn
    h.trsel = 0 ∧ h.tlbinv = false ∧ h.resq = [] ∧ h.errcnt = 0 ∧ h.busy = false

/-- The memory of State.reset is in its canonical form, and every byte of it reads as an unlisted one (log entry 5). -/
def Obligations.ResetMemoryIsCanonical : Prop := State.reset.memOk ∧ ∀ a, State.reset.byte a = Memory.dflt

/-- R20, R21, R26, R27, R58, R67: a step takes the head of the agenda, or a cycle of the selected core; a core's cycle runs the instruction
that the bytes at the strand's PC decode to, or the syllables of its bundle in slot order. The agenda is the model's own (log entry 1). -/
def Obligations.StepRunsTheDecodedInstruction : Prop :=
  (∀ s : State, s.env.agenda = [] → step s = takeTurn (.core s.env.sel) s) ∧
  (∀ (t : Turn) (ts : List Turn) (s : State), s.env.agenda = t :: ts → step s = takeTurn t (s.modEnv (fun e => { e with agenda := ts }))) ∧
  (∀ (i : Instr) (s : State), external i = true → takeTurn (.row i) s = exec i s) ∧
  (∀ (i : Instr) (s : State), external i = false → takeTurn (.row i) s = .next s) ∧
  (∀ (c : Nat) (s : State), 256 ≤ c → takeTurn (.core c) s = .fault .noSuchCore) ∧
  (∀ (c k : Nat) (ws : List Word) (i : Instr) (s : State), QuietCore c k s → FetchesWords c k ws s → decode ws = some i →
    (∀ a, (atCycle c s).verdict c k ≠ .held a) →
    takeTurn (.core c) s = andThen (andThen (exec i ((atCycle c s).withWords c k ws)) (issueCount c)) (afterIssue c k (s.strand c k).kernel)) ∧
  (∀ (c k : Nat) (ws : List Word) (b : Bundle) (s : State), QuietCore c k s → FetchesWords c k ws s → decodeBundle ws = .ok b →
    b.single = none → (atCycle c s).verdict c k = .ok →
    let us := Bundle.uses b
    let s1 := ((atCycle c s).withWords c k ws).begin c k us
    takeTurn (.core c) s = andThen (andThen (andThen (execAll (us.map Use.i) (s1.modBundle (fun x => { x with admitted := true })))
      (fun u => let r := (u.modBundle (fun x => { x with admitted := false })).retireBundle c k us
        .next (if b.yield then r.modIssue c (fun x => { x with handOver := true }) else r))) (issueCount c))
      (afterIssue c k (s.strand c k).kernel))

/-- R58 to R76, R210, R211: the words of the spec's examples decode to the syllables it gives for them; headers and opcodes it reserves
are refused. -/
def Obligations.ListedWordsDecode : Prop :=
  sylsIn [0x1, 0xE200FC82, 0x10003E07, 0x64] = some [some (.cmp .lt (fieldsOf 31 (src 1 0 1) (src 30 3 0) Src.unused 64))] ∧
  sylsIn [0x1, 0xF00FFCC2, 0x50003E01] = some [some (.brc (fieldsOf 31 Src.unused Src.unused Src.unused 320))] ∧
  sylsIn [0x4, 0x8201A405, 0x02C03E40] = some [some (.ldwg (fieldsOf 9 (src 3 0 1) (src 8 0 1) Src.unused 11))] ∧
  sylsIn [0x10, 0x10027C10, 0x13003E40] = some [some (.mma .m0 .bf16 (fieldsOf 31 (src 4 0 0) (src 1 0 1) Src.unused 76))] ∧
  sylsIn [0x2, 0xF03F7C04, 0x00001001, 0x00100000] = some [some (.stpv (fieldsOf 31 (src 30 3 0) Src.unused (src 8 0 0) 0))] ∧
  sylsIn [0x40, 0xF2017C01, 0x00400001] = some [some (.copy (fieldsOf 31 (src 2 0 1) Src.unused (src 0 0 0) 1))] ∧
  sylsIn [0x40, 0xE03F1403, 0x04800209, 0x80, 1] = some [some (.cpq (fieldsOf 5 (src 30 3 0) (src 30 4 0) (src 1 0 0) 18))] ∧
  sylsIn [0x40, 0xE23F7C20, 0x0100004B, 0x80101000, 2, 0x2000, 1] =
    some [some (.pump (fieldsOf 31 (src 30 3 1) (src 30 5 1) (src 0 0 0) 4))] ∧
  sylsIn [0x9, 0xF200881A, 0x3E01, 0xF2029900, 0x02003E01] =
    some [some (.div false (fieldsOf 2 (src 1 0 1) Src.unused Src.unused 0)), some (.cvt (fieldsOf 6 (src 5 0 1) Src.unused Src.unused 8))] ∧
  (∀ v < 16, ∀ h ∈ [0x200 + v, 0xFF, 0x1FF, 0x80000000 + v], decodeBundle (words16 [h]) = .error (.badHeader h)) ∧
  (∀ op ∈ [1, 0x0F, 0x28, 0x2F, 0x3C, 0x3F, 0x45, 0x7F, 0x8A, 0x91, 0xC7, 0xCA, 0xD3, 0x107, 0x3FF], decodeSyllable .s op = none) ∧
  decodePump 0 0x1000000000000003 = some (.act 0 { delta := 0, rt := 0, dofs := 0, col := 0, slot := 0, bank := 3 }) ∧
  decodePump 0 0x2001800000000003 = some (.rd 0 { delta := 24, rt := 0, dofs := 0, col := 0, slot := 0, bank := 3 }) ∧
  decodePump 0 0x2000200000410003 = some (.rd 0 { delta := 2, rt := 0, dofs := 1, col := 1, slot := 0, bank := 3 }) ∧
  decodePump 0 0xF000100000000000 = some (.pend 0 { delta := 1, rt := 0, dofs := 0, col := 0, slot := 0, bank := 0 })

/-- R58 to R76, R88, R197, R210, R211, R296: decoding an encoded well-formed instruction gives it back, and a syllable or a command that
decodes has exactly the bits it was decoded from. -/
def Obligations.DecodeOfEncodeIsTheInstruction : Prop :=
  (∀ (i : Instr) (sl : Slot) (op : Nat) (f : Fields), i.opcode = some (sl, op) → i.fields = some f → i.wf = true →
    decode (encode i) = some i ∧ decodeSyllable sl (f.toNat op) = some i) ∧
  (∀ y, decode (encode (.emptyBundle y)) = some (.emptyBundle y)) ∧
  (∀ (sl : Slot) (v : Nat) (i : Instr), v < 2 ^ 64 → decodeSyllable sl v = some i →
    i.opcode = some (sl, v % 2 ^ 10) ∧ ∃ f, i.fields = some f ∧ f.toNat (v % 2 ^ 10) = v) ∧
  (∀ (i : Instr) (v : Nat), i.pumpWord = some v → v < 2 ^ 64 ∧ ∃ p, decodePump p v = some i) ∧
  (∀ (p v : Nat) (i : Instr), v < 2 ^ 64 → decodePump p v = some i → i.pumpWord = some v) ∧
  (∀ (p : Nat) (fl : Flit), (decodeFlit p fl).isSome = true ↔ (fl.header.extractLsb' 60 4).toNat ≤ 9)

/-- Every step keeps the canonical form of memory: addresses strictly rising, no byte equal to what an unlisted address reads as
(log entry 5). -/
def Obligations.StepKeepsMemoryCanonical : Prop := ∀ s t : State, s.memOk → step s = .next t → t.memOk

/-- R26, R31, R32, R67, R68, R111, R339: a syllable alone in its bundle that fails a check traps in place, one that a condition of R26
keeps is held; the checks come before the conditions. -/
def Obligations.ChecksFaultOrHoldInPlace : Prop :=
  (∀ (i : Instr) (x : Trap) (s : State), s.bundle.admitted = false → verdictAlone i s = some (.fault x) →
    Next i s (fun t => Enters (C s) (K s) x s.me.entering false none s t)) ∧
  (∀ (i : Instr) (a : Option Nat) (s : State), s.bundle.admitted = false → verdictAlone i s = some (.held a) →
    Next i s (fun t => t = s.modBundle (fun b => { b with held := true }))) ∧
  (∀ (sl : Slot) (v : Nat) (c k : Nat) (s : State), Undefined sl v → ∃ x, s.admission c k (rawBundle sl v) = .fault x ∧ x.cause = 0x02 ∧
    x.kind = .inPlace ∧ x.addr = BitVec.ofNat 64 (s.strand c k).ctx.pc) ∧
  (∀ (i : Instr) (sl : Slot) (op n : Nat) (f : Fields) (s : State), i.opcode = some (sl, op) → i.fields = some f →
    s.earlyFault (C s) (K s) (soloBundle i sl op f) (usesAlone i) = none → blockAlone i s = some n →
    verdictAlone i s = some (.held (some n))) ∧
  (∀ (i : Instr) (s : State), (s.core (C s)).cond1 (K s) (usesAlone i) = none → (s.core (C s)).cond2 (K s) (usesAlone i) = none →
    s.cond34 (C s) (K s) (usesAlone i) = none → blockAlone i s = none) ∧
  (∀ (f : Fields) (s : State), (Instr.eret f).wf = true → s.me.ctx.seq = none → s.me.ctx.tl = 0 →
    ∃ x, verdictAlone (.eret f) s = some (.fault x) ∧ x.cause = 0x1A ∧ x.kind = .inPlace)

/-- R28, R34, R64: an append reserves its slot and notes the result to come; with dst 31 it appends nothing, and to a grafted queue it
takes a credit and no slot. -/
def Obligations.AppendsReserveThenWrite : Prop :=
  (∀ (s : State) (tag lat : Nat) (v : SlotBits), s.appendTo 31 tag v lat = s) ∧
  (∀ (s : State) (d tag lat : Nat) (v : SlotBits), d < 16 →
    let q := s.queue (C s) (K s) d
    let t := s.appendTo d tag v lat
    let r := t.queue (C s) (K s) d
    (q.gsrc = false →
      r.tail = (q.tail + 1) % (2 * 2 ^ q.logcap) ∧ r.head = q.head ∧ (r.slot (q.tail % 2 ^ q.logcap)).present = false ∧
      (r.slot (q.tail % 2 ^ q.logcap)).orphan = false ∧ (∀ i, i ≠ q.tail % 2 ^ q.logcap → r.slot i = q.slot i)) ∧
    (q.gsrc = true → r = { q with gcred := q.gcred - 1 }) ∧
    (∃ id p, Table.get? (t.core (C s)).flight.pends id = some p ∧ p.strand = K s ∧ p.q = d ∧ p.tag = tag ∧ p.val = v ∧ p.graft = q.gsrc ∧
      (q.gsrc = false → p.idx = q.tail % 2 ^ q.logcap) ∧
      isDue t (C s) ((s.core (C s)).cyc + lat) (K s) false (.slotWrite (C s) id)) ∧
    t.mem = s.mem ∧ t.poison = s.poison ∧ (∀ c, c ≠ C s → t.core c = s.core c) ∧
    (∀ k, k ≠ K s → t.strand (C s) k = s.strand (C s) k) ∧ (∀ e, e ≠ d → t.queue (C s) (K s) e = s.queue (C s) (K s) e) ∧
    (t.strand (C s) (K s)).ctx = s.me.ctx)

/-- R326, R328: a frozen buffer records nothing; an entry that fires the armed word is followed by POST more entries, and then the buffer
is frozen and disarmed. -/
def Obligations.TraceRecordsAndTriggers : Prop :=
  (∀ (t : Trace) (cls k : Nat) (d0 d1 : Dword), t.frozen = true → t.record cls k d0 d1 = t) ∧
  (∀ (t : Trace) (cls k : Nat) (d0 d1 : Dword), t.frozen = false →
    let u := t.record cls k d0 d1
    Table.get? u.buf t.wptr = some (d0, d1) ∧ u.wptr = (t.wptr + 1) % 4096 ∧ u.classes = t.classes ∧ u.owner = t.owner ∧
    (∀ n, n ≠ t.wptr → Table.get? u.buf n = Table.get? t.buf n) ∧
    (∀ w, t.post = none → t.armed = some w → cls < 8 → k < 4 → fires w cls k d1 = false → u.frozen = false ∧ u.armed = some w ∧ u.post = none)) ∧
  (∀ (t : Trace) (cls k cls' k' : Nat) (w d0 d1 : Dword) (es : List (Dword × Dword)), t.frozen = false → t.post = none → t.armed = some w →
    cls < 8 → k < 4 → fires w cls k d1 = true →
    let n := (w.extractLsb' 48 16).toNat
    let u := recorded cls' k' es (t.record cls k d0 d1)
    (es.length = n → u.frozen = true ∧ u.armed = none ∧ u.wptr = (t.wptr + 1 + n) % 4096) ∧
    (es.length < n → u.frozen = false ∧ u.armed = some w ∧ u.wptr = (t.wptr + 1 + es.length) % 4096) ∧
    (n < es.length → u = recorded cls' k' (es.take n) (t.record cls k d0 d1))) ∧
  (∀ (t : Trace) (k cls : Nat) (d0 d1 : Dword) (es : List (Nat × Nat × Dword × Dword)), t.pend = (k, cls, d0, d1) :: es →
    t.flush = Trace.flush { (Trace.record { t with pend := [] } cls k d0 d1) with pend := es }) ∧
  (∀ (t : Trace), t.pend = [] → t.flush = t) ∧
  (∀ (e : Nat × Nat × Dword × Dword) (es : List (Nat × Nat × Dword × Dword)), es.Pairwise (fun x y => x.1 ≤ y.1) →
    (insertEntry e es).Pairwise (fun x y => x.1 ≤ y.1) ∧ (insertEntry e es).Perm (e :: es) ∧
    ∃ as bs, es = as ++ bs ∧ insertEntry e es = as ++ e :: bs) ∧
  (∀ (s : State) (c : Nat), ((s.endCycle c).core c).trace = (s.core c).trace.flush)

/-- R26, R27, R28, R123, R169: exec answers a next state of every instruction in every state; a syllable that issues changes no byte of
memory, no poisoned unit, no die, pump, code table, generation counter and host register; of another strand it changes no register but a
knot, of its own strand no trap level (but for ERET). -/
def Obligations.IssuingSyllablesLeaveMemoryAndOtherStrandsAlone : Prop :=
  (∀ (i : Instr) (s : State), ∃ t, exec i s = .next t) ∧
  (∀ (i : Instr) (s : State), i.opcode.isSome = true → Issues i s → ∃ u, exec i s = .next (closed i s u) ∧ let t := closed i s u
    t.mem = s.mem ∧ t.poison = s.poison ∧ t.dies = s.dies ∧ t.pumps = s.pumps ∧ t.codes = s.codes ∧ t.gens = s.gens ∧ t.host = s.host ∧
    (∀ c k, (t.strand c k).place = (s.strand c k).place) ∧
    (∀ c k, (c ≠ C s ∨ k ≠ K s) → { (t.strand c k).ctx with knots := [] } = { (s.strand c k).ctx with knots := [] }) ∧
    ((∀ f, i ≠ .eret f) → (t.strand (C s) (K s)).ctx.tl = (s.strand (C s) (K s)).ctx.tl))

/-- R39, R40, R43: rounding gives a value of the format back as it is; of an exact value, rounding down and up give the two values of the
format between which no other lies and it does, RTZ the one nearer to zero, RNE the nearer one with ties to even, and past the largest finite
value what the overflow rule says. -/
def Obligations.RoundingIsExactAndBracketed : Prop :=
  (∀ (t : FFmt) (rm : RM) (v : Nat), v < 2 ^ fw t → ((FFmt.ieee t).value v).isNan = false →
    (FFmt.ieee t).round rm ((FFmt.ieee t).value v) = v) ∧
  (∀ (t : FFmt) (neg : Bool) (m : Nat) (e : Int),
    RoundsTo (FFmt.ieee t) (fun v => cmpX v (.fin neg m e)) neg (fun rm => (FFmt.ieee t).round rm (.fin neg m e))) ∧
  (∀ (t : FFmt) (neg : Bool) (e : Int) (rm : RM),
    (FFmt.ieee t).round rm (.fin neg 0 e) = (if neg then 2 ^ (fw t - 1) else 0) ∧
    (FFmt.ieee t).round rm (.inf neg) = (FFmt.ieee t).infBits neg ∧ (FFmt.ieee t).round rm .nan = (FFmt.ieee t).canonNan)
end

