-- ==== Sys2Proof/Laws/Tables.lean ====
section
/-! SUPPORT. What the table operations and the memory operations do, once each: reads after writes, and that the canonical form is kept. -/

namespace Sys2Proof.Machine

/-! ### Tables -/

@[simp] theorem Table.get?_set_self {α : Type} (t : Table α) (k : Nat) (a : α) : Table.get? (Table.set t k a) k = some a := by
  induction t with
  | nil => simp [Table.set, Table.get?]
  | cons x t ih =>
    obtain ⟨j, b⟩ := x
    simp only [Table.set]
    split
    · simp [Table.get?]
    · split
      · simp [Table.get?]
      · simp_all [Table.get?]

theorem Table.get?_set_ne {α : Type} (t : Table α) {k k' : Nat} (a : α) (h : k' ≠ k) :
    Table.get? (Table.set t k a) k' = Table.get? t k' := by
  induction t with
  | nil => simp [Table.set, Table.get?]; omega
  | cons x t ih =>
    obtain ⟨j, b⟩ := x
    simp only [Table.set]
    split
    · rename_i hj
      simp only [beq_iff_eq] at hj
      subst hj
      simp [Table.get?, Ne.symm h]
    · split
      · rename_i h1 h2
        simp only [Nat.blt_eq] at h2
        simp only [Table.get?, beq_iff_eq, Nat.blt_eq]
        split
        · omega
        · split
          · split
            · omega
            · split <;> [rfl; omega]
          · rfl
      · simp only [Table.get?]
        split
        · rfl
        · split
          · rfl
          · exact ih

@[simp] theorem Table.getD_set_self {α : Type} (t : Table α) (k : Nat) (a d : α) : Table.getD (Table.set t k a) k d = a := by
  simp [Table.getD]

theorem Table.getD_set_ne {α : Type} (t : Table α) {k k' : Nat} (a d : α) (h : k' ≠ k) :
    Table.getD (Table.set t k a) k' d = Table.getD t k' d := by
  simp [Table.getD, Table.get?_set_ne t a h]

theorem Table.getD_set {α : Type} (t : Table α) (k k' : Nat) (a d : α) :
    Table.getD (Table.set t k a) k' d = if k' = k then a else Table.getD t k' d := by
  split
  · rename_i h; subst h; simp
  · rename_i h; exact Table.getD_set_ne t a d h

theorem Table.get?_set {α : Type} (t : Table α) (k k' : Nat) (a : α) :
    Table.get? (Table.set t k a) k' = if k' = k then some a else Table.get? t k' := by
  split
  · rename_i h; subst h; simp
  · rename_i h; exact Table.get?_set_ne t a h

/-- A lower bound on the keys may be lowered. -/
theorem Table.risingFrom_mono {α : Type} (t : Table α) {a b : Nat} (h : a ≤ b) (w : Table.risingFrom b t = true) :
    Table.risingFrom a t = true := by
  cases t with
  | nil => rfl
  | cons x t => simp only [Table.risingFrom, Bool.and_eq_true, Nat.ble_eq] at w ⊢; exact ⟨by omega, w.2⟩

/-- Below the bound nothing is listed. -/
theorem Table.get?_below {α : Type} (t : Table α) {b k : Nat} (h : k < b) (w : Table.risingFrom b t = true) :
    Table.get? t k = none := by
  cases t with
  | nil => rfl
  | cons x t =>
    simp only [Table.risingFrom, Bool.and_eq_true, Nat.ble_eq] at w
    simp only [Table.get?, beq_iff_eq, Nat.blt_eq]
    split
    · omega
    · split <;> [rfl; omega]

theorem Table.rising_set {α : Type} (t : Table α) (k : Nat) (a : α) (b : Nat) (h : b ≤ k) (w : Table.risingFrom b t = true) :
    Table.risingFrom b (Table.set t k a) = true := by
  induction t generalizing b with
  | nil => simp [Table.set, Table.risingFrom, h]
  | cons x t ih =>
    simp only [Table.risingFrom, Bool.and_eq_true, Nat.ble_eq] at w
    simp only [Table.set, beq_iff_eq, Nat.blt_eq]
    split
    · rename_i e; simp only [Table.risingFrom, Bool.and_eq_true, Nat.ble_eq]; exact ⟨h, e ▸ w.2⟩
    · split
      · simp only [Table.risingFrom, Bool.and_eq_true, Nat.ble_eq]; exact ⟨h, by omega, w.2⟩
      · simp only [Table.risingFrom, Bool.and_eq_true, Nat.ble_eq]; exact ⟨w.1, ih _ (by omega) w.2⟩

theorem Table.rising_erase {α : Type} (t : Table α) (k b : Nat) (w : Table.risingFrom b t = true) :
    Table.risingFrom b (Table.erase t k) = true := by
  induction t generalizing b with
  | nil => rfl
  | cons x t ih =>
    have w' := w
    simp only [Table.risingFrom, Bool.and_eq_true, Nat.ble_eq] at w
    simp only [Table.erase]
    split
    · exact Table.risingFrom_mono t (by omega) w.2
    · split
      · exact w'
      · simp only [Table.risingFrom, Bool.and_eq_true, Nat.ble_eq]; exact ⟨w.1, ih _ w.2⟩

theorem Table.rising_filter {α : Type} (t : Table α) (p : Nat × α → Bool) (b : Nat) (w : Table.risingFrom b t = true) :
    Table.risingFrom b (t.filter p) = true := by
  induction t generalizing b with
  | nil => rfl
  | cons x t ih =>
    simp only [Table.risingFrom, Bool.and_eq_true, Nat.ble_eq] at w
    simp only [List.filter_cons]
    split
    · simp only [Table.risingFrom, Bool.and_eq_true, Nat.ble_eq]; exact ⟨w.1, ih _ w.2⟩
    · exact Table.risingFrom_mono _ (by omega) (ih _ w.2)

theorem Table.get?_erase {α : Type} (t : Table α) (k k' b : Nat) (w : Table.risingFrom b t = true) :
    Table.get? (Table.erase t k) k' = if k' = k then none else Table.get? t k' := by
  induction t generalizing b with
  | nil => simp [Table.erase, Table.get?]
  | cons x t ih =>
    simp only [Table.risingFrom, Bool.and_eq_true, Nat.ble_eq] at w
    simp only [Table.erase, beq_iff_eq, Nat.blt_eq]
    split
    · rename_i e
      simp only [Table.get?, beq_iff_eq, Nat.blt_eq]
      split
      · exact Table.get?_below t (by omega) w.2
      · split
        · omega
        · split
          · exact Table.get?_below t (by omega) w.2
          · rfl
    · simp only [apply_ite (fun l => Table.get? l k'), Table.get?, beq_iff_eq, Nat.blt_eq, ih _ w.2]
      by_cases e : k' = k
      · subst e
        by_cases h2 : k' < x.1
        · simp [h2]; omega
        · rename_i h1; simp [h1, h2]
      · simp [e]

/-! ### Memory -/

theorem Memory.noDflt_set (m : Mem) (a : Nat) (b : Byte) (hb : b ≠ Memory.dflt) (w : Memory.noDflt m = true) :
    Memory.noDflt (Table.set m a b) = true := by
  induction m with
  | nil => simp [Table.set, Memory.noDflt, hb]
  | cons x m ih =>
    simp only [Memory.noDflt, Bool.and_eq_true, bne_iff_ne, ne_eq] at w
    simp only [Table.set]
    split
    · simp [Memory.noDflt, hb, w.2]
    · split
      · simp [Memory.noDflt, hb, w.1, w.2]
      · simp [Memory.noDflt, w.1, ih w.2]

theorem Memory.noDflt_erase (m : Mem) (a : Nat) (w : Memory.noDflt m = true) : Memory.noDflt (Table.erase m a) = true := by
  induction m with
  | nil => rfl
  | cons x m ih =>
    have w' := w
    simp only [Memory.noDflt, Bool.and_eq_true, bne_iff_ne, ne_eq] at w
    simp only [Table.erase]
    split
    · exact w.2
    · split
      · exact w'
      · simp [Memory.noDflt, w.1, ih w.2]

theorem Memory.noDflt_filter (m : Mem) (p : Nat × Byte → Bool) (w : Memory.noDflt m = true) :
    Memory.noDflt (m.filter p) = true := by
  induction m with
  | nil => rfl
  | cons x m ih =>
    simp only [Memory.noDflt, Bool.and_eq_true, bne_iff_ne, ne_eq] at w
    simp only [List.filter_cons]
    split
    · simp [Memory.noDflt, w.1, ih w.2]
    · exact ih w.2

/-- Every write keeps the canonical form. -/
theorem Memory.wf_write (m : Mem) (a : Nat) (b : Byte) (w : Memory.wf m = true) : Memory.wf (Memory.write m a b) = true := by
  simp only [Memory.wf, Bool.and_eq_true, Table.wf] at w ⊢
  simp only [Memory.write, beq_iff_eq]
  split
  · exact ⟨Table.rising_erase m a 0 w.1, Memory.noDflt_erase m a w.2⟩
  · rename_i hb; exact ⟨Table.rising_set m a b 0 (by omega) w.1, Memory.noDflt_set m a b hb w.2⟩

theorem Memory.wf_writeBytes (m : Mem) (a : Nat) (bs : List Byte) (w : Memory.wf m = true) :
    Memory.wf (Memory.writeBytes m a bs) = true := by
  induction bs generalizing m a with
  | nil => exact w
  | cons b bs ih => exact ih _ _ (Memory.wf_write m a b w)

theorem Memory.wf_writeCells (m : Mem) (cs : List (Nat × Byte)) (w : Memory.wf m = true) :
    Memory.wf (Memory.writeCells m cs) = true := by
  induction cs generalizing m with
  | nil => exact w
  | cons c cs ih => exact ih _ (Memory.wf_write m c.1 c.2 w)

theorem Memory.wf_clear (m : Mem) (lo n : Nat) (w : Memory.wf m = true) : Memory.wf (Memory.clear m lo n) = true := by
  simp only [Memory.wf, Bool.and_eq_true, Table.wf] at w ⊢
  exact ⟨Table.rising_filter m _ 0 w.1, Memory.noDflt_filter m _ w.2⟩

/-- What a byte reads after a write. -/
theorem Memory.read_write (m : Mem) (a a' : Nat) (b : Byte) (w : Memory.wf m = true) :
    Memory.read (Memory.write m a b) a' = if a' = a then b else Memory.read m a' := by
  simp only [Memory.wf, Bool.and_eq_true, Table.wf] at w
  simp only [Memory.read, Memory.write, beq_iff_eq]
  split
  · rename_i hb
    simp only [Table.getD, Table.get?_erase m a a' 0 w.1]
    split <;> simp [hb]
  · simp only [Table.getD_set]

/-- A byte that a run of writes does not name reads as before. -/
theorem Memory.read_writeBytes_of_not (m : Mem) (a a' : Nat) (bs : List Byte) (w : Memory.wf m = true)
    (h : a' < a ∨ a + bs.length ≤ a') : Memory.read (Memory.writeBytes m a bs) a' = Memory.read m a' := by
  induction bs generalizing m a with
  | nil => rfl
  | cons b bs ih =>
    simp only [List.length_cons] at h
    rw [Memory.writeBytes, ih _ _ (Memory.wf_write m a b w) (by omega), Memory.read_write m a a' b w, if_neg (by omega)]

theorem Memory.read_writeCells_of_not (m : Mem) (cs : List (Nat × Byte)) (a' : Nat) (w : Memory.wf m = true)
    (h : ∀ c ∈ cs, c.1 ≠ a') : Memory.read (Memory.writeCells m cs) a' = Memory.read m a' := by
  induction cs generalizing m with
  | nil => rfl
  | cons c cs ih =>
    rw [Memory.writeCells, ih _ (Memory.wf_write m c.1 c.2 w) (fun d hd => h d (List.mem_cons_of_mem _ hd)),
      Memory.read_write m c.1 a' c.2 w, if_neg (fun e => h c List.mem_cons_self e.symm)]

/-- Bytes read back after they are written. -/
theorem Memory.readBytes_writeBytes (m : Mem) (a : Nat) (bs : List Byte) (w : Memory.wf m = true) :
    Memory.readBytes (Memory.writeBytes m a bs) a bs.length = bs := by
  induction bs generalizing m a with
  | nil => rfl
  | cons b bs ih =>
    simp only [Memory.writeBytes, Memory.readBytes, List.length_cons]
    rw [ih _ _ (Memory.wf_write m a b w), Memory.read_writeBytes_of_not _ _ _ _ (Memory.wf_write m a b w) (by omega),
      Memory.read_write m a a b w, if_pos rfl]

end Sys2Proof.Machine
end

