-- ==== Sys2Proof/Laws/State.lean ====
section
/-! SUPPORT. One lemma per field of State per update of Machine/Mem.lean: what the update leaves and what it changes; then the parts of the
state (core, strand, queue, die, pump, operation, task) after each update. -/

namespace Sys2Proof.Machine

/-! ### Fields -/

@[simp] theorem State.setCore_mem (s : State) (c : Nat) (x : Core) : (s.setCore c x).mem = s.mem := rfl
@[simp] theorem State.setCore_poison (s : State) (c : Nat) (x : Core) : (s.setCore c x).poison = s.poison := rfl
@[simp] theorem State.setCore_cores (s : State) (c : Nat) (x : Core) : (s.setCore c x).cores = Table.set s.cores c x := rfl
@[simp] theorem State.setCore_dies (s : State) (c : Nat) (x : Core) : (s.setCore c x).dies = s.dies := rfl
@[simp] theorem State.setCore_pumps (s : State) (c : Nat) (x : Core) : (s.setCore c x).pumps = s.pumps := rfl
@[simp] theorem State.setCore_ops (s : State) (c : Nat) (x : Core) : (s.setCore c x).ops = s.ops := rfl
@[simp] theorem State.setCore_disp (s : State) (c : Nat) (x : Core) : (s.setCore c x).disp = s.disp := rfl
@[simp] theorem State.setCore_codes (s : State) (c : Nat) (x : Core) : (s.setCore c x).codes = s.codes := rfl
@[simp] theorem State.setCore_gens (s : State) (c : Nat) (x : Core) : (s.setCore c x).gens = s.gens := rfl
@[simp] theorem State.setCore_fab (s : State) (c : Nat) (x : Core) : (s.setCore c x).fab = s.fab := rfl
@[simp] theorem State.setCore_host (s : State) (c : Nat) (x : Core) : (s.setCore c x).host = s.host := rfl
@[simp] theorem State.setCore_env (s : State) (c : Nat) (x : Core) : (s.setCore c x).env = s.env := rfl
@[simp] theorem State.setCore_bundle (s : State) (c : Nat) (x : Core) : (s.setCore c x).bundle = s.bundle := rfl

@[simp] theorem State.modCore_mem (s : State) (c : Nat) (f : Core → Core) : (s.modCore c f).mem = s.mem := rfl
@[simp] theorem State.modCore_poison (s : State) (c : Nat) (f : Core → Core) : (s.modCore c f).poison = s.poison := rfl
@[simp] theorem State.modCore_cores (s : State) (c : Nat) (f : Core → Core) : (s.modCore c f).cores = Table.set s.cores c (f (s.core c)) := rfl
@[simp] theorem State.modCore_dies (s : State) (c : Nat) (f : Core → Core) : (s.modCore c f).dies = s.dies := rfl
@[simp] theorem State.modCore_pumps (s : State) (c : Nat) (f : Core → Core) : (s.modCore c f).pumps = s.pumps := rfl
@[simp] theorem State.modCore_ops (s : State) (c : Nat) (f : Core → Core) : (s.modCore c f).ops = s.ops := rfl
@[simp] theorem State.modCore_disp (s : State) (c : Nat) (f : Core → Core) : (s.modCore c f).disp = s.disp := rfl
@[simp] theorem State.modCore_codes (s : State) (c : Nat) (f : Core → Core) : (s.modCore c f).codes = s.codes := rfl
@[simp] theorem State.modCore_gens (s : State) (c : Nat) (f : Core → Core) : (s.modCore c f).gens = s.gens := rfl
@[simp] theorem State.modCore_fab (s : State) (c : Nat) (f : Core → Core) : (s.modCore c f).fab = s.fab := rfl
@[simp] theorem State.modCore_host (s : State) (c : Nat) (f : Core → Core) : (s.modCore c f).host = s.host := rfl
@[simp] theorem State.modCore_env (s : State) (c : Nat) (f : Core → Core) : (s.modCore c f).env = s.env := rfl
@[simp] theorem State.modCore_bundle (s : State) (c : Nat) (f : Core → Core) : (s.modCore c f).bundle = s.bundle := rfl

@[simp] theorem State.setStrand_mem (s : State) (c k : Nat) (t : Strand) : (s.setStrand c k t).mem = s.mem := rfl
@[simp] theorem State.setStrand_poison (s : State) (c k : Nat) (t : Strand) : (s.setStrand c k t).poison = s.poison := rfl
@[simp] theorem State.setStrand_cores (s : State) (c k : Nat) (t : Strand) : (s.setStrand c k t).cores = Table.set s.cores c ((s.core c).setStrand k t) := rfl
@[simp] theorem State.setStrand_dies (s : State) (c k : Nat) (t : Strand) : (s.setStrand c k t).dies = s.dies := rfl
@[simp] theorem State.setStrand_pumps (s : State) (c k : Nat) (t : Strand) : (s.setStrand c k t).pumps = s.pumps := rfl
@[simp] theorem State.setStrand_ops (s : State) (c k : Nat) (t : Strand) : (s.setStrand c k t).ops = s.ops := rfl
@[simp] theorem State.setStrand_disp (s : State) (c k : Nat) (t : Strand) : (s.setStrand c k t).disp = s.disp := rfl
@[simp] theorem State.setStrand_codes (s : State) (c k : Nat) (t : Strand) : (s.setStrand c k t).codes = s.codes := rfl
@[simp] theorem State.setStrand_gens (s : State) (c k : Nat) (t : Strand) : (s.setStrand c k t).gens = s.gens := rfl
@[simp] theorem State.setStrand_fab (s : State) (c k : Nat) (t : Strand) : (s.setStrand c k t).fab = s.fab := rfl
@[simp] theorem State.setStrand_host (s : State) (c k : Nat) (t : Strand) : (s.setStrand c k t).host = s.host := rfl
@[simp] theorem State.setStrand_env (s : State) (c k : Nat) (t : Strand) : (s.setStrand c k t).env = s.env := rfl
@[simp] theorem State.setStrand_bundle (s : State) (c k : Nat) (t : Strand) : (s.setStrand c k t).bundle = s.bundle := rfl

@[simp] theorem State.modStrand_mem (s : State) (c k : Nat) (f : Strand → Strand) : (s.modStrand c k f).mem = s.mem := rfl
@[simp] theorem State.modStrand_poison (s : State) (c k : Nat) (f : Strand → Strand) : (s.modStrand c k f).poison = s.poison := rfl
@[simp] theorem State.modStrand_cores (s : State) (c k : Nat) (f : Strand → Strand) : (s.modStrand c k f).cores = Table.set s.cores c ((s.core c).setStrand k (f (s.strand c k))) := rfl
@[simp] theorem State.modStrand_dies (s : State) (c k : Nat) (f : Strand → Strand) : (s.modStrand c k f).dies = s.dies := rfl
@[simp] theorem State.modStrand_pumps (s : State) (c k : Nat) (f : Strand → Strand) : (s.modStrand c k f).pumps = s.pumps := rfl
@[simp] theorem State.modStrand_ops (s : State) (c k : Nat) (f : Strand → Strand) : (s.modStrand c k f).ops = s.ops := rfl
@[simp] theorem State.modStrand_disp (s : State) (c k : Nat) (f : Strand → Strand) : (s.modStrand c k f).disp = s.disp := rfl
@[simp] theorem State.modStrand_codes (s : State) (c k : Nat) (f : Strand → Strand) : (s.modStrand c k f).codes = s.codes := rfl
@[simp] theorem State.modStrand_gens (s : State) (c k : Nat) (f : Strand → Strand) : (s.modStrand c k f).gens = s.gens := rfl
@[simp] theorem State.modStrand_fab (s : State) (c k : Nat) (f : Strand → Strand) : (s.modStrand c k f).fab = s.fab := rfl
@[simp] theorem State.modStrand_host (s : State) (c k : Nat) (f : Strand → Strand) : (s.modStrand c k f).host = s.host := rfl
@[simp] theorem State.modStrand_env (s : State) (c k : Nat) (f : Strand → Strand) : (s.modStrand c k f).env = s.env := rfl
@[simp] theorem State.modStrand_bundle (s : State) (c k : Nat) (f : Strand → Strand) : (s.modStrand c k f).bundle = s.bundle := rfl

@[simp] theorem State.modCtx_mem (s : State) (c k : Nat) (f : Ctx → Ctx) : (s.modCtx c k f).mem = s.mem := rfl
@[simp] theorem State.modCtx_poison (s : State) (c k : Nat) (f : Ctx → Ctx) : (s.modCtx c k f).poison = s.poison := rfl
@[simp] theorem State.modCtx_dies (s : State) (c k : Nat) (f : Ctx → Ctx) : (s.modCtx c k f).dies = s.dies := rfl
@[simp] theorem State.modCtx_pumps (s : State) (c k : Nat) (f : Ctx → Ctx) : (s.modCtx c k f).pumps = s.pumps := rfl
@[simp] theorem State.modCtx_ops (s : State) (c k : Nat) (f : Ctx → Ctx) : (s.modCtx c k f).ops = s.ops := rfl
@[simp] theorem State.modCtx_disp (s : State) (c k : Nat) (f : Ctx → Ctx) : (s.modCtx c k f).disp = s.disp := rfl
@[simp] theorem State.modCtx_codes (s : State) (c k : Nat) (f : Ctx → Ctx) : (s.modCtx c k f).codes = s.codes := rfl
@[simp] theorem State.modCtx_gens (s : State) (c k : Nat) (f : Ctx → Ctx) : (s.modCtx c k f).gens = s.gens := rfl
@[simp] theorem State.modCtx_fab (s : State) (c k : Nat) (f : Ctx → Ctx) : (s.modCtx c k f).fab = s.fab := rfl
@[simp] theorem State.modCtx_host (s : State) (c k : Nat) (f : Ctx → Ctx) : (s.modCtx c k f).host = s.host := rfl
@[simp] theorem State.modCtx_env (s : State) (c k : Nat) (f : Ctx → Ctx) : (s.modCtx c k f).env = s.env := rfl
@[simp] theorem State.modCtx_bundle (s : State) (c k : Nat) (f : Ctx → Ctx) : (s.modCtx c k f).bundle = s.bundle := rfl

@[simp] theorem State.modFlow_mem (s : State) (c k : Nat) (f : Flow → Flow) : (s.modFlow c k f).mem = s.mem := rfl
@[simp] theorem State.modFlow_poison (s : State) (c k : Nat) (f : Flow → Flow) : (s.modFlow c k f).poison = s.poison := rfl
@[simp] theorem State.modFlow_dies (s : State) (c k : Nat) (f : Flow → Flow) : (s.modFlow c k f).dies = s.dies := rfl
@[simp] theorem State.modFlow_pumps (s : State) (c k : Nat) (f : Flow → Flow) : (s.modFlow c k f).pumps = s.pumps := rfl
@[simp] theorem State.modFlow_ops (s : State) (c k : Nat) (f : Flow → Flow) : (s.modFlow c k f).ops = s.ops := rfl
@[simp] theorem State.modFlow_disp (s : State) (c k : Nat) (f : Flow → Flow) : (s.modFlow c k f).disp = s.disp := rfl
@[simp] theorem State.modFlow_codes (s : State) (c k : Nat) (f : Flow → Flow) : (s.modFlow c k f).codes = s.codes := rfl
@[simp] theorem State.modFlow_gens (s : State) (c k : Nat) (f : Flow → Flow) : (s.modFlow c k f).gens = s.gens := rfl
@[simp] theorem State.modFlow_fab (s : State) (c k : Nat) (f : Flow → Flow) : (s.modFlow c k f).fab = s.fab := rfl
@[simp] theorem State.modFlow_host (s : State) (c k : Nat) (f : Flow → Flow) : (s.modFlow c k f).host = s.host := rfl
@[simp] theorem State.modFlow_env (s : State) (c k : Nat) (f : Flow → Flow) : (s.modFlow c k f).env = s.env := rfl
@[simp] theorem State.modFlow_bundle (s : State) (c k : Nat) (f : Flow → Flow) : (s.modFlow c k f).bundle = s.bundle := rfl

@[simp] theorem State.modFlight_mem (s : State) (c : Nat) (f : Flight → Flight) : (s.modFlight c f).mem = s.mem := rfl
@[simp] theorem State.modFlight_poison (s : State) (c : Nat) (f : Flight → Flight) : (s.modFlight c f).poison = s.poison := rfl
@[simp] theorem State.modFlight_dies (s : State) (c : Nat) (f : Flight → Flight) : (s.modFlight c f).dies = s.dies := rfl
@[simp] theorem State.modFlight_pumps (s : State) (c : Nat) (f : Flight → Flight) : (s.modFlight c f).pumps = s.pumps := rfl
@[simp] theorem State.modFlight_ops (s : State) (c : Nat) (f : Flight → Flight) : (s.modFlight c f).ops = s.ops := rfl
@[simp] theorem State.modFlight_disp (s : State) (c : Nat) (f : Flight → Flight) : (s.modFlight c f).disp = s.disp := rfl
@[simp] theorem State.modFlight_codes (s : State) (c : Nat) (f : Flight → Flight) : (s.modFlight c f).codes = s.codes := rfl
@[simp] theorem State.modFlight_gens (s : State) (c : Nat) (f : Flight → Flight) : (s.modFlight c f).gens = s.gens := rfl
@[simp] theorem State.modFlight_fab (s : State) (c : Nat) (f : Flight → Flight) : (s.modFlight c f).fab = s.fab := rfl
@[simp] theorem State.modFlight_host (s : State) (c : Nat) (f : Flight → Flight) : (s.modFlight c f).host = s.host := rfl
@[simp] theorem State.modFlight_env (s : State) (c : Nat) (f : Flight → Flight) : (s.modFlight c f).env = s.env := rfl
@[simp] theorem State.modFlight_bundle (s : State) (c : Nat) (f : Flight → Flight) : (s.modFlight c f).bundle = s.bundle := rfl

@[simp] theorem State.setQueue_mem (s : State) (c k q : Nat) (d : Queue) : (s.setQueue c k q d).mem = s.mem := rfl
@[simp] theorem State.setQueue_poison (s : State) (c k q : Nat) (d : Queue) : (s.setQueue c k q d).poison = s.poison := rfl
@[simp] theorem State.setQueue_dies (s : State) (c k q : Nat) (d : Queue) : (s.setQueue c k q d).dies = s.dies := rfl
@[simp] theorem State.setQueue_pumps (s : State) (c k q : Nat) (d : Queue) : (s.setQueue c k q d).pumps = s.pumps := rfl
@[simp] theorem State.setQueue_ops (s : State) (c k q : Nat) (d : Queue) : (s.setQueue c k q d).ops = s.ops := rfl
@[simp] theorem State.setQueue_disp (s : State) (c k q : Nat) (d : Queue) : (s.setQueue c k q d).disp = s.disp := rfl
@[simp] theorem State.setQueue_codes (s : State) (c k q : Nat) (d : Queue) : (s.setQueue c k q d).codes = s.codes := rfl
@[simp] theorem State.setQueue_gens (s : State) (c k q : Nat) (d : Queue) : (s.setQueue c k q d).gens = s.gens := rfl
@[simp] theorem State.setQueue_fab (s : State) (c k q : Nat) (d : Queue) : (s.setQueue c k q d).fab = s.fab := rfl
@[simp] theorem State.setQueue_host (s : State) (c k q : Nat) (d : Queue) : (s.setQueue c k q d).host = s.host := rfl
@[simp] theorem State.setQueue_env (s : State) (c k q : Nat) (d : Queue) : (s.setQueue c k q d).env = s.env := rfl
@[simp] theorem State.setQueue_bundle (s : State) (c k q : Nat) (d : Queue) : (s.setQueue c k q d).bundle = s.bundle := rfl

@[simp] theorem State.modQueue_mem (s : State) (c k q : Nat) (f : Queue → Queue) : (s.modQueue c k q f).mem = s.mem := rfl
@[simp] theorem State.modQueue_poison (s : State) (c k q : Nat) (f : Queue → Queue) : (s.modQueue c k q f).poison = s.poison := rfl
@[simp] theorem State.modQueue_dies (s : State) (c k q : Nat) (f : Queue → Queue) : (s.modQueue c k q f).dies = s.dies := rfl
@[simp] theorem State.modQueue_pumps (s : State) (c k q : Nat) (f : Queue → Queue) : (s.modQueue c k q f).pumps = s.pumps := rfl
@[simp] theorem State.modQueue_ops (s : State) (c k q : Nat) (f : Queue → Queue) : (s.modQueue c k q f).ops = s.ops := rfl
@[simp] theorem State.modQueue_disp (s : State) (c k q : Nat) (f : Queue → Queue) : (s.modQueue c k q f).disp = s.disp := rfl
@[simp] theorem State.modQueue_codes (s : State) (c k q : Nat) (f : Queue → Queue) : (s.modQueue c k q f).codes = s.codes := rfl
@[simp] theorem State.modQueue_gens (s : State) (c k q : Nat) (f : Queue → Queue) : (s.modQueue c k q f).gens = s.gens := rfl
@[simp] theorem State.modQueue_fab (s : State) (c k q : Nat) (f : Queue → Queue) : (s.modQueue c k q f).fab = s.fab := rfl
@[simp] theorem State.modQueue_host (s : State) (c k q : Nat) (f : Queue → Queue) : (s.modQueue c k q f).host = s.host := rfl
@[simp] theorem State.modQueue_env (s : State) (c k q : Nat) (f : Queue → Queue) : (s.modQueue c k q f).env = s.env := rfl
@[simp] theorem State.modQueue_bundle (s : State) (c k q : Nat) (f : Queue → Queue) : (s.modQueue c k q f).bundle = s.bundle := rfl

@[simp] theorem State.modMq_mem (s : State) (c n : Nat) (f : MQueue → MQueue) : (s.modMq c n f).mem = s.mem := rfl
@[simp] theorem State.modMq_poison (s : State) (c n : Nat) (f : MQueue → MQueue) : (s.modMq c n f).poison = s.poison := rfl
@[simp] theorem State.modMq_dies (s : State) (c n : Nat) (f : MQueue → MQueue) : (s.modMq c n f).dies = s.dies := rfl
@[simp] theorem State.modMq_pumps (s : State) (c n : Nat) (f : MQueue → MQueue) : (s.modMq c n f).pumps = s.pumps := rfl
@[simp] theorem State.modMq_ops (s : State) (c n : Nat) (f : MQueue → MQueue) : (s.modMq c n f).ops = s.ops := rfl
@[simp] theorem State.modMq_disp (s : State) (c n : Nat) (f : MQueue → MQueue) : (s.modMq c n f).disp = s.disp := rfl
@[simp] theorem State.modMq_codes (s : State) (c n : Nat) (f : MQueue → MQueue) : (s.modMq c n f).codes = s.codes := rfl
@[simp] theorem State.modMq_gens (s : State) (c n : Nat) (f : MQueue → MQueue) : (s.modMq c n f).gens = s.gens := rfl
@[simp] theorem State.modMq_fab (s : State) (c n : Nat) (f : MQueue → MQueue) : (s.modMq c n f).fab = s.fab := rfl
@[simp] theorem State.modMq_host (s : State) (c n : Nat) (f : MQueue → MQueue) : (s.modMq c n f).host = s.host := rfl
@[simp] theorem State.modMq_env (s : State) (c n : Nat) (f : MQueue → MQueue) : (s.modMq c n f).env = s.env := rfl
@[simp] theorem State.modMq_bundle (s : State) (c n : Nat) (f : MQueue → MQueue) : (s.modMq c n f).bundle = s.bundle := rfl

@[simp] theorem State.modUnit_mem (s : State) (c u : Nat) (f : MatUnit → MatUnit) : (s.modUnit c u f).mem = s.mem := rfl
@[simp] theorem State.modUnit_poison (s : State) (c u : Nat) (f : MatUnit → MatUnit) : (s.modUnit c u f).poison = s.poison := rfl
@[simp] theorem State.modUnit_dies (s : State) (c u : Nat) (f : MatUnit → MatUnit) : (s.modUnit c u f).dies = s.dies := rfl
@[simp] theorem State.modUnit_pumps (s : State) (c u : Nat) (f : MatUnit → MatUnit) : (s.modUnit c u f).pumps = s.pumps := rfl
@[simp] theorem State.modUnit_ops (s : State) (c u : Nat) (f : MatUnit → MatUnit) : (s.modUnit c u f).ops = s.ops := rfl
@[simp] theorem State.modUnit_disp (s : State) (c u : Nat) (f : MatUnit → MatUnit) : (s.modUnit c u f).disp = s.disp := rfl
@[simp] theorem State.modUnit_codes (s : State) (c u : Nat) (f : MatUnit → MatUnit) : (s.modUnit c u f).codes = s.codes := rfl
@[simp] theorem State.modUnit_gens (s : State) (c u : Nat) (f : MatUnit → MatUnit) : (s.modUnit c u f).gens = s.gens := rfl
@[simp] theorem State.modUnit_fab (s : State) (c u : Nat) (f : MatUnit → MatUnit) : (s.modUnit c u f).fab = s.fab := rfl
@[simp] theorem State.modUnit_host (s : State) (c u : Nat) (f : MatUnit → MatUnit) : (s.modUnit c u f).host = s.host := rfl
@[simp] theorem State.modUnit_env (s : State) (c u : Nat) (f : MatUnit → MatUnit) : (s.modUnit c u f).env = s.env := rfl
@[simp] theorem State.modUnit_bundle (s : State) (c u : Nat) (f : MatUnit → MatUnit) : (s.modUnit c u f).bundle = s.bundle := rfl

@[simp] theorem State.modDie_mem (s : State) (d : Nat) (f : Die → Die) : (s.modDie d f).mem = s.mem := rfl
@[simp] theorem State.modDie_poison (s : State) (d : Nat) (f : Die → Die) : (s.modDie d f).poison = s.poison := rfl
@[simp] theorem State.modDie_cores (s : State) (d : Nat) (f : Die → Die) : (s.modDie d f).cores = s.cores := rfl
@[simp] theorem State.modDie_dies (s : State) (d : Nat) (f : Die → Die) : (s.modDie d f).dies = Table.set s.dies d (f (s.die d)) := rfl
@[simp] theorem State.modDie_pumps (s : State) (d : Nat) (f : Die → Die) : (s.modDie d f).pumps = s.pumps := rfl
@[simp] theorem State.modDie_ops (s : State) (d : Nat) (f : Die → Die) : (s.modDie d f).ops = s.ops := rfl
@[simp] theorem State.modDie_disp (s : State) (d : Nat) (f : Die → Die) : (s.modDie d f).disp = s.disp := rfl
@[simp] theorem State.modDie_codes (s : State) (d : Nat) (f : Die → Die) : (s.modDie d f).codes = s.codes := rfl
@[simp] theorem State.modDie_gens (s : State) (d : Nat) (f : Die → Die) : (s.modDie d f).gens = s.gens := rfl
@[simp] theorem State.modDie_fab (s : State) (d : Nat) (f : Die → Die) : (s.modDie d f).fab = s.fab := rfl
@[simp] theorem State.modDie_host (s : State) (d : Nat) (f : Die → Die) : (s.modDie d f).host = s.host := rfl
@[simp] theorem State.modDie_env (s : State) (d : Nat) (f : Die → Die) : (s.modDie d f).env = s.env := rfl
@[simp] theorem State.modDie_bundle (s : State) (d : Nat) (f : Die → Die) : (s.modDie d f).bundle = s.bundle := rfl

@[simp] theorem State.modPump_mem (s : State) (p : Nat) (f : Pump → Pump) : (s.modPump p f).mem = s.mem := rfl
@[simp] theorem State.modPump_poison (s : State) (p : Nat) (f : Pump → Pump) : (s.modPump p f).poison = s.poison := rfl
@[simp] theorem State.modPump_cores (s : State) (p : Nat) (f : Pump → Pump) : (s.modPump p f).cores = s.cores := rfl
@[simp] theorem State.modPump_dies (s : State) (p : Nat) (f : Pump → Pump) : (s.modPump p f).dies = s.dies := rfl
@[simp] theorem State.modPump_pumps (s : State) (p : Nat) (f : Pump → Pump) : (s.modPump p f).pumps = Table.set s.pumps p (f (s.pump p)) := rfl
@[simp] theorem State.modPump_ops (s : State) (p : Nat) (f : Pump → Pump) : (s.modPump p f).ops = s.ops := rfl
@[simp] theorem State.modPump_disp (s : State) (p : Nat) (f : Pump → Pump) : (s.modPump p f).disp = s.disp := rfl
@[simp] theorem State.modPump_codes (s : State) (p : Nat) (f : Pump → Pump) : (s.modPump p f).codes = s.codes := rfl
@[simp] theorem State.modPump_gens (s : State) (p : Nat) (f : Pump → Pump) : (s.modPump p f).gens = s.gens := rfl
@[simp] theorem State.modPump_fab (s : State) (p : Nat) (f : Pump → Pump) : (s.modPump p f).fab = s.fab := rfl
@[simp] theorem State.modPump_host (s : State) (p : Nat) (f : Pump → Pump) : (s.modPump p f).host = s.host := rfl
@[simp] theorem State.modPump_env (s : State) (p : Nat) (f : Pump → Pump) : (s.modPump p f).env = s.env := rfl
@[simp] theorem State.modPump_bundle (s : State) (p : Nat) (f : Pump → Pump) : (s.modPump p f).bundle = s.bundle := rfl

@[simp] theorem State.setOp_mem (s : State) (o : Nat) (e : EngOp) : (s.setOp o e).mem = s.mem := rfl
@[simp] theorem State.setOp_poison (s : State) (o : Nat) (e : EngOp) : (s.setOp o e).poison = s.poison := rfl
@[simp] theorem State.setOp_cores (s : State) (o : Nat) (e : EngOp) : (s.setOp o e).cores = s.cores := rfl
@[simp] theorem State.setOp_dies (s : State) (o : Nat) (e : EngOp) : (s.setOp o e).dies = s.dies := rfl
@[simp] theorem State.setOp_pumps (s : State) (o : Nat) (e : EngOp) : (s.setOp o e).pumps = s.pumps := rfl
@[simp] theorem State.setOp_ops (s : State) (o : Nat) (e : EngOp) : (s.setOp o e).ops = Table.set s.ops o e := rfl
@[simp] theorem State.setOp_disp (s : State) (o : Nat) (e : EngOp) : (s.setOp o e).disp = s.disp := rfl
@[simp] theorem State.setOp_codes (s : State) (o : Nat) (e : EngOp) : (s.setOp o e).codes = s.codes := rfl
@[simp] theorem State.setOp_gens (s : State) (o : Nat) (e : EngOp) : (s.setOp o e).gens = s.gens := rfl
@[simp] theorem State.setOp_fab (s : State) (o : Nat) (e : EngOp) : (s.setOp o e).fab = s.fab := rfl
@[simp] theorem State.setOp_host (s : State) (o : Nat) (e : EngOp) : (s.setOp o e).host = s.host := rfl
@[simp] theorem State.setOp_env (s : State) (o : Nat) (e : EngOp) : (s.setOp o e).env = s.env := rfl
@[simp] theorem State.setOp_bundle (s : State) (o : Nat) (e : EngOp) : (s.setOp o e).bundle = s.bundle := rfl

@[simp] theorem State.setTask_mem (s : State) (key : Nat) (t : Task) : (s.setTask key t).mem = s.mem := rfl
@[simp] theorem State.setTask_poison (s : State) (key : Nat) (t : Task) : (s.setTask key t).poison = s.poison := rfl
@[simp] theorem State.setTask_cores (s : State) (key : Nat) (t : Task) : (s.setTask key t).cores = s.cores := rfl
@[simp] theorem State.setTask_dies (s : State) (key : Nat) (t : Task) : (s.setTask key t).dies = s.dies := rfl
@[simp] theorem State.setTask_pumps (s : State) (key : Nat) (t : Task) : (s.setTask key t).pumps = s.pumps := rfl
@[simp] theorem State.setTask_ops (s : State) (key : Nat) (t : Task) : (s.setTask key t).ops = s.ops := rfl
@[simp] theorem State.setTask_codes (s : State) (key : Nat) (t : Task) : (s.setTask key t).codes = s.codes := rfl
@[simp] theorem State.setTask_gens (s : State) (key : Nat) (t : Task) : (s.setTask key t).gens = s.gens := rfl
@[simp] theorem State.setTask_fab (s : State) (key : Nat) (t : Task) : (s.setTask key t).fab = s.fab := rfl
@[simp] theorem State.setTask_host (s : State) (key : Nat) (t : Task) : (s.setTask key t).host = s.host := rfl
@[simp] theorem State.setTask_env (s : State) (key : Nat) (t : Task) : (s.setTask key t).env = s.env := rfl
@[simp] theorem State.setTask_bundle (s : State) (key : Nat) (t : Task) : (s.setTask key t).bundle = s.bundle := rfl

@[simp] theorem State.modDisp_mem (s : State) (f : Dispatch → Dispatch) : (s.modDisp f).mem = s.mem := rfl
@[simp] theorem State.modDisp_poison (s : State) (f : Dispatch → Dispatch) : (s.modDisp f).poison = s.poison := rfl
@[simp] theorem State.modDisp_cores (s : State) (f : Dispatch → Dispatch) : (s.modDisp f).cores = s.cores := rfl
@[simp] theorem State.modDisp_dies (s : State) (f : Dispatch → Dispatch) : (s.modDisp f).dies = s.dies := rfl
@[simp] theorem State.modDisp_pumps (s : State) (f : Dispatch → Dispatch) : (s.modDisp f).pumps = s.pumps := rfl
@[simp] theorem State.modDisp_ops (s : State) (f : Dispatch → Dispatch) : (s.modDisp f).ops = s.ops := rfl
@[simp] theorem State.modDisp_disp (s : State) (f : Dispatch → Dispatch) : (s.modDisp f).disp = f s.disp := rfl
@[simp] theorem State.modDisp_codes (s : State) (f : Dispatch → Dispatch) : (s.modDisp f).codes = s.codes := rfl
@[simp] theorem State.modDisp_gens (s : State) (f : Dispatch → Dispatch) : (s.modDisp f).gens = s.gens := rfl
@[simp] theorem State.modDisp_fab (s : State) (f : Dispatch → Dispatch) : (s.modDisp f).fab = s.fab := rfl
@[simp] theorem State.modDisp_host (s : State) (f : Dispatch → Dispatch) : (s.modDisp f).host = s.host := rfl
@[simp] theorem State.modDisp_env (s : State) (f : Dispatch → Dispatch) : (s.modDisp f).env = s.env := rfl
@[simp] theorem State.modDisp_bundle (s : State) (f : Dispatch → Dispatch) : (s.modDisp f).bundle = s.bundle := rfl

@[simp] theorem State.modFnHost_mem (s : State) (v : Nat) (f : FnHost → FnHost) : (s.modFnHost v f).mem = s.mem := rfl
@[simp] theorem State.modFnHost_poison (s : State) (v : Nat) (f : FnHost → FnHost) : (s.modFnHost v f).poison = s.poison := rfl
@[simp] theorem State.modFnHost_cores (s : State) (v : Nat) (f : FnHost → FnHost) : (s.modFnHost v f).cores = s.cores := rfl
@[simp] theorem State.modFnHost_dies (s : State) (v : Nat) (f : FnHost → FnHost) : (s.modFnHost v f).dies = s.dies := rfl
@[simp] theorem State.modFnHost_pumps (s : State) (v : Nat) (f : FnHost → FnHost) : (s.modFnHost v f).pumps = s.pumps := rfl
@[simp] theorem State.modFnHost_ops (s : State) (v : Nat) (f : FnHost → FnHost) : (s.modFnHost v f).ops = s.ops := rfl
@[simp] theorem State.modFnHost_disp (s : State) (v : Nat) (f : FnHost → FnHost) : (s.modFnHost v f).disp = s.disp := rfl
@[simp] theorem State.modFnHost_codes (s : State) (v : Nat) (f : FnHost → FnHost) : (s.modFnHost v f).codes = s.codes := rfl
@[simp] theorem State.modFnHost_gens (s : State) (v : Nat) (f : FnHost → FnHost) : (s.modFnHost v f).gens = s.gens := rfl
@[simp] theorem State.modFnHost_fab (s : State) (v : Nat) (f : FnHost → FnHost) : (s.modFnHost v f).fab = s.fab := rfl
@[simp] theorem State.modFnHost_env (s : State) (v : Nat) (f : FnHost → FnHost) : (s.modFnHost v f).env = s.env := rfl
@[simp] theorem State.modFnHost_bundle (s : State) (v : Nat) (f : FnHost → FnHost) : (s.modFnHost v f).bundle = s.bundle := rfl

@[simp] theorem State.modHost_mem (s : State) (f : HostIf → HostIf) : (s.modHost f).mem = s.mem := rfl
@[simp] theorem State.modHost_poison (s : State) (f : HostIf → HostIf) : (s.modHost f).poison = s.poison := rfl
@[simp] theorem State.modHost_cores (s : State) (f : HostIf → HostIf) : (s.modHost f).cores = s.cores := rfl
@[simp] theorem State.modHost_dies (s : State) (f : HostIf → HostIf) : (s.modHost f).dies = s.dies := rfl
@[simp] theorem State.modHost_pumps (s : State) (f : HostIf → HostIf) : (s.modHost f).pumps = s.pumps := rfl
@[simp] theorem State.modHost_ops (s : State) (f : HostIf → HostIf) : (s.modHost f).ops = s.ops := rfl
@[simp] theorem State.modHost_disp (s : State) (f : HostIf → HostIf) : (s.modHost f).disp = s.disp := rfl
@[simp] theorem State.modHost_codes (s : State) (f : HostIf → HostIf) : (s.modHost f).codes = s.codes := rfl
@[simp] theorem State.modHost_gens (s : State) (f : HostIf → HostIf) : (s.modHost f).gens = s.gens := rfl
@[simp] theorem State.modHost_fab (s : State) (f : HostIf → HostIf) : (s.modHost f).fab = s.fab := rfl
@[simp] theorem State.modHost_host (s : State) (f : HostIf → HostIf) : (s.modHost f).host = f s.host := rfl
@[simp] theorem State.modHost_env (s : State) (f : HostIf → HostIf) : (s.modHost f).env = s.env := rfl
@[simp] theorem State.modHost_bundle (s : State) (f : HostIf → HostIf) : (s.modHost f).bundle = s.bundle := rfl

@[simp] theorem State.modFab_mem (s : State) (f : Fabric → Fabric) : (s.modFab f).mem = s.mem := rfl
@[simp] theorem State.modFab_poison (s : State) (f : Fabric → Fabric) : (s.modFab f).poison = s.poison := rfl
@[simp] theorem State.modFab_cores (s : State) (f : Fabric → Fabric) : (s.modFab f).cores = s.cores := rfl
@[simp] theorem State.modFab_dies (s : State) (f : Fabric → Fabric) : (s.modFab f).dies = s.dies := rfl
@[simp] theorem State.modFab_pumps (s : State) (f : Fabric → Fabric) : (s.modFab f).pumps = s.pumps := rfl
@[simp] theorem State.modFab_ops (s : State) (f : Fabric → Fabric) : (s.modFab f).ops = s.ops := rfl
@[simp] theorem State.modFab_disp (s : State) (f : Fabric → Fabric) : (s.modFab f).disp = s.disp := rfl
@[simp] theorem State.modFab_codes (s : State) (f : Fabric → Fabric) : (s.modFab f).codes = s.codes := rfl
@[simp] theorem State.modFab_gens (s : State) (f : Fabric → Fabric) : (s.modFab f).gens = s.gens := rfl
@[simp] theorem State.modFab_fab (s : State) (f : Fabric → Fabric) : (s.modFab f).fab = f s.fab := rfl
@[simp] theorem State.modFab_host (s : State) (f : Fabric → Fabric) : (s.modFab f).host = s.host := rfl
@[simp] theorem State.modFab_env (s : State) (f : Fabric → Fabric) : (s.modFab f).env = s.env := rfl
@[simp] theorem State.modFab_bundle (s : State) (f : Fabric → Fabric) : (s.modFab f).bundle = s.bundle := rfl

@[simp] theorem State.modEnv_mem (s : State) (f : Env → Env) : (s.modEnv f).mem = s.mem := rfl
@[simp] theorem State.modEnv_poison (s : State) (f : Env → Env) : (s.modEnv f).poison = s.poison := rfl
@[simp] theorem State.modEnv_cores (s : State) (f : Env → Env) : (s.modEnv f).cores = s.cores := rfl
@[simp] theorem State.modEnv_dies (s : State) (f : Env → Env) : (s.modEnv f).dies = s.dies := rfl
@[simp] theorem State.modEnv_pumps (s : State) (f : Env → Env) : (s.modEnv f).pumps = s.pumps := rfl
@[simp] theorem State.modEnv_ops (s : State) (f : Env → Env) : (s.modEnv f).ops = s.ops := rfl
@[simp] theorem State.modEnv_disp (s : State) (f : Env → Env) : (s.modEnv f).disp = s.disp := rfl
@[simp] theorem State.modEnv_codes (s : State) (f : Env → Env) : (s.modEnv f).codes = s.codes := rfl
@[simp] theorem State.modEnv_gens (s : State) (f : Env → Env) : (s.modEnv f).gens = s.gens := rfl
@[simp] theorem State.modEnv_fab (s : State) (f : Env → Env) : (s.modEnv f).fab = s.fab := rfl
@[simp] theorem State.modEnv_host (s : State) (f : Env → Env) : (s.modEnv f).host = s.host := rfl
@[simp] theorem State.modEnv_env (s : State) (f : Env → Env) : (s.modEnv f).env = f s.env := rfl
@[simp] theorem State.modEnv_bundle (s : State) (f : Env → Env) : (s.modEnv f).bundle = s.bundle := rfl

@[simp] theorem State.modBundle_mem (s : State) (f : BundleCtx → BundleCtx) : (s.modBundle f).mem = s.mem := rfl
@[simp] theorem State.modBundle_poison (s : State) (f : BundleCtx → BundleCtx) : (s.modBundle f).poison = s.poison := rfl
@[simp] theorem State.modBundle_cores (s : State) (f : BundleCtx → BundleCtx) : (s.modBundle f).cores = s.cores := rfl
@[simp] theorem State.modBundle_dies (s : State) (f : BundleCtx → BundleCtx) : (s.modBundle f).dies = s.dies := rfl
@[simp] theorem State.modBundle_pumps (s : State) (f : BundleCtx → BundleCtx) : (s.modBundle f).pumps = s.pumps := rfl
@[simp] theorem State.modBundle_ops (s : State) (f : BundleCtx → BundleCtx) : (s.modBundle f).ops = s.ops := rfl
@[simp] theorem State.modBundle_disp (s : State) (f : BundleCtx → BundleCtx) : (s.modBundle f).disp = s.disp := rfl
@[simp] theorem State.modBundle_codes (s : State) (f : BundleCtx → BundleCtx) : (s.modBundle f).codes = s.codes := rfl
@[simp] theorem State.modBundle_gens (s : State) (f : BundleCtx → BundleCtx) : (s.modBundle f).gens = s.gens := rfl
@[simp] theorem State.modBundle_fab (s : State) (f : BundleCtx → BundleCtx) : (s.modBundle f).fab = s.fab := rfl
@[simp] theorem State.modBundle_host (s : State) (f : BundleCtx → BundleCtx) : (s.modBundle f).host = s.host := rfl
@[simp] theorem State.modBundle_env (s : State) (f : BundleCtx → BundleCtx) : (s.modBundle f).env = s.env := rfl
@[simp] theorem State.modBundle_bundle (s : State) (f : BundleCtx → BundleCtx) : (s.modBundle f).bundle = f s.bundle := rfl

/-! ### Parts -/

@[simp] theorem State.setCore_die (s : State) (c : Nat) (x : Core) (d' : Nat) : (s.setCore c x).die d' = s.die d' := rfl
@[simp] theorem State.setCore_pump (s : State) (c : Nat) (x : Core) (p' : Nat) : (s.setCore c x).pump p' = s.pump p' := rfl
@[simp] theorem State.setCore_op (s : State) (c : Nat) (x : Core) (o' : Nat) : (s.setCore c x).op? o' = s.op? o' := rfl
@[simp] theorem State.setCore_task (s : State) (c : Nat) (x : Core) (y : Nat) : (s.setCore c x).task? y = s.task? y := rfl
@[simp] theorem State.setCore_byte (s : State) (c : Nat) (x : Core) (a : Nat) : (s.setCore c x).byte a = s.byte a := rfl

@[simp] theorem State.modCore_die (s : State) (c : Nat) (f : Core → Core) (d' : Nat) : (s.modCore c f).die d' = s.die d' := rfl
@[simp] theorem State.modCore_pump (s : State) (c : Nat) (f : Core → Core) (p' : Nat) : (s.modCore c f).pump p' = s.pump p' := rfl
@[simp] theorem State.modCore_op (s : State) (c : Nat) (f : Core → Core) (o' : Nat) : (s.modCore c f).op? o' = s.op? o' := rfl
@[simp] theorem State.modCore_task (s : State) (c : Nat) (f : Core → Core) (y : Nat) : (s.modCore c f).task? y = s.task? y := rfl
@[simp] theorem State.modCore_byte (s : State) (c : Nat) (f : Core → Core) (a : Nat) : (s.modCore c f).byte a = s.byte a := rfl

@[simp] theorem State.setStrand_die (s : State) (c k : Nat) (t : Strand) (d' : Nat) : (s.setStrand c k t).die d' = s.die d' := rfl
@[simp] theorem State.setStrand_pump (s : State) (c k : Nat) (t : Strand) (p' : Nat) : (s.setStrand c k t).pump p' = s.pump p' := rfl
@[simp] theorem State.setStrand_op (s : State) (c k : Nat) (t : Strand) (o' : Nat) : (s.setStrand c k t).op? o' = s.op? o' := rfl
@[simp] theorem State.setStrand_task (s : State) (c k : Nat) (t : Strand) (y : Nat) : (s.setStrand c k t).task? y = s.task? y := rfl
@[simp] theorem State.setStrand_byte (s : State) (c k : Nat) (t : Strand) (a : Nat) : (s.setStrand c k t).byte a = s.byte a := rfl

@[simp] theorem State.modStrand_die (s : State) (c k : Nat) (f : Strand → Strand) (d' : Nat) : (s.modStrand c k f).die d' = s.die d' := rfl
@[simp] theorem State.modStrand_pump (s : State) (c k : Nat) (f : Strand → Strand) (p' : Nat) : (s.modStrand c k f).pump p' = s.pump p' := rfl
@[simp] theorem State.modStrand_op (s : State) (c k : Nat) (f : Strand → Strand) (o' : Nat) : (s.modStrand c k f).op? o' = s.op? o' := rfl
@[simp] theorem State.modStrand_task (s : State) (c k : Nat) (f : Strand → Strand) (y : Nat) : (s.modStrand c k f).task? y = s.task? y := rfl
@[simp] theorem State.modStrand_byte (s : State) (c k : Nat) (f : Strand → Strand) (a : Nat) : (s.modStrand c k f).byte a = s.byte a := rfl

@[simp] theorem State.modCtx_die (s : State) (c k : Nat) (f : Ctx → Ctx) (d' : Nat) : (s.modCtx c k f).die d' = s.die d' := rfl
@[simp] theorem State.modCtx_pump (s : State) (c k : Nat) (f : Ctx → Ctx) (p' : Nat) : (s.modCtx c k f).pump p' = s.pump p' := rfl
@[simp] theorem State.modCtx_op (s : State) (c k : Nat) (f : Ctx → Ctx) (o' : Nat) : (s.modCtx c k f).op? o' = s.op? o' := rfl
@[simp] theorem State.modCtx_task (s : State) (c k : Nat) (f : Ctx → Ctx) (y : Nat) : (s.modCtx c k f).task? y = s.task? y := rfl
@[simp] theorem State.modCtx_byte (s : State) (c k : Nat) (f : Ctx → Ctx) (a : Nat) : (s.modCtx c k f).byte a = s.byte a := rfl

@[simp] theorem State.modFlow_die (s : State) (c k : Nat) (f : Flow → Flow) (d' : Nat) : (s.modFlow c k f).die d' = s.die d' := rfl
@[simp] theorem State.modFlow_pump (s : State) (c k : Nat) (f : Flow → Flow) (p' : Nat) : (s.modFlow c k f).pump p' = s.pump p' := rfl
@[simp] theorem State.modFlow_op (s : State) (c k : Nat) (f : Flow → Flow) (o' : Nat) : (s.modFlow c k f).op? o' = s.op? o' := rfl
@[simp] theorem State.modFlow_task (s : State) (c k : Nat) (f : Flow → Flow) (y : Nat) : (s.modFlow c k f).task? y = s.task? y := rfl
@[simp] theorem State.modFlow_byte (s : State) (c k : Nat) (f : Flow → Flow) (a : Nat) : (s.modFlow c k f).byte a = s.byte a := rfl

@[simp] theorem State.modFlight_die (s : State) (c : Nat) (f : Flight → Flight) (d' : Nat) : (s.modFlight c f).die d' = s.die d' := rfl
@[simp] theorem State.modFlight_pump (s : State) (c : Nat) (f : Flight → Flight) (p' : Nat) : (s.modFlight c f).pump p' = s.pump p' := rfl
@[simp] theorem State.modFlight_op (s : State) (c : Nat) (f : Flight → Flight) (o' : Nat) : (s.modFlight c f).op? o' = s.op? o' := rfl
@[simp] theorem State.modFlight_task (s : State) (c : Nat) (f : Flight → Flight) (y : Nat) : (s.modFlight c f).task? y = s.task? y := rfl
@[simp] theorem State.modFlight_byte (s : State) (c : Nat) (f : Flight → Flight) (a : Nat) : (s.modFlight c f).byte a = s.byte a := rfl

@[simp] theorem State.setQueue_die (s : State) (c k q : Nat) (d : Queue) (d' : Nat) : (s.setQueue c k q d).die d' = s.die d' := rfl
@[simp] theorem State.setQueue_pump (s : State) (c k q : Nat) (d : Queue) (p' : Nat) : (s.setQueue c k q d).pump p' = s.pump p' := rfl
@[simp] theorem State.setQueue_op (s : State) (c k q : Nat) (d : Queue) (o' : Nat) : (s.setQueue c k q d).op? o' = s.op? o' := rfl
@[simp] theorem State.setQueue_task (s : State) (c k q : Nat) (d : Queue) (y : Nat) : (s.setQueue c k q d).task? y = s.task? y := rfl
@[simp] theorem State.setQueue_byte (s : State) (c k q : Nat) (d : Queue) (a : Nat) : (s.setQueue c k q d).byte a = s.byte a := rfl

@[simp] theorem State.modQueue_die (s : State) (c k q : Nat) (f : Queue → Queue) (d' : Nat) : (s.modQueue c k q f).die d' = s.die d' := rfl
@[simp] theorem State.modQueue_pump (s : State) (c k q : Nat) (f : Queue → Queue) (p' : Nat) : (s.modQueue c k q f).pump p' = s.pump p' := rfl
@[simp] theorem State.modQueue_op (s : State) (c k q : Nat) (f : Queue → Queue) (o' : Nat) : (s.modQueue c k q f).op? o' = s.op? o' := rfl
@[simp] theorem State.modQueue_task (s : State) (c k q : Nat) (f : Queue → Queue) (y : Nat) : (s.modQueue c k q f).task? y = s.task? y := rfl
@[simp] theorem State.modQueue_byte (s : State) (c k q : Nat) (f : Queue → Queue) (a : Nat) : (s.modQueue c k q f).byte a = s.byte a := rfl

@[simp] theorem State.modMq_die (s : State) (c n : Nat) (f : MQueue → MQueue) (d' : Nat) : (s.modMq c n f).die d' = s.die d' := rfl
@[simp] theorem State.modMq_pump (s : State) (c n : Nat) (f : MQueue → MQueue) (p' : Nat) : (s.modMq c n f).pump p' = s.pump p' := rfl
@[simp] theorem State.modMq_op (s : State) (c n : Nat) (f : MQueue → MQueue) (o' : Nat) : (s.modMq c n f).op? o' = s.op? o' := rfl
@[simp] theorem State.modMq_task (s : State) (c n : Nat) (f : MQueue → MQueue) (y : Nat) : (s.modMq c n f).task? y = s.task? y := rfl
@[simp] theorem State.modMq_byte (s : State) (c n : Nat) (f : MQueue → MQueue) (a : Nat) : (s.modMq c n f).byte a = s.byte a := rfl

@[simp] theorem State.modUnit_die (s : State) (c u : Nat) (f : MatUnit → MatUnit) (d' : Nat) : (s.modUnit c u f).die d' = s.die d' := rfl
@[simp] theorem State.modUnit_pump (s : State) (c u : Nat) (f : MatUnit → MatUnit) (p' : Nat) : (s.modUnit c u f).pump p' = s.pump p' := rfl
@[simp] theorem State.modUnit_op (s : State) (c u : Nat) (f : MatUnit → MatUnit) (o' : Nat) : (s.modUnit c u f).op? o' = s.op? o' := rfl
@[simp] theorem State.modUnit_task (s : State) (c u : Nat) (f : MatUnit → MatUnit) (y : Nat) : (s.modUnit c u f).task? y = s.task? y := rfl
@[simp] theorem State.modUnit_byte (s : State) (c u : Nat) (f : MatUnit → MatUnit) (a : Nat) : (s.modUnit c u f).byte a = s.byte a := rfl

@[simp] theorem State.modDie_core (s : State) (d : Nat) (f : Die → Die) (c' : Nat) : (s.modDie d f).core c' = s.core c' := rfl
@[simp] theorem State.modDie_strand (s : State) (d : Nat) (f : Die → Die) (c' k' : Nat) : (s.modDie d f).strand c' k' = s.strand c' k' := rfl
@[simp] theorem State.modDie_queue (s : State) (d : Nat) (f : Die → Die) (c' k' q' : Nat) : (s.modDie d f).queue c' k' q' = s.queue c' k' q' := rfl
@[simp] theorem State.modDie_pump (s : State) (d : Nat) (f : Die → Die) (p' : Nat) : (s.modDie d f).pump p' = s.pump p' := rfl
@[simp] theorem State.modDie_op (s : State) (d : Nat) (f : Die → Die) (o' : Nat) : (s.modDie d f).op? o' = s.op? o' := rfl
@[simp] theorem State.modDie_task (s : State) (d : Nat) (f : Die → Die) (y : Nat) : (s.modDie d f).task? y = s.task? y := rfl
@[simp] theorem State.modDie_byte (s : State) (d : Nat) (f : Die → Die) (a : Nat) : (s.modDie d f).byte a = s.byte a := rfl

@[simp] theorem State.modPump_core (s : State) (p : Nat) (f : Pump → Pump) (c' : Nat) : (s.modPump p f).core c' = s.core c' := rfl
@[simp] theorem State.modPump_strand (s : State) (p : Nat) (f : Pump → Pump) (c' k' : Nat) : (s.modPump p f).strand c' k' = s.strand c' k' := rfl
@[simp] theorem State.modPump_queue (s : State) (p : Nat) (f : Pump → Pump) (c' k' q' : Nat) : (s.modPump p f).queue c' k' q' = s.queue c' k' q' := rfl
@[simp] theorem State.modPump_die (s : State) (p : Nat) (f : Pump → Pump) (d' : Nat) : (s.modPump p f).die d' = s.die d' := rfl
@[simp] theorem State.modPump_op (s : State) (p : Nat) (f : Pump → Pump) (o' : Nat) : (s.modPump p f).op? o' = s.op? o' := rfl
@[simp] theorem State.modPump_task (s : State) (p : Nat) (f : Pump → Pump) (y : Nat) : (s.modPump p f).task? y = s.task? y := rfl
@[simp] theorem State.modPump_byte (s : State) (p : Nat) (f : Pump → Pump) (a : Nat) : (s.modPump p f).byte a = s.byte a := rfl

@[simp] theorem State.setOp_core (s : State) (o : Nat) (e : EngOp) (c' : Nat) : (s.setOp o e).core c' = s.core c' := rfl
@[simp] theorem State.setOp_strand (s : State) (o : Nat) (e : EngOp) (c' k' : Nat) : (s.setOp o e).strand c' k' = s.strand c' k' := rfl
@[simp] theorem State.setOp_queue (s : State) (o : Nat) (e : EngOp) (c' k' q' : Nat) : (s.setOp o e).queue c' k' q' = s.queue c' k' q' := rfl
@[simp] theorem State.setOp_die (s : State) (o : Nat) (e : EngOp) (d' : Nat) : (s.setOp o e).die d' = s.die d' := rfl
@[simp] theorem State.setOp_pump (s : State) (o : Nat) (e : EngOp) (p' : Nat) : (s.setOp o e).pump p' = s.pump p' := rfl
@[simp] theorem State.setOp_task (s : State) (o : Nat) (e : EngOp) (y : Nat) : (s.setOp o e).task? y = s.task? y := rfl
@[simp] theorem State.setOp_byte (s : State) (o : Nat) (e : EngOp) (a : Nat) : (s.setOp o e).byte a = s.byte a := rfl

@[simp] theorem State.setTask_core (s : State) (key : Nat) (t : Task) (c' : Nat) : (s.setTask key t).core c' = s.core c' := rfl
@[simp] theorem State.setTask_strand (s : State) (key : Nat) (t : Task) (c' k' : Nat) : (s.setTask key t).strand c' k' = s.strand c' k' := rfl
@[simp] theorem State.setTask_queue (s : State) (key : Nat) (t : Task) (c' k' q' : Nat) : (s.setTask key t).queue c' k' q' = s.queue c' k' q' := rfl
@[simp] theorem State.setTask_die (s : State) (key : Nat) (t : Task) (d' : Nat) : (s.setTask key t).die d' = s.die d' := rfl
@[simp] theorem State.setTask_pump (s : State) (key : Nat) (t : Task) (p' : Nat) : (s.setTask key t).pump p' = s.pump p' := rfl
@[simp] theorem State.setTask_op (s : State) (key : Nat) (t : Task) (o' : Nat) : (s.setTask key t).op? o' = s.op? o' := rfl
@[simp] theorem State.setTask_byte (s : State) (key : Nat) (t : Task) (a : Nat) : (s.setTask key t).byte a = s.byte a := rfl

@[simp] theorem State.modDisp_core (s : State) (f : Dispatch → Dispatch) (c' : Nat) : (s.modDisp f).core c' = s.core c' := rfl
@[simp] theorem State.modDisp_strand (s : State) (f : Dispatch → Dispatch) (c' k' : Nat) : (s.modDisp f).strand c' k' = s.strand c' k' := rfl
@[simp] theorem State.modDisp_queue (s : State) (f : Dispatch → Dispatch) (c' k' q' : Nat) : (s.modDisp f).queue c' k' q' = s.queue c' k' q' := rfl
@[simp] theorem State.modDisp_die (s : State) (f : Dispatch → Dispatch) (d' : Nat) : (s.modDisp f).die d' = s.die d' := rfl
@[simp] theorem State.modDisp_pump (s : State) (f : Dispatch → Dispatch) (p' : Nat) : (s.modDisp f).pump p' = s.pump p' := rfl
@[simp] theorem State.modDisp_op (s : State) (f : Dispatch → Dispatch) (o' : Nat) : (s.modDisp f).op? o' = s.op? o' := rfl
@[simp] theorem State.modDisp_byte (s : State) (f : Dispatch → Dispatch) (a : Nat) : (s.modDisp f).byte a = s.byte a := rfl

@[simp] theorem State.modFnHost_core (s : State) (v : Nat) (f : FnHost → FnHost) (c' : Nat) : (s.modFnHost v f).core c' = s.core c' := rfl
@[simp] theorem State.modFnHost_strand (s : State) (v : Nat) (f : FnHost → FnHost) (c' k' : Nat) : (s.modFnHost v f).strand c' k' = s.strand c' k' := rfl
@[simp] theorem State.modFnHost_queue (s : State) (v : Nat) (f : FnHost → FnHost) (c' k' q' : Nat) : (s.modFnHost v f).queue c' k' q' = s.queue c' k' q' := rfl
@[simp] theorem State.modFnHost_die (s : State) (v : Nat) (f : FnHost → FnHost) (d' : Nat) : (s.modFnHost v f).die d' = s.die d' := rfl
@[simp] theorem State.modFnHost_pump (s : State) (v : Nat) (f : FnHost → FnHost) (p' : Nat) : (s.modFnHost v f).pump p' = s.pump p' := rfl
@[simp] theorem State.modFnHost_op (s : State) (v : Nat) (f : FnHost → FnHost) (o' : Nat) : (s.modFnHost v f).op? o' = s.op? o' := rfl
@[simp] theorem State.modFnHost_task (s : State) (v : Nat) (f : FnHost → FnHost) (y : Nat) : (s.modFnHost v f).task? y = s.task? y := rfl
@[simp] theorem State.modFnHost_byte (s : State) (v : Nat) (f : FnHost → FnHost) (a : Nat) : (s.modFnHost v f).byte a = s.byte a := rfl

@[simp] theorem State.modHost_core (s : State) (f : HostIf → HostIf) (c' : Nat) : (s.modHost f).core c' = s.core c' := rfl
@[simp] theorem State.modHost_strand (s : State) (f : HostIf → HostIf) (c' k' : Nat) : (s.modHost f).strand c' k' = s.strand c' k' := rfl
@[simp] theorem State.modHost_queue (s : State) (f : HostIf → HostIf) (c' k' q' : Nat) : (s.modHost f).queue c' k' q' = s.queue c' k' q' := rfl
@[simp] theorem State.modHost_die (s : State) (f : HostIf → HostIf) (d' : Nat) : (s.modHost f).die d' = s.die d' := rfl
@[simp] theorem State.modHost_pump (s : State) (f : HostIf → HostIf) (p' : Nat) : (s.modHost f).pump p' = s.pump p' := rfl
@[simp] theorem State.modHost_op (s : State) (f : HostIf → HostIf) (o' : Nat) : (s.modHost f).op? o' = s.op? o' := rfl
@[simp] theorem State.modHost_task (s : State) (f : HostIf → HostIf) (y : Nat) : (s.modHost f).task? y = s.task? y := rfl
@[simp] theorem State.modHost_byte (s : State) (f : HostIf → HostIf) (a : Nat) : (s.modHost f).byte a = s.byte a := rfl

@[simp] theorem State.modFab_core (s : State) (f : Fabric → Fabric) (c' : Nat) : (s.modFab f).core c' = s.core c' := rfl
@[simp] theorem State.modFab_strand (s : State) (f : Fabric → Fabric) (c' k' : Nat) : (s.modFab f).strand c' k' = s.strand c' k' := rfl
@[simp] theorem State.modFab_queue (s : State) (f : Fabric → Fabric) (c' k' q' : Nat) : (s.modFab f).queue c' k' q' = s.queue c' k' q' := rfl
@[simp] theorem State.modFab_die (s : State) (f : Fabric → Fabric) (d' : Nat) : (s.modFab f).die d' = s.die d' := rfl
@[simp] theorem State.modFab_pump (s : State) (f : Fabric → Fabric) (p' : Nat) : (s.modFab f).pump p' = s.pump p' := rfl
@[simp] theorem State.modFab_op (s : State) (f : Fabric → Fabric) (o' : Nat) : (s.modFab f).op? o' = s.op? o' := rfl
@[simp] theorem State.modFab_task (s : State) (f : Fabric → Fabric) (y : Nat) : (s.modFab f).task? y = s.task? y := rfl
@[simp] theorem State.modFab_byte (s : State) (f : Fabric → Fabric) (a : Nat) : (s.modFab f).byte a = s.byte a := rfl

@[simp] theorem State.modEnv_core (s : State) (f : Env → Env) (c' : Nat) : (s.modEnv f).core c' = s.core c' := rfl
@[simp] theorem State.modEnv_strand (s : State) (f : Env → Env) (c' k' : Nat) : (s.modEnv f).strand c' k' = s.strand c' k' := rfl
@[simp] theorem State.modEnv_queue (s : State) (f : Env → Env) (c' k' q' : Nat) : (s.modEnv f).queue c' k' q' = s.queue c' k' q' := rfl
@[simp] theorem State.modEnv_die (s : State) (f : Env → Env) (d' : Nat) : (s.modEnv f).die d' = s.die d' := rfl
@[simp] theorem State.modEnv_pump (s : State) (f : Env → Env) (p' : Nat) : (s.modEnv f).pump p' = s.pump p' := rfl
@[simp] theorem State.modEnv_op (s : State) (f : Env → Env) (o' : Nat) : (s.modEnv f).op? o' = s.op? o' := rfl
@[simp] theorem State.modEnv_task (s : State) (f : Env → Env) (y : Nat) : (s.modEnv f).task? y = s.task? y := rfl
@[simp] theorem State.modEnv_byte (s : State) (f : Env → Env) (a : Nat) : (s.modEnv f).byte a = s.byte a := rfl

@[simp] theorem State.modBundle_core (s : State) (f : BundleCtx → BundleCtx) (c' : Nat) : (s.modBundle f).core c' = s.core c' := rfl
@[simp] theorem State.modBundle_strand (s : State) (f : BundleCtx → BundleCtx) (c' k' : Nat) : (s.modBundle f).strand c' k' = s.strand c' k' := rfl
@[simp] theorem State.modBundle_queue (s : State) (f : BundleCtx → BundleCtx) (c' k' q' : Nat) : (s.modBundle f).queue c' k' q' = s.queue c' k' q' := rfl
@[simp] theorem State.modBundle_die (s : State) (f : BundleCtx → BundleCtx) (d' : Nat) : (s.modBundle f).die d' = s.die d' := rfl
@[simp] theorem State.modBundle_pump (s : State) (f : BundleCtx → BundleCtx) (p' : Nat) : (s.modBundle f).pump p' = s.pump p' := rfl
@[simp] theorem State.modBundle_op (s : State) (f : BundleCtx → BundleCtx) (o' : Nat) : (s.modBundle f).op? o' = s.op? o' := rfl
@[simp] theorem State.modBundle_task (s : State) (f : BundleCtx → BundleCtx) (y : Nat) : (s.modBundle f).task? y = s.task? y := rfl
@[simp] theorem State.modBundle_byte (s : State) (f : BundleCtx → BundleCtx) (a : Nat) : (s.modBundle f).byte a = s.byte a := rfl

/-! ### Reads after writes -/

theorem State.core_setCore (s : State) (c c' : Nat) (x : Core) : (s.setCore c x).core c' = if c' = c then x else s.core c' :=
  Table.getD_set _ _ _ _ _

theorem State.core_modCore (s : State) (c c' : Nat) (f : Core → Core) :
    (s.modCore c f).core c' = if c' = c then f (s.core c) else s.core c' := Table.getD_set _ _ _ _ _

theorem Core.strand_setStrand (x : Core) (k k' : Nat) (t : Strand) :
    (x.setStrand k t).strand k' = if k' = k then t else x.strand k' := Table.getD_set _ _ _ _ _

theorem Strand.queue_setQueue (t : Strand) (q q' : Nat) (d : Queue) :
    (t.setQueue q d).queue q' = if q' = q then d else t.queue q' := Table.getD_set _ _ _ _ _

theorem State.core_setStrand (s : State) (c k c' : Nat) (t : Strand) :
    (s.setStrand c k t).core c' = if c' = c then (s.core c).setStrand k t else s.core c' := Table.getD_set _ _ _ _ _

theorem State.core_modStrand (s : State) (c k c' : Nat) (f : Strand → Strand) :
    (s.modStrand c k f).core c' = if c' = c then (s.core c).setStrand k (f (s.strand c k)) else s.core c' := Table.getD_set _ _ _ _ _

theorem State.strand_setStrand (s : State) (c k c' k' : Nat) (t : Strand) :
    (s.setStrand c k t).strand c' k' = if c' = c ∧ k' = k then t else s.strand c' k' := by
  unfold State.strand
  rw [State.core_setStrand]
  by_cases h : c' = c
  · subst h; simp [Core.strand_setStrand]
  · simp [h]

theorem State.strand_modStrand (s : State) (c k c' k' : Nat) (f : Strand → Strand) :
    (s.modStrand c k f).strand c' k' = if c' = c ∧ k' = k then f (s.strand c k) else s.strand c' k' :=
  State.strand_setStrand s c k c' k' _

theorem State.strand_modCtx (s : State) (c k c' k' : Nat) (f : Ctx → Ctx) :
    (s.modCtx c k f).strand c' k' =
      if c' = c ∧ k' = k then { s.strand c k with ctx := f (s.strand c k).ctx } else s.strand c' k' :=
  State.strand_setStrand s c k c' k' _

theorem State.strand_modFlow (s : State) (c k c' k' : Nat) (f : Flow → Flow) :
    (s.modFlow c k f).strand c' k' =
      if c' = c ∧ k' = k then { s.strand c k with flow := f (s.strand c k).flow } else s.strand c' k' :=
  State.strand_setStrand s c k c' k' _

theorem State.strand_setQueue (s : State) (c k q c' k' : Nat) (d : Queue) :
    (s.setQueue c k q d).strand c' k' = if c' = c ∧ k' = k then (s.strand c k).setQueue q d else s.strand c' k' :=
  State.strand_setStrand s c k c' k' _

theorem State.queue_setQueue (s : State) (c k q c' k' q' : Nat) (d : Queue) :
    (s.setQueue c k q d).queue c' k' q' = if c' = c ∧ k' = k ∧ q' = q then d else s.queue c' k' q' := by
  unfold State.queue
  rw [State.strand_setQueue]
  by_cases h : c' = c ∧ k' = k
  · obtain ⟨rfl, rfl⟩ := h; simp [Strand.queue_setQueue]
  · rw [if_neg h, if_neg (fun e => h ⟨e.1, e.2.1⟩)]

theorem State.queue_modQueue (s : State) (c k q c' k' q' : Nat) (f : Queue → Queue) :
    (s.modQueue c k q f).queue c' k' q' = if c' = c ∧ k' = k ∧ q' = q then f (s.queue c k q) else s.queue c' k' q' :=
  State.queue_setQueue s c k q c' k' q' _

/-- An update of a core that keeps its strands keeps every strand. -/
theorem State.strand_modCore_of (s : State) (c c' k' : Nat) (f : Core → Core) (h : ∀ x, (f x).strands = x.strands) :
    (s.modCore c f).strand c' k' = s.strand c' k' := by
  unfold State.strand Core.strand
  rw [State.core_modCore]
  split
  · rename_i e; subst e; rw [h]
  · rfl

@[simp] theorem State.strand_modFlight (s : State) (c c' k' : Nat) (f : Flight → Flight) :
    (s.modFlight c f).strand c' k' = s.strand c' k' := State.strand_modCore_of s c c' k' _ (fun _ => rfl)

@[simp] theorem State.strand_modMq (s : State) (c n c' k' : Nat) (f : MQueue → MQueue) :
    (s.modMq c n f).strand c' k' = s.strand c' k' := State.strand_modCore_of s c c' k' _ (fun _ => rfl)

@[simp] theorem State.strand_modUnit (s : State) (c u c' k' : Nat) (f : MatUnit → MatUnit) :
    (s.modUnit c u f).strand c' k' = s.strand c' k' := State.strand_modCore_of s c c' k' _ (fun _ => rfl)

@[simp] theorem State.core_modCore_ne (s : State) (c c' : Nat) (f : Core → Core) (h : c' ≠ c) :
    (s.modCore c f).core c' = s.core c' := by rw [State.core_modCore, if_neg h]

theorem State.die_modDie (s : State) (d d' : Nat) (f : Die → Die) :
    (s.modDie d f).die d' = if d' = d then f (s.die d) else s.die d' := Table.getD_set _ _ _ _ _

theorem State.pump_modPump (s : State) (p p' : Nat) (f : Pump → Pump) :
    (s.modPump p f).pump p' = if p' = p then f (s.pump p) else s.pump p' := Table.getD_set _ _ _ _ _

theorem State.op_setOp (s : State) (o o' : Nat) (e : EngOp) : (s.setOp o e).op? o' = if o' = o then some e else s.op? o' :=
  Table.get?_set _ _ _ _

theorem State.task_setTask (s : State) (y y' : Nat) (t : Task) :
    (s.setTask y t).task? y' = if y' = y then some t else s.task? y' := Table.get?_set _ _ _ _

theorem State.fnHost_modFnHost (s : State) (v v' : Nat) (f : FnHost → FnHost) :
    (s.modFnHost v f).fnHost v' = if v' = v then f (s.fnHost v) else s.fnHost v' := Table.getD_set _ _ _ _ _

end Sys2Proof.Machine
end

