-- ==== Sys2Proof/Laws/Frame.lean ====
section
/-! SUPPORT. What an operation leaves unchanged: memory with its poisoned units, the dies, the pumps, the code table, the generation counters and
the host interface (State.frame); the place of every strand (State.places); the context of every strand but its knots (State.ctxs). One
lemma for each operation and each of the three that it leaves. -/

namespace Sys2Proof.Machine

/-- What no syllable and few other rows touch: memory, poisoned units, dies, pumps, the code table and its generations, the host
interface. -/
def State.frame (s : State) : Mem × List Nat × Table Die × Table Pump × Table Code × Table Nat × HostIf :=
  (s.mem, s.poison, s.dies, s.pumps, s.codes, s.gens, s.host)

/-- The place of every strand. -/
def State.places (s : State) (c k : Nat) : Place := (s.strand c k).place

/-- The context of every strand but its knots. -/
def State.ctxs (s : State) (c k : Nat) : Ctx := { (s.strand c k).ctx with knots := [] }

@[simp] theorem State.frame_setCore (s : State) (c : Nat) (x : Core) : (s.setCore c x).frame = s.frame := rfl
@[simp] theorem State.frame_modCore (s : State) (c : Nat) (f : Core → Core) : (s.modCore c f).frame = s.frame := rfl
@[simp] theorem State.frame_setStrand (s : State) (c k : Nat) (t : Strand) : (s.setStrand c k t).frame = s.frame := rfl
@[simp] theorem State.frame_modStrand (s : State) (c k : Nat) (f : Strand → Strand) : (s.modStrand c k f).frame = s.frame := rfl
@[simp] theorem State.frame_modCtx (s : State) (c k : Nat) (f : Ctx → Ctx) : (s.modCtx c k f).frame = s.frame := rfl
@[simp] theorem State.frame_modFlow (s : State) (c k : Nat) (f : Flow → Flow) : (s.modFlow c k f).frame = s.frame := rfl
@[simp] theorem State.frame_modFlight (s : State) (c : Nat) (f : Flight → Flight) : (s.modFlight c f).frame = s.frame := rfl
@[simp] theorem State.frame_setQueue (s : State) (c k q : Nat) (d : Queue) : (s.setQueue c k q d).frame = s.frame := rfl
@[simp] theorem State.frame_modQueue (s : State) (c k q : Nat) (f : Queue → Queue) : (s.modQueue c k q f).frame = s.frame := rfl
@[simp] theorem State.frame_modMq (s : State) (c n : Nat) (f : MQueue → MQueue) : (s.modMq c n f).frame = s.frame := rfl
@[simp] theorem State.frame_modUnit (s : State) (c u : Nat) (f : MatUnit → MatUnit) : (s.modUnit c u f).frame = s.frame := rfl
@[simp] theorem State.frame_setOp (s : State) (o : Nat) (e : EngOp) : (s.setOp o e).frame = s.frame := rfl
@[simp] theorem State.frame_setTask (s : State) (key : Nat) (t : Task) : (s.setTask key t).frame = s.frame := rfl
@[simp] theorem State.frame_modDisp (s : State) (f : Dispatch → Dispatch) : (s.modDisp f).frame = s.frame := rfl
@[simp] theorem State.frame_modFab (s : State) (f : Fabric → Fabric) : (s.modFab f).frame = s.frame := rfl
@[simp] theorem State.frame_modEnv (s : State) (f : Env → Env) : (s.modEnv f).frame = s.frame := rfl
@[simp] theorem State.frame_modBundle (s : State) (f : BundleCtx → BundleCtx) : (s.modBundle f).frame = s.frame := rfl
@[simp] theorem State.places_setOp (s : State) (o : Nat) (e : EngOp) : (s.setOp o e).places = s.places := rfl
@[simp] theorem State.ctxs_setOp (s : State) (o : Nat) (e : EngOp) : (s.setOp o e).ctxs = s.ctxs := rfl
@[simp] theorem State.places_setTask (s : State) (key : Nat) (t : Task) : (s.setTask key t).places = s.places := rfl
@[simp] theorem State.ctxs_setTask (s : State) (key : Nat) (t : Task) : (s.setTask key t).ctxs = s.ctxs := rfl
@[simp] theorem State.places_modDisp (s : State) (f : Dispatch → Dispatch) : (s.modDisp f).places = s.places := rfl
@[simp] theorem State.ctxs_modDisp (s : State) (f : Dispatch → Dispatch) : (s.modDisp f).ctxs = s.ctxs := rfl
@[simp] theorem State.places_modFab (s : State) (f : Fabric → Fabric) : (s.modFab f).places = s.places := rfl
@[simp] theorem State.ctxs_modFab (s : State) (f : Fabric → Fabric) : (s.modFab f).ctxs = s.ctxs := rfl
@[simp] theorem State.places_modEnv (s : State) (f : Env → Env) : (s.modEnv f).places = s.places := rfl
@[simp] theorem State.ctxs_modEnv (s : State) (f : Env → Env) : (s.modEnv f).ctxs = s.ctxs := rfl
@[simp] theorem State.places_modBundle (s : State) (f : BundleCtx → BundleCtx) : (s.modBundle f).places = s.places := rfl
@[simp] theorem State.ctxs_modBundle (s : State) (f : BundleCtx → BundleCtx) : (s.modBundle f).ctxs = s.ctxs := rfl
@[simp] theorem State.places_modDie (s : State) (d : Nat) (f : Die → Die) : (s.modDie d f).places = s.places := rfl
@[simp] theorem State.ctxs_modDie (s : State) (d : Nat) (f : Die → Die) : (s.modDie d f).ctxs = s.ctxs := rfl
@[simp] theorem State.places_modPump (s : State) (p : Nat) (f : Pump → Pump) : (s.modPump p f).places = s.places := rfl
@[simp] theorem State.ctxs_modPump (s : State) (p : Nat) (f : Pump → Pump) : (s.modPump p f).ctxs = s.ctxs := rfl
@[simp] theorem State.places_modFnHost (s : State) (v : Nat) (f : FnHost → FnHost) : (s.modFnHost v f).places = s.places := rfl
@[simp] theorem State.ctxs_modFnHost (s : State) (v : Nat) (f : FnHost → FnHost) : (s.modFnHost v f).ctxs = s.ctxs := rfl
@[simp] theorem State.places_modHost (s : State) (f : HostIf → HostIf) : (s.modHost f).places = s.places := rfl
@[simp] theorem State.ctxs_modHost (s : State) (f : HostIf → HostIf) : (s.modHost f).ctxs = s.ctxs := rfl
@[simp] theorem State.frame_ops (s : State) (x : Table EngOp) : State.frame { s with ops := x } = s.frame := rfl
@[simp] theorem State.frame_cores (s : State) (x : Table Core) : State.frame { s with cores := x } = s.frame := rfl
@[simp] theorem State.frame_disp (s : State) (x : Dispatch) : State.frame { s with disp := x } = s.frame := rfl
@[simp] theorem State.frame_fab (s : State) (x : Fabric) : State.frame { s with fab := x } = s.frame := rfl
@[simp] theorem State.frame_env (s : State) (x : Env) : State.frame { s with env := x } = s.frame := rfl
@[simp] theorem State.frame_bundle (s : State) (x : BundleCtx) : State.frame { s with bundle := x } = s.frame := rfl

theorem State.mem_of_frame {s t : State} (h : t.frame = s.frame) : t.mem = s.mem := congrArg Prod.fst h
theorem State.frame_iff (s t : State) : t.frame = s.frame ↔ t.mem = s.mem ∧ t.poison = s.poison ∧ t.dies = s.dies ∧ t.pumps = s.pumps ∧
    t.codes = s.codes ∧ t.gens = s.gens ∧ t.host = s.host := by simp [State.frame]

@[simp] theorem State.places_setCore (s : State) (c : Nat) (x : Core) (h : x.strands = (s.core c).strands) : (s.setCore c x).places = s.places := by
  funext a b; unfold State.places State.strand; rw [State.core_setCore]; split
  · rename_i e; subst e; unfold Core.strand; rw [h]
  · rfl
@[simp] theorem State.ctxs_setCore (s : State) (c : Nat) (x : Core) (h : x.strands = (s.core c).strands) : (s.setCore c x).ctxs = s.ctxs := by
  funext a b; unfold State.ctxs State.strand; rw [State.core_setCore]; split
  · rename_i e; subst e; unfold Core.strand; rw [h]
  · rfl
@[simp] theorem State.places_modCore (s : State) (c : Nat) (f : Core → Core) (h : ∀ x, (f x).strands = x.strands) : (s.modCore c f).places = s.places :=
  State.places_setCore s c _ (h _)
@[simp] theorem State.ctxs_modCore (s : State) (c : Nat) (f : Core → Core) (h : ∀ x, (f x).strands = x.strands) : (s.modCore c f).ctxs = s.ctxs :=
  State.ctxs_setCore s c _ (h _)
@[simp] theorem State.places_setStrand (s : State) (c k : Nat) (t : Strand) (h : t.place = (s.strand c k).place) : (s.setStrand c k t).places = s.places := by
  funext a b; unfold State.places; rw [State.strand_setStrand]; split
  · rename_i e; obtain ⟨rfl, rfl⟩ := e; exact h
  · rfl
@[simp] theorem State.ctxs_setStrand (s : State) (c k : Nat) (t : Strand) (h : { t.ctx with knots := [] } = { (s.strand c k).ctx with knots := [] }) :
    (s.setStrand c k t).ctxs = s.ctxs := by
  funext a b; unfold State.ctxs; rw [State.strand_setStrand]; split
  · rename_i e; obtain ⟨rfl, rfl⟩ := e; exact h
  · rfl
@[simp] theorem State.places_modStrand (s : State) (c k : Nat) (f : Strand → Strand) (h : ∀ t, (f t).place = t.place) : (s.modStrand c k f).places = s.places :=
  State.places_setStrand s c k _ (h _)
@[simp] theorem State.ctxs_modStrand (s : State) (c k : Nat) (f : Strand → Strand) (h : ∀ t, { (f t).ctx with knots := [] } = { t.ctx with knots := [] }) :
    (s.modStrand c k f).ctxs = s.ctxs := State.ctxs_setStrand s c k _ (h _)
@[simp] theorem State.places_modCtx (s : State) (c k : Nat) (f : Ctx → Ctx) : (s.modCtx c k f).places = s.places := State.places_modStrand s c k _ (fun _ => rfl)
@[simp] theorem State.places_modFlow (s : State) (c k : Nat) (f : Flow → Flow) : (s.modFlow c k f).places = s.places := State.places_modStrand s c k _ (fun _ => rfl)
@[simp] theorem State.ctxs_modFlow (s : State) (c k : Nat) (f : Flow → Flow) : (s.modFlow c k f).ctxs = s.ctxs := State.ctxs_modStrand s c k _ (fun _ => rfl)
@[simp] theorem State.ctxs_modCtx (s : State) (c k : Nat) (f : Ctx → Ctx) (h : ∀ x, { f x with knots := [] } = { x with knots := [] }) :
    (s.modCtx c k f).ctxs = s.ctxs := State.ctxs_modStrand s c k _ (fun _ => h _)
@[simp] theorem State.places_setQueue (s : State) (c k q : Nat) (d : Queue) : (s.setQueue c k q d).places = s.places := State.places_setStrand s c k _ rfl
@[simp] theorem State.ctxs_setQueue (s : State) (c k q : Nat) (d : Queue) : (s.setQueue c k q d).ctxs = s.ctxs := State.ctxs_setStrand s c k _ rfl
@[simp] theorem State.places_modQueue (s : State) (c k q : Nat) (f : Queue → Queue) : (s.modQueue c k q f).places = s.places := State.places_setStrand s c k _ rfl
@[simp] theorem State.ctxs_modQueue (s : State) (c k q : Nat) (f : Queue → Queue) : (s.modQueue c k q f).ctxs = s.ctxs := State.ctxs_setStrand s c k _ rfl
@[simp] theorem State.places_modFlight (s : State) (c : Nat) (f : Flight → Flight) : (s.modFlight c f).places = s.places := State.places_modCore s c _ (fun _ => rfl)
@[simp] theorem State.ctxs_modFlight (s : State) (c : Nat) (f : Flight → Flight) : (s.modFlight c f).ctxs = s.ctxs := State.ctxs_modCore s c _ (fun _ => rfl)
@[simp] theorem State.places_modMq (s : State) (c n : Nat) (f : MQueue → MQueue) : (s.modMq c n f).places = s.places := State.places_modCore s c _ (fun _ => rfl)
@[simp] theorem State.ctxs_modMq (s : State) (c n : Nat) (f : MQueue → MQueue) : (s.modMq c n f).ctxs = s.ctxs := State.ctxs_modCore s c _ (fun _ => rfl)
@[simp] theorem State.places_modUnit (s : State) (c u : Nat) (f : MatUnit → MatUnit) : (s.modUnit c u f).places = s.places := State.places_modCore s c _ (fun _ => rfl)
@[simp] theorem State.ctxs_modUnit (s : State) (c u : Nat) (f : MatUnit → MatUnit) : (s.modUnit c u f).ctxs = s.ctxs := State.ctxs_modCore s c _ (fun _ => rfl)
@[simp] theorem State.places_putBytes (s : State) (k : Nat) (bs : List Byte) : (s.putBytes k bs).places = s.places := rfl
@[simp] theorem State.ctxs_putBytes (s : State) (k : Nat) (bs : List Byte) : (s.putBytes k bs).ctxs = s.ctxs := rfl
@[simp] theorem State.places_zeroBytes (s : State) (k n : Nat) : (s.zeroBytes k n).places = s.places := rfl
@[simp] theorem State.ctxs_zeroBytes (s : State) (k n : Nat) : (s.zeroBytes k n).ctxs = s.ctxs := rfl
@[simp] theorem State.places_putCells (s : State) (cs : List (Nat × Byte)) : (s.putCells cs).1.places = s.places := by
  unfold State.putCells; split <;> rfl
@[simp] theorem State.ctxs_putCells (s : State) (cs : List (Nat × Byte)) : (s.putCells cs).1.ctxs = s.ctxs := by
  unfold State.putCells; split <;> rfl
@[simp] theorem State.frame_fresh (s : State) : s.fresh.2.frame = s.frame := rfl
@[simp] theorem State.places_fresh (s : State) : s.fresh.2.places = s.places := rfl
@[simp] theorem State.ctxs_fresh (s : State) : s.fresh.2.ctxs = s.ctxs := rfl


/-! ### Machine/Xlate.lean -/

@[simp] theorem State.places_leafOf (s : State) (d fn va : Nat) : (State.leafOf s d fn va).2.places = s.places := by
  unfold State.leafOf; (repeat' (first | split | (dsimp only; split))) <;> simp
@[simp] theorem State.ctxs_leafOf (s : State) (d fn va : Nat) : (State.leafOf s d fn va).2.ctxs = s.ctxs := by
  unfold State.leafOf; (repeat' (first | split | (dsimp only; split))) <;> simp
@[simp] theorem State.frame_setRefs (s : State) (page n : Nat) : (State.setRefs s page n).frame = s.frame := rfl
@[simp] theorem State.places_setRefs (s : State) (page n : Nat) : (State.setRefs s page n).places = s.places := rfl
@[simp] theorem State.ctxs_setRefs (s : State) (page n : Nat) : (State.setRefs s page n).ctxs = s.ctxs := rfl
@[simp] theorem State.places_hostLeaf (s : State) (fn addr level : Nat) (w : Bool) : (State.hostLeaf s fn addr level w).2.places = s.places := by
  unfold State.hostLeaf; (repeat' (first | split | (dsimp only; split))) <;> simp
@[simp] theorem State.ctxs_hostLeaf (s : State) (fn addr level : Nat) (w : Bool) : (State.hostLeaf s fn addr level w).2.ctxs = s.ctxs := by
  unfold State.hostLeaf; (repeat' (first | split | (dsimp only; split))) <;> simp
@[simp] theorem State.places_xlate (s : State) (d fn va : Nat) (acc : Acc) : (State.xlate s d fn va acc).2.places = s.places := by
  unfold State.xlate; (repeat' (first | split | (dsimp only; split))) <;> (try simp only [Prod.ext_iff] at *) <;> (try casesm* _ ∧ _) <;> subst_vars <;> simp_all
@[simp] theorem State.ctxs_xlate (s : State) (d fn va : Nat) (acc : Acc) : (State.xlate s d fn va acc).2.ctxs = s.ctxs := by
  unfold State.xlate; (repeat' (first | split | (dsimp only; split))) <;> (try simp only [Prod.ext_iff] at *) <;> (try casesm* _ ∧ _) <;> subst_vars <;> simp_all
@[simp] theorem State.places_reach (s : State) (d fn va : Nat) (acc : Acc) : (State.reach s d fn va acc).2.places = s.places := by
  unfold State.reach; dsimp only; split <;> simp
@[simp] theorem State.places_xlateRun (s : State) (d fn : Nat) (acc : Acc) (va n : Nat) : (State.xlateRun s d fn acc va n).2.places = s.places := by
  induction n generalizing s va with
  | zero => rfl
  | succ n ih =>
    have h := State.places_reach s d fn va acc
    unfold State.xlateRun
    split <;> rename_i e <;> rw [e] at h
    · rename_i k s1
      have h2 := ih s1 (va + 1)
      split <;> rename_i e2 <;> rw [e2] at h2 <;> exact h2.trans h
    · exact h
    · exact h
@[simp] theorem State.ctxs_reach (s : State) (d fn va : Nat) (acc : Acc) : (State.reach s d fn va acc).2.ctxs = s.ctxs := by
  unfold State.reach; dsimp only; split <;> simp
@[simp] theorem State.ctxs_xlateRun (s : State) (d fn : Nat) (acc : Acc) (va n : Nat) : (State.xlateRun s d fn acc va n).2.ctxs = s.ctxs := by
  induction n generalizing s va with
  | zero => rfl
  | succ n ih =>
    have h := State.ctxs_reach s d fn va acc
    unfold State.xlateRun
    split <;> rename_i e <;> rw [e] at h
    · rename_i k s1
      have h2 := ih s1 (va + 1)
      split <;> rename_i e2 <;> rw [e2] at h2 <;> exact h2.trans h
    · exact h
    · exact h

/-! ### Machine/Timing.lean, Machine/Reach.lean -/

@[simp] theorem State.places_askLines (s : State) (fn : Nat) (ls : List Nat) : (State.askLines s fn ls).places = s.places := by
  induction ls generalizing s with
  | nil => rfl
  | cons l ls ih => unfold State.askLines; rw [ih]; split <;> simp
@[simp] theorem State.ctxs_askLines (s : State) (fn : Nat) (ls : List Nat) : (State.askLines s fn ls).ctxs = s.ctxs := by
  induction ls generalizing s with
  | nil => rfl
  | cons l ls ih => unfold State.askLines; rw [ih]; split <;> simp
@[simp] theorem State.places_dropLines (s : State) (fn : Nat) (ls : List Nat) : (State.dropLines s fn ls).places = s.places := by
  fun_induction State.dropLines s fn ls <;> simp_all
@[simp] theorem State.ctxs_dropLines (s : State) (fn : Nat) (ls : List Nat) : (State.dropLines s fn ls).ctxs = s.ctxs := by
  fun_induction State.dropLines s fn ls <;> simp_all
@[simp] theorem State.places_gather (s : State) (fn : Nat) (rd : Nat → Byte) (bad : Nat → Bool) (ks : List Nat) : (State.gather s fn rd bad ks).2.places = s.places := by
  unfold State.gather; (repeat' (first | split | (dsimp only; split))) <;> simp
@[simp] theorem State.ctxs_gather (s : State) (fn : Nat) (rd : Nat → Byte) (bad : Nat → Bool) (ks : List Nat) : (State.gather s fn rd bad ks).2.ctxs = s.ctxs := by
  unfold State.gather; (repeat' (first | split | (dsimp only; split))) <;> simp
theorem State.places_takeBurst {s t : State} {lpa : Nat} {w : Bool} (h : s.takeBurst lpa w = some t) : t.places = s.places := by
  unfold State.takeBurst at h; simp only [Option.map_eq_some_iff] at h; obtain ⟨p, -, rfl⟩ := h; simp
theorem State.ctxs_takeBurst {s t : State} {lpa : Nat} {w : Bool} (h : s.takeBurst lpa w = some t) : t.ctxs = s.ctxs := by
  unfold State.takeBurst at h; simp only [Option.map_eq_some_iff] at h; obtain ⟨p, -, rfl⟩ := h; simp
@[simp] theorem State.places_pour (s : State) (w : Bool) (shut bs : List Nat) : (s.pour w shut bs).2.2.places = s.places := by
  induction bs generalizing s shut with
  | nil => rfl
  | cons b bs ih =>
    unfold State.pour
    dsimp only
    split
    · rename_i e
      split at e
      · exact absurd e (by simp)
      · exact (ih _ _).trans (State.places_takeBurst e)
    · exact ih _ _
@[simp] theorem State.places_takeBursts (s : State) (w : Bool) (ks : List Nat) : (s.takeBursts w ks).2.places = s.places := by
  unfold State.takeBursts
  split
  · rfl
  · split
    · split <;> rfl
    · rename_i b bs _ _ _
      have h := State.places_pour s w (s.fab.calls.flatMap s.callPumps) (b :: bs)
      split <;> rename_i e <;> rw [e] at h <;> exact h
@[simp] theorem State.places_vaRead (s : State) (d fn va n : Nat) : (State.vaRead s d fn va n).2.places = s.places := by
  have h := State.places_xlateRun s d fn .read va n
  unfold State.vaRead
  split <;> rename_i e <;> rw [e] at h
  · exact h
  · exact h
  · rename_i ks s1
    have h1 := State.places_gather s1 fn s1.byte s1.poisoned ks
    split <;> rename_i e1 <;> rw [e1] at h1
    · exact h1.trans h
    · exact h1.trans h
    · have h2 := State.places_takeBursts ‹State› false ks
      split <;> rename_i e2 <;> rw [e2] at h2 <;> exact h2.trans (h1.trans h)
@[simp] theorem State.places_vaWrite (s : State) (d fn va : Nat) (bs : List Byte) : (State.vaWrite s d fn va bs).2.places = s.places := by
  have h := State.places_xlateRun s d fn .write va bs.length
  unfold State.vaWrite
  split <;> rename_i e <;> rw [e] at h
  · exact h
  · exact h
  · rename_i ks s1
    have h2 := State.places_takeBursts s1 true ks
    split <;> rename_i e2 <;> rw [e2] at h2
    · exact h2.trans h
    · have h1 := State.places_putCells ‹State› (ks.zip bs)
      split <;> rename_i e3 <;> rw [e3] at h1 <;> exact h1.trans (h2.trans h)
@[simp] theorem State.ctxs_pour (s : State) (w : Bool) (shut bs : List Nat) : (s.pour w shut bs).2.2.ctxs = s.ctxs := by
  induction bs generalizing s shut with
  | nil => rfl
  | cons b bs ih =>
    unfold State.pour
    dsimp only
    split
    · rename_i e
      split at e
      · exact absurd e (by simp)
      · exact (ih _ _).trans (State.ctxs_takeBurst e)
    · exact ih _ _
@[simp] theorem State.ctxs_takeBursts (s : State) (w : Bool) (ks : List Nat) : (s.takeBursts w ks).2.ctxs = s.ctxs := by
  unfold State.takeBursts
  split
  · rfl
  · split
    · split <;> rfl
    · rename_i b bs _ _ _
      have h := State.ctxs_pour s w (s.fab.calls.flatMap s.callPumps) (b :: bs)
      split <;> rename_i e <;> rw [e] at h <;> exact h
@[simp] theorem State.ctxs_vaRead (s : State) (d fn va n : Nat) : (State.vaRead s d fn va n).2.ctxs = s.ctxs := by
  have h := State.ctxs_xlateRun s d fn .read va n
  unfold State.vaRead
  split <;> rename_i e <;> rw [e] at h
  · exact h
  · exact h
  · rename_i ks s1
    have h1 := State.ctxs_gather s1 fn s1.byte s1.poisoned ks
    split <;> rename_i e1 <;> rw [e1] at h1
    · exact h1.trans h
    · exact h1.trans h
    · have h2 := State.ctxs_takeBursts ‹State› false ks
      split <;> rename_i e2 <;> rw [e2] at h2 <;> exact h2.trans (h1.trans h)
@[simp] theorem State.ctxs_vaWrite (s : State) (d fn va : Nat) (bs : List Byte) : (State.vaWrite s d fn va bs).2.ctxs = s.ctxs := by
  have h := State.ctxs_xlateRun s d fn .write va bs.length
  unfold State.vaWrite
  split <;> rename_i e <;> rw [e] at h
  · exact h
  · exact h
  · rename_i ks s1
    have h2 := State.ctxs_takeBursts s1 true ks
    split <;> rename_i e2 <;> rw [e2] at h2
    · exact h2.trans h
    · have h1 := State.ctxs_putCells ‹State› (ks.zip bs)
      split <;> rename_i e3 <;> rw [e3] at h1 <;> exact h1.trans (h2.trans h)
@[simp] theorem State.places_readVA (s : State) (fn va n : Nat) : (State.readVA s fn va n).2.places = s.places := by
  unfold State.readVA; simp
@[simp] theorem State.ctxs_readVA (s : State) (fn va n : Nat) : (State.readVA s fn va n).2.ctxs = s.ctxs := by
  unfold State.readVA; simp
@[simp] theorem State.places_writeVA (s : State) (fn va : Nat) (bs : List Byte) : (State.writeVA s fn va bs).2.places = s.places := by
  unfold State.writeVA; simp
@[simp] theorem State.ctxs_writeVA (s : State) (fn va : Nat) (bs : List Byte) : (State.writeVA s fn va bs).2.ctxs = s.ctxs := by
  unfold State.writeVA; simp

/-! ### Machine/Queue.lean -/

@[simp] theorem State.frame_at_ (s : State) (c due : Nat) (late : Bool) (k : Nat) (i : Instr) : (State.at_ s c due late k i).frame = s.frame := rfl
@[simp] theorem State.places_at_ (s : State) (c due : Nat) (late : Bool) (k : Nat) (i : Instr) : (State.at_ s c due late k i).places = s.places := by unfold State.at_; simp
@[simp] theorem State.ctxs_at_ (s : State) (c due : Nat) (late : Bool) (k : Nat) (i : Instr) : (State.at_ s c due late k i).ctxs = s.ctxs := by unfold State.at_; simp
@[simp] theorem State.frame_again (s : State) (c : Nat) (late : Bool) (k : Nat) (i : Instr) : (State.again s c late k i).frame = s.frame := rfl
@[simp] theorem State.places_again (s : State) (c : Nat) (late : Bool) (k : Nat) (i : Instr) : (State.again s c late k i).places = s.places := by unfold State.again; simp
@[simp] theorem State.ctxs_again (s : State) (c : Nat) (late : Bool) (k : Nat) (i : Instr) : (State.again s c late k i).ctxs = s.ctxs := by unfold State.again; simp
@[simp] theorem State.frame_modSlot (s : State) (c k sel i : Nat) (f : QSlot → QSlot) : (State.modSlot s c k sel i f).frame = s.frame := by
  unfold State.modSlot; (repeat' split) <;> simp
@[simp] theorem State.places_modSlot (s : State) (c k sel i : Nat) (f : QSlot → QSlot) : (State.modSlot s c k sel i f).places = s.places := by
  unfold State.modSlot; (repeat' split) <;> simp
@[simp] theorem State.ctxs_modSlot (s : State) (c k sel i : Nat) (f : QSlot → QSlot) : (State.modSlot s c k sel i f).ctxs = s.ctxs := by
  unfold State.modSlot; (repeat' split) <;> simp
@[simp] theorem State.places_fillSlot (s : State) (c k sel i tag : Nat) (v : SlotBits) : (State.fillSlot s c k sel i tag v).places = s.places := by
  unfold State.fillSlot; (repeat' split) <;> simp
@[simp] theorem State.ctxs_fillSlot (s : State) (c k sel i tag : Nat) (v : SlotBits) : (State.fillSlot s c k sel i tag v).ctxs = s.ctxs := by
  unfold State.fillSlot; (repeat' split) <;> simp
@[simp] theorem State.frame_reserve (s : State) (c k sel : Nat) : (State.reserve s c k sel).2.2.frame = s.frame := by
  unfold State.reserve; (repeat' (first | split | (dsimp only; split))) <;> simp
@[simp] theorem State.places_reserve (s : State) (c k sel : Nat) : (State.reserve s c k sel).2.2.places = s.places := by
  unfold State.reserve; (repeat' (first | split | (dsimp only; split))) <;> simp
@[simp] theorem State.ctxs_reserve (s : State) (c k sel : Nat) : (State.reserve s c k sel).2.2.ctxs = s.ctxs := by
  unfold State.reserve; (repeat' (first | split | (dsimp only; split))) <;> simp
@[simp] theorem State.frame_hold (s : State) (c k sel i due : Nat) : (State.hold s c k sel i due).frame = s.frame := by unfold State.hold; simp
@[simp] theorem State.places_hold (s : State) (c k sel i due : Nat) : (State.hold s c k sel i due).places = s.places := by unfold State.hold; simp
@[simp] theorem State.ctxs_hold (s : State) (c k sel i due : Nat) : (State.hold s c k sel i due).ctxs = s.ctxs := by unfold State.hold; simp
@[simp] theorem State.frame_reservePend (s : State) (c k sel tag : Nat) (v : SlotBits) (fin : LoadFin) : (State.reservePend s c k sel tag v fin).2.frame = s.frame := by unfold State.reservePend; simp
@[simp] theorem State.places_reservePend (s : State) (c k sel tag : Nat) (v : SlotBits) (fin : LoadFin) : (State.reservePend s c k sel tag v fin).2.places = s.places := by unfold State.reservePend; simp
@[simp] theorem State.ctxs_reservePend (s : State) (c k sel tag : Nat) (v : SlotBits) (fin : LoadFin) : (State.reservePend s c k sel tag v fin).2.ctxs = s.ctxs := by unfold State.reservePend; simp
@[simp] theorem State.frame_appendAt (s : State) (c k sel tag : Nat) (v : SlotBits) (lat : Nat) : (State.appendAt s c k sel tag v lat).frame = s.frame := by unfold State.appendAt; simp
@[simp] theorem State.places_appendAt (s : State) (c k sel tag : Nat) (v : SlotBits) (lat : Nat) : (State.appendAt s c k sel tag v lat).places = s.places := by unfold State.appendAt; simp
@[simp] theorem State.ctxs_appendAt (s : State) (c k sel tag : Nat) (v : SlotBits) (lat : Nat) : (State.appendAt s c k sel tag v lat).ctxs = s.ctxs := by unfold State.appendAt; simp
@[simp] theorem State.frame_appendTo (s : State) (dst tag : Nat) (v : SlotBits) (lat : Nat) : (State.appendTo s dst tag v lat).frame = s.frame := by
  unfold State.appendTo; (repeat' split) <;> simp
@[simp] theorem State.places_appendTo (s : State) (dst tag : Nat) (v : SlotBits) (lat : Nat) : (State.appendTo s dst tag v lat).places = s.places := by
  unfold State.appendTo; (repeat' split) <;> simp
@[simp] theorem State.ctxs_appendTo (s : State) (dst tag : Nat) (v : SlotBits) (lat : Nat) : (State.appendTo s dst tag v lat).ctxs = s.ctxs := by
  unfold State.appendTo; (repeat' split) <;> simp
@[simp] theorem State.frame_sendGraft (s : State) (c : Nat) (q : Queue) (tag : Nat) (v : SlotBits) : (State.sendGraft s c q tag v).frame = s.frame := rfl
@[simp] theorem State.places_sendGraft (s : State) (c : Nat) (q : Queue) (tag : Nat) (v : SlotBits) : (State.sendGraft s c q tag v).places = s.places := by unfold State.sendGraft; simp
@[simp] theorem State.ctxs_sendGraft (s : State) (c : Nat) (q : Queue) (tag : Nat) (v : SlotBits) : (State.sendGraft s c q tag v).ctxs = s.ctxs := by unfold State.sendGraft; simp
@[simp] theorem State.frame_drainGraft (s : State) (c k sel : Nat) (ps : List (Nat × Pend)) : (State.drainGraft s c k sel ps).frame = s.frame := by
  induction ps generalizing s with
  | nil => rfl
  | cons p ps ih => unfold State.drainGraft; (repeat' (first | split | (dsimp only; split))) <;> simp [ih]
@[simp] theorem State.places_drainGraft (s : State) (c k sel : Nat) (ps : List (Nat × Pend)) : (State.drainGraft s c k sel ps).places = s.places := by
  induction ps generalizing s with
  | nil => rfl
  | cons p ps ih => unfold State.drainGraft; (repeat' (first | split | (dsimp only; split))) <;> simp [ih]
@[simp] theorem State.ctxs_drainGraft (s : State) (c k sel : Nat) (ps : List (Nat × Pend)) : (State.drainGraft s c k sel ps).ctxs = s.ctxs := by
  induction ps generalizing s with
  | nil => rfl
  | cons p ps ih => unfold State.drainGraft; (repeat' (first | split | (dsimp only; split))) <;> simp [ih]
@[simp] theorem State.frame_sendCredit (s : State) (c k q : Nat) : (State.sendCredit s c k q).frame = s.frame := by
  unfold State.sendCredit; (repeat' (first | split | (dsimp only; split))) <;> (try simp only [Prod.ext_iff] at *) <;> (try casesm* _ ∧ _) <;> subst_vars <;> simp_all
@[simp] theorem State.places_sendCredit (s : State) (c k q : Nat) : (State.sendCredit s c k q).places = s.places := by
  unfold State.sendCredit; (repeat' (first | split | (dsimp only; split))) <;> (try simp only [Prod.ext_iff] at *) <;> (try casesm* _ ∧ _) <;> subst_vars <;> simp_all
@[simp] theorem State.ctxs_sendCredit (s : State) (c k q : Nat) : (State.sendCredit s c k q).ctxs = s.ctxs := by
  unfold State.sendCredit; (repeat' (first | split | (dsimp only; split))) <;> (try simp only [Prod.ext_iff] at *) <;> (try casesm* _ ∧ _) <;> subst_vars <;> simp_all
@[simp] theorem State.frame_sendCredits (s : State) (c k q : Nat) (x0 : Nat) : (State.sendCredits s c k q x0).frame = s.frame := by
  fun_induction State.sendCredits s c k q x0 <;> simp_all
@[simp] theorem State.places_sendCredits (s : State) (c k q : Nat) (x0 : Nat) : (State.sendCredits s c k q x0).places = s.places := by
  fun_induction State.sendCredits s c k q x0 <;> simp_all
@[simp] theorem State.ctxs_sendCredits (s : State) (c k q : Nat) (x0 : Nat) : (State.sendCredits s c k q x0).ctxs = s.ctxs := by
  fun_induction State.sendCredits s c k q x0 <;> simp_all
@[simp] theorem State.frame_pop (s : State) (c k sel n : Nat) : (State.pop s c k sel n).frame = s.frame := by
  unfold State.pop; (repeat' (first | split | (dsimp only; split))) <;> simp
@[simp] theorem State.places_pop (s : State) (c k sel n : Nat) : (State.pop s c k sel n).places = s.places := by
  unfold State.pop; (repeat' (first | split | (dsimp only; split))) <;> simp
@[simp] theorem State.ctxs_pop (s : State) (c k sel n : Nat) : (State.pop s c k sel n).ctxs = s.ctxs := by
  unfold State.pop; (repeat' (first | split | (dsimp only; split))) <;> simp
@[simp] theorem State.places_arrive (s : State) (c k q tag : Nat) (v : SlotBits) : (State.arrive s c k q tag v).places = s.places := by unfold State.arrive; simp
@[simp] theorem State.ctxs_arrive (s : State) (c k q tag : Nat) (v : SlotBits) : (State.arrive s c k q tag v).ctxs = s.ctxs := by unfold State.arrive; simp
@[simp] theorem State.frame_orphan (s : State) (c id : Nat) : (State.orphan s c id).frame = s.frame := by
  unfold State.orphan; (repeat' split) <;> simp
@[simp] theorem State.places_orphan (s : State) (c id : Nat) : (State.orphan s c id).places = s.places := by
  unfold State.orphan; (repeat' split) <;> simp
@[simp] theorem State.ctxs_orphan (s : State) (c id : Nat) : (State.orphan s c id).ctxs = s.ctxs := by
  unfold State.orphan; (repeat' split) <;> simp
@[simp] theorem State.frame_orphans (s : State) (c : Nat) (x0 : List Nat) : (State.orphans s c x0).frame = s.frame := by
  fun_induction State.orphans s c x0 <;> simp_all
@[simp] theorem State.places_orphans (s : State) (c : Nat) (x0 : List Nat) : (State.orphans s c x0).places = s.places := by
  fun_induction State.orphans s c x0 <;> simp_all
@[simp] theorem State.ctxs_orphans (s : State) (c : Nat) (x0 : List Nat) : (State.orphans s c x0).ctxs = s.ctxs := by
  fun_induction State.orphans s c x0 <;> simp_all

/-! ### Machine/Ops.lean -/

@[simp] theorem State.frame_trace (s : State) (c k cls payload : Nat) : (State.trace s c k cls payload).frame = s.frame := by
  unfold State.trace; (repeat' (first | split | (dsimp only; split))) <;> simp
@[simp] theorem State.places_trace (s : State) (c k cls payload : Nat) : (State.trace s c k cls payload).places = s.places := by
  unfold State.trace; (repeat' (first | split | (dsimp only; split))) <;> simp
@[simp] theorem State.ctxs_trace (s : State) (c k cls payload : Nat) : (State.trace s c k cls payload).ctxs = s.ctxs := by
  unfold State.trace; (repeat' (first | split | (dsimp only; split))) <;> simp
@[simp] theorem State.places_clearRed (s : State) : (State.clearRed s).places = s.places := by
  unfold State.clearRed; (repeat' split) <;> simp
@[simp] theorem State.ctxs_clearRed (s : State) : (State.clearRed s).ctxs = s.ctxs := by
  unfold State.clearRed; (repeat' split) <;> simp
@[simp] theorem State.places_setDieState (s : State) (d : Nat) (x : DieState) : (State.setDieState s d x).places = s.places := by unfold State.setDieState; simp
@[simp] theorem State.ctxs_setDieState (s : State) (d : Nat) (x : DieState) : (State.setDieState s d x).ctxs = s.ctxs := by unfold State.setDieState; simp
@[simp] theorem State.frame_due (s : State) (c k : Nat) (t : Trap) : (State.due s c k t).frame = s.frame := by
  unfold State.due; (repeat' (first | split | (dsimp only; split))) <;> simp
@[simp] theorem State.places_due (s : State) (c k : Nat) (t : Trap) : (State.due s c k t).places = s.places := by
  unfold State.due; (repeat' (first | split | (dsimp only; split))) <;> simp
@[simp] theorem State.ctxs_due (s : State) (c k : Nat) (t : Trap) : (State.due s c k t).ctxs = s.ctxs := by
  unfold State.due; (repeat' (first | split | (dsimp only; split))) <;> simp
@[simp] theorem State.frame_startFree (s : State) (x0 : List (Nat × EngOp)) : (State.startFree s x0).frame = s.frame := by
  fun_induction State.startFree s x0 <;> simp_all
@[simp] theorem State.places_startFree (s : State) (x0 : List (Nat × EngOp)) : (State.startFree s x0).places = s.places := by
  fun_induction State.startFree s x0 <;> simp_all
@[simp] theorem State.ctxs_startFree (s : State) (x0 : List (Nat × EngOp)) : (State.startFree s x0).ctxs = s.ctxs := by
  fun_induction State.startFree s x0 <;> simp_all
@[simp] theorem State.frame_reopen (s : State) (e : EngOp) : (State.reopen s e).frame = s.frame := by
  unfold State.reopen; (repeat' split) <;> simp
@[simp] theorem State.places_reopen (s : State) (e : EngOp) : (State.reopen s e).places = s.places := by
  unfold State.reopen; (repeat' split) <;> simp
@[simp] theorem State.ctxs_reopen (s : State) (e : EngOp) : (State.reopen s e).ctxs = s.ctxs := by
  unfold State.reopen; (repeat' split) <;> simp
@[simp] theorem State.places_msix (s : State) (fn vec : Nat) : (State.msix s fn vec).places = s.places := rfl
@[simp] theorem State.ctxs_msix (s : State) (fn vec : Nat) : (State.msix s fn vec).ctxs = s.ctxs := rfl
@[simp] theorem State.places_errcnt (s : State) (fn : Nat) (hi : Bool) : (State.errcnt s fn hi).places = s.places := rfl
@[simp] theorem State.ctxs_errcnt (s : State) (fn : Nat) (hi : Bool) : (State.errcnt s fn hi).ctxs = s.ctxs := rfl
@[simp] theorem State.places_pageListAny (s : State) (fn va : Nat) (x0 : Nat) : (State.pageListAny s fn va x0).2.places = s.places := by
  fun_induction State.pageListAny s fn va x0 <;> (repeat' (first | split | (dsimp only; split))) <;> (try simp only [Prod.ext_iff] at *) <;> (try casesm* _ ∧ _) <;> subst_vars <;> simp_all
@[simp] theorem State.ctxs_pageListAny (s : State) (fn va : Nat) (x0 : Nat) : (State.pageListAny s fn va x0).2.ctxs = s.ctxs := by
  fun_induction State.pageListAny s fn va x0 <;> (repeat' (first | split | (dsimp only; split))) <;> (try simp only [Prod.ext_iff] at *) <;> (try casesm* _ ∧ _) <;> subst_vars <;> simp_all
@[simp] theorem State.frame_lowerRefs (s : State) (x0 : List Nat) : (State.lowerRefs s x0).frame = s.frame := by
  fun_induction State.lowerRefs s x0 <;> simp_all
@[simp] theorem State.places_lowerRefs (s : State) (x0 : List Nat) : (State.lowerRefs s x0).places = s.places := by
  fun_induction State.lowerRefs s x0 <;> simp_all
@[simp] theorem State.ctxs_lowerRefs (s : State) (x0 : List Nat) : (State.lowerRefs s x0).ctxs = s.ctxs := by
  fun_induction State.lowerRefs s x0 <;> simp_all
@[simp] theorem State.places_doJob (s : State) (j : DJob) : (s.doJob j).2.places = s.places := by
  unfold State.doJob; (repeat' (first | split | (dsimp only; split))) <;> (try simp only [Prod.ext_iff] at *) <;> (try casesm* _ ∧ _) <;> subst_vars <;> simp_all
@[simp] theorem State.places_doJobs (s : State) (js : List DJob) : (s.doJobs js).places = s.places := by
  induction js generalizing s with
  | nil => simp [State.doJobs]
  | cons j js ih =>
    have h := State.places_doJob s j
    unfold State.doJobs; split <;> rename_i e <;> rw [e] at h <;> simp_all
@[simp] theorem State.places_submit (s : State) (j : DJob) : (s.submit j).places = s.places := by unfold State.submit; simp
@[simp] theorem State.ctxs_doJob (s : State) (j : DJob) : (s.doJob j).2.ctxs = s.ctxs := by
  unfold State.doJob; (repeat' (first | split | (dsimp only; split))) <;> (try simp only [Prod.ext_iff] at *) <;> (try casesm* _ ∧ _) <;> subst_vars <;> simp_all
@[simp] theorem State.ctxs_doJobs (s : State) (js : List DJob) : (s.doJobs js).ctxs = s.ctxs := by
  induction js generalizing s with
  | nil => simp [State.doJobs]
  | cons j js ih =>
    have h := State.ctxs_doJob s j
    unfold State.doJobs; split <;> rename_i e <;> rw [e] at h <;> simp_all
@[simp] theorem State.ctxs_submit (s : State) (j : DJob) : (s.submit j).ctxs = s.ctxs := by unfold State.submit; simp
@[simp] theorem State.places_notifyWord (s : State) (fn notify off event cause id : Nat) (canpred : Bool) : (State.notifyWord s fn notify off event cause id canpred).places = s.places := by
  unfold State.notifyWord; (repeat' (first | split | (dsimp only; split))) <;> (try simp only [Prod.ext_iff] at *) <;> (try casesm* _ ∧ _) <;> subst_vars <;> simp_all
@[simp] theorem State.ctxs_notifyWord (s : State) (fn notify off event cause id : Nat) (canpred : Bool) : (State.notifyWord s fn notify off event cause id canpred).ctxs = s.ctxs := by
  unfold State.notifyWord; (repeat' (first | split | (dsimp only; split))) <;> (try simp only [Prod.ext_iff] at *) <;> (try casesm* _ ∧ _) <;> subst_vars <;> simp_all
@[simp] theorem State.places_finalWord (s : State) (key event cause : Nat) : (State.finalWord s key event cause).places = s.places := by
  unfold State.finalWord; (repeat' split) <;> simp
@[simp] theorem State.ctxs_finalWord (s : State) (key event cause : Nat) : (State.finalWord s key event cause).ctxs = s.ctxs := by
  unfold State.finalWord; (repeat' split) <;> simp
@[simp] theorem State.places_pageList (s : State) (fn va : Nat) (x0 : Nat) : (State.pageList s fn va x0).2.places = s.places := by
  fun_induction State.pageList s fn va x0 <;> (repeat' (first | split | (dsimp only; split))) <;> (try simp only [Prod.ext_iff] at *) <;> (try casesm* _ ∧ _) <;> subst_vars <;> simp_all
@[simp] theorem State.ctxs_pageList (s : State) (fn va : Nat) (x0 : Nat) : (State.pageList s fn va x0).2.ctxs = s.ctxs := by
  fun_induction State.pageList s fn va x0 <;> (repeat' (first | split | (dsimp only; split))) <;> (try simp only [Prod.ext_iff] at *) <;> (try casesm* _ ∧ _) <;> subst_vars <;> simp_all
@[simp] theorem State.frame_raiseRefs (s : State) (n : Nat) (x0 : List Nat) : (State.raiseRefs s n x0).frame = s.frame := by
  fun_induction State.raiseRefs s n x0 <;> simp_all
@[simp] theorem State.places_raiseRefs (s : State) (n : Nat) (x0 : List Nat) : (State.raiseRefs s n x0).places = s.places := by
  fun_induction State.raiseRefs s n x0 <;> simp_all
@[simp] theorem State.ctxs_raiseRefs (s : State) (n : Nat) (x0 : List Nat) : (State.raiseRefs s n x0).ctxs = s.ctxs := by
  fun_induction State.raiseRefs s n x0 <;> simp_all
@[simp] theorem State.places_releaseRefs (s : State) (key : Nat) : (s.releaseRefs key).places = s.places := by
  unfold State.releaseRefs; (repeat' (first | split | (dsimp only; split))) <;> simp
@[simp] theorem State.ctxs_releaseRefs (s : State) (key : Nat) : (s.releaseRefs key).ctxs = s.ctxs := by
  unfold State.releaseRefs; (repeat' (first | split | (dsimp only; split))) <;> simp
@[simp] theorem State.frame_satisfy (s : State) (fn id : Nat) (cancelled : Bool) : (State.satisfy s fn id cancelled).frame = s.frame := rfl
@[simp] theorem State.places_satisfy (s : State) (fn id : Nat) (cancelled : Bool) : (State.satisfy s fn id cancelled).places = s.places := rfl
@[simp] theorem State.ctxs_satisfy (s : State) (fn id : Nat) (cancelled : Bool) : (State.satisfy s fn id cancelled).ctxs = s.ctxs := rfl
@[simp] theorem State.frame_freeEntry (s : State) (key : Nat) (t : Task) : (State.freeEntry s key t).frame = s.frame := rfl
@[simp] theorem State.places_freeEntry (s : State) (key : Nat) (t : Task) : (State.freeEntry s key t).places = s.places := rfl
@[simp] theorem State.ctxs_freeEntry (s : State) (key : Nat) (t : Task) : (State.freeEntry s key t).ctxs = s.ctxs := rfl
@[simp] theorem State.frame_freeUp (s : State) (fn : Nat) (x0 : Nat) (x1 : Nat) : (State.freeUp s fn x0 x1).frame = s.frame := by
  fun_induction State.freeUp s fn x0 x1 <;> simp_all
@[simp] theorem State.places_freeUp (s : State) (fn : Nat) (x0 : Nat) (x1 : Nat) : (State.freeUp s fn x0 x1).places = s.places := by
  fun_induction State.freeUp s fn x0 x1 <;> simp_all
@[simp] theorem State.ctxs_freeUp (s : State) (fn : Nat) (x0 : Nat) (x1 : Nat) : (State.freeUp s fn x0 x1).ctxs = s.ctxs := by
  fun_induction State.freeUp s fn x0 x1 <;> simp_all
@[simp] theorem State.frame_retire (s : State) (key : Nat) : (State.retire s key).frame = s.frame := by
  unfold State.retire; (repeat' split) <;> simp
@[simp] theorem State.places_retire (s : State) (key : Nat) : (State.retire s key).places = s.places := by
  unfold State.retire; (repeat' split) <;> simp
@[simp] theorem State.ctxs_retire (s : State) (key : Nat) : (State.retire s key).ctxs = s.ctxs := by
  unfold State.retire; (repeat' split) <;> simp
@[simp] theorem State.frame_unholdRow (s : State) (c k : Nat) (x0 : Table (SlotBits × Nat × Nat × Nat)) : (State.unholdRow s c k x0).frame = s.frame := by
  fun_induction State.unholdRow s c k x0 <;> simp_all
@[simp] theorem State.places_unholdRow (s : State) (c k : Nat) (x0 : Table (SlotBits × Nat × Nat × Nat)) : (State.unholdRow s c k x0).places = s.places := by
  fun_induction State.unholdRow s c k x0 <;> simp_all
@[simp] theorem State.ctxs_unholdRow (s : State) (c k : Nat) (x0 : Table (SlotBits × Nat × Nat × Nat)) : (State.unholdRow s c k x0).ctxs = s.ctxs := by
  fun_induction State.unholdRow s c k x0 <;> simp_all
@[simp] theorem State.frame_endRow (s : State) (c : Nat) : (State.endRow s c).frame = s.frame := by
  unfold State.endRow; (repeat' split) <;> simp
@[simp] theorem State.places_endRow (s : State) (c : Nat) : (State.endRow s c).places = s.places := by
  unfold State.endRow; (repeat' split) <;> simp
@[simp] theorem State.ctxs_endRow (s : State) (c : Nat) : (State.endRow s c).ctxs = s.ctxs := by
  unfold State.endRow; (repeat' split) <;> simp
@[simp] theorem State.frame_dropRow (s : State) (c k : Nat) : (State.dropRow s c k).frame = s.frame := by
  unfold State.dropRow; (repeat' split) <;> simp
@[simp] theorem State.places_dropRow (s : State) (c k : Nat) : (State.dropRow s c k).places = s.places := by
  unfold State.dropRow; (repeat' split) <;> simp
@[simp] theorem State.ctxs_dropRow (s : State) (c k : Nat) : (State.dropRow s c k).ctxs = s.ctxs := by
  unfold State.dropRow; (repeat' split) <;> simp
@[simp] theorem State.frame_idle (s : State) (c k : Nat) : (State.idle s c k).frame = s.frame := rfl
@[simp] theorem State.frame_breakSource (s : State) (c k q : Nat) : (State.breakSource s c k q).frame = s.frame :=
  State.frame_drainGraft _ _ _ _ _
@[simp] theorem State.frame_breakAll (s : State) (xs : List (Nat × Nat × Nat)) : (State.breakAll s xs).frame = s.frame := by
  induction xs generalizing s with
  | nil => rfl
  | cons x xs ih => exact (ih _).trans (State.frame_breakSource _ _ _ _)
@[simp] theorem State.frame_breakAways (s : State) (fn id : Nat) : (State.breakAways s fn id).frame = s.frame := State.frame_breakAll _ _
@[simp] theorem State.frame_freeTargets (s : State) (gs : List (Nat × Nat × Nat × Nat × Nat)) : (State.freeTargets s gs).frame = s.frame := by
  induction gs generalizing s with
  | nil => rfl
  | cons g gs ih => unfold State.freeTargets; refine (ih _).trans ?_; split <;> rfl

/-! ### Machine/Issue.lean -/

@[simp] theorem State.frame_takeHolds (s : State) (c k : Nat) (x0 : List (Nat × Nat × Nat)) : (State.takeHolds s c k x0).frame = s.frame := by
  fun_induction State.takeHolds s c k x0 <;> simp_all
@[simp] theorem State.places_takeHolds (s : State) (c k : Nat) (x0 : List (Nat × Nat × Nat)) : (State.takeHolds s c k x0).places = s.places := by
  fun_induction State.takeHolds s c k x0 <;> simp_all
@[simp] theorem State.ctxs_takeHolds (s : State) (c k : Nat) (x0 : List (Nat × Nat × Nat)) : (State.takeHolds s c k x0).ctxs = s.ctxs := by
  fun_induction State.takeHolds s c k x0 <;> simp_all
@[simp] theorem State.frame_begin (s : State) (c k : Nat) (us : List Use) : (State.begin s c k us).frame = s.frame := by unfold State.begin; simp
@[simp] theorem State.places_begin (s : State) (c k : Nat) (us : List Use) : (State.begin s c k us).places = s.places := by unfold State.begin; simp
@[simp] theorem State.ctxs_begin (s : State) (c k : Nat) (us : List Use) : (State.begin s c k us).ctxs = s.ctxs := by unfold State.begin; simp
@[simp] theorem State.frame_popAll (s : State) (c k : Nat) (us : List Use) (x0 : List Nat) : (State.popAll s c k us x0).frame = s.frame := by
  fun_induction State.popAll s c k us x0 <;> (repeat' split) <;> simp_all
@[simp] theorem State.places_popAll (s : State) (c k : Nat) (us : List Use) (x0 : List Nat) : (State.popAll s c k us x0).places = s.places := by
  fun_induction State.popAll s c k us x0 <;> (repeat' split) <;> simp_all
@[simp] theorem State.ctxs_popAll (s : State) (c k : Nat) (us : List Use) (x0 : List Nat) : (State.popAll s c k us x0).ctxs = s.ctxs := by
  fun_induction State.popAll s c k us x0 <;> (repeat' split) <;> simp_all
@[simp] theorem State.frame_continuation (s : State) (c k : Nat) : (State.continuation s c k).frame = s.frame := rfl
@[simp] theorem State.places_continuation (s : State) (c k : Nat) : (State.continuation s c k).places = s.places := by unfold State.continuation; simp
@[simp] theorem State.frame_retireBundle (s : State) (c k : Nat) (us : List Use) : (State.retireBundle s c k us).frame = s.frame := by
  unfold State.retireBundle; (repeat' (first | split | (dsimp only; split))) <;> simp
@[simp] theorem State.places_retireBundle (s : State) (c k : Nat) (us : List Use) : (State.retireBundle s c k us).places = s.places := by
  unfold State.retireBundle; (repeat' (first | split | (dsimp only; split))) <;> simp
@[simp] theorem State.places_rasInc (s : State) (d lo : Nat) : (State.rasInc s d lo).places = s.places := rfl
@[simp] theorem State.ctxs_rasInc (s : State) (d lo : Nat) : (State.rasInc s d lo).ctxs = s.ctxs := rfl

/-! ### Machine/Access.lean -/

@[simp] theorem State.frame_touchAt (s : State) (c k due granule : Nat) (wrote : Bool) (what : TouchFor) : (State.touchAt s c k due granule wrote what).frame = s.frame := rfl
@[simp] theorem State.places_touchAt (s : State) (c k due granule : Nat) (wrote : Bool) (what : TouchFor) : (State.touchAt s c k due granule wrote what).places = s.places := by unfold State.touchAt; simp
@[simp] theorem State.ctxs_touchAt (s : State) (c k due granule : Nat) (wrote : Bool) (what : TouchFor) : (State.touchAt s c k due granule wrote what).ctxs = s.ctxs := by unfold State.touchAt; simp
@[simp] theorem State.frame_startShape (s : State) (c k : Nat) : (State.startShape s c k).frame = s.frame := by
  unfold State.startShape; (repeat' split) <;> simp
@[simp] theorem State.places_startShape (s : State) (c k : Nat) : (State.startShape s c k).places = s.places := by
  unfold State.startShape; (repeat' split) <;> simp
@[simp] theorem State.ctxs_startShape (s : State) (c k : Nat) : (State.startShape s c k).ctxs = s.ctxs := by
  unfold State.startShape; (repeat' split) <;> simp

/-! ### Machine/IssueUnit.lean -/

@[simp] theorem State.frame_withWords (s : State) (c k : Nat) (ws : List Word) : (State.withWords s c k ws).frame = s.frame := rfl
@[simp] theorem State.places_withWords (s : State) (c k : Nat) (ws : List Word) : (State.withWords s c k ws).places = s.places := rfl
@[simp] theorem State.ctxs_withWords (s : State) (c k : Nat) (ws : List Word) : (State.withWords s c k ws).ctxs = s.ctxs := rfl
@[simp] theorem State.frame_modIssue (s : State) (c : Nat) (f : Issue → Issue) : (State.modIssue s c f).frame = s.frame := rfl
@[simp] theorem State.places_modIssue (s : State) (c : Nat) (f : Issue → Issue) : (State.modIssue s c f).places = s.places := by unfold State.modIssue; simp
@[simp] theorem State.ctxs_modIssue (s : State) (c : Nat) (f : Issue → Issue) : (State.modIssue s c f).ctxs = s.ctxs := by unfold State.modIssue; simp
@[simp] theorem State.frame_tryHold (s : State) (c k : Nat) : (State.tryHold s c k).frame = s.frame := by
  unfold State.tryHold; (repeat' (first | split | (dsimp only; split))) <;> simp
@[simp] theorem State.places_tryHold (s : State) (c k : Nat) : (State.tryHold s c k).places = s.places := by
  unfold State.tryHold; (repeat' (first | split | (dsimp only; split))) <;> simp
@[simp] theorem State.ctxs_tryHold (s : State) (c k : Nat) : (State.tryHold s c k).ctxs = s.ctxs := by
  unfold State.tryHold; (repeat' (first | split | (dsimp only; split))) <;> simp

/-! ### Machine/MemSlot.lean -/

@[simp] theorem State.frame_deferPoison (s : State) (c k tl key : Nat) : (State.deferPoison s c k tl key).frame = s.frame := by unfold State.deferPoison; simp
@[simp] theorem State.places_deferPoison (s : State) (c k tl key : Nat) : (State.deferPoison s c k tl key).places = s.places := by unfold State.deferPoison; simp
@[simp] theorem State.ctxs_deferPoison (s : State) (c k tl key : Nat) : (State.deferPoison s c k tl key).ctxs = s.ctxs := by unfold State.deferPoison; simp
@[simp] theorem State.frame_noteAbsent (s : State) (c k : Nat) (x : Access) : (State.noteAbsent s c k x).frame = s.frame := by
  unfold State.noteAbsent; (repeat' (first | split | (dsimp only; split))) <;> simp
@[simp] theorem State.places_noteAbsent (s : State) (c k : Nat) (x : Access) : (State.noteAbsent s c k x).places = s.places := by
  unfold State.noteAbsent; (repeat' (first | split | (dsimp only; split))) <;> simp
@[simp] theorem State.ctxs_noteAbsent (s : State) (c k : Nat) (x : Access) : (State.noteAbsent s c k x).ctxs = s.ctxs := by
  unfold State.noteAbsent; (repeat' (first | split | (dsimp only; split))) <;> simp
@[simp] theorem State.frame_pLoadEff (i : Instr) (f : Fields) (lat : Opds → Access → Nat) (s : State) : (pLoadEff i f lat s).frame = s.frame := by
  unfold pLoadEff; (repeat' (first | split | (dsimp only; split))) <;> simp
@[simp] theorem State.places_pLoadEff (i : Instr) (f : Fields) (lat : Opds → Access → Nat) (s : State) : (pLoadEff i f lat s).places = s.places := by
  unfold pLoadEff; (repeat' (first | split | (dsimp only; split))) <;> simp
@[simp] theorem State.ctxs_pLoadEff (i : Instr) (f : Fields) (lat : Opds → Access → Nat) (s : State) : (pLoadEff i f lat s).ctxs = s.ctxs := by
  unfold pLoadEff; (repeat' (first | split | (dsimp only; split))) <;> simp
@[simp] theorem State.frame_touchAll (s : State) (c k : Nat) (what : Nat → TouchFor) (x0 : List Nat) : (State.touchAll s c k what x0).frame = s.frame := by
  fun_induction State.touchAll s c k what x0 <;> simp_all
@[simp] theorem State.places_touchAll (s : State) (c k : Nat) (what : Nat → TouchFor) (x0 : List Nat) : (State.touchAll s c k what x0).places = s.places := by
  fun_induction State.touchAll s c k what x0 <;> simp_all
@[simp] theorem State.ctxs_touchAll (s : State) (c k : Nat) (what : Nat → TouchFor) (x0 : List Nat) : (State.touchAll s c k what x0).ctxs = s.ctxs := by
  fun_induction State.touchAll s c k what x0 <;> simp_all
@[simp] theorem State.frame_wLoadEff (i : Instr) (f : Fields) (lat : List Nat → Nat) (s : State) : (wLoadEff i f lat s).frame = s.frame := by
  unfold wLoadEff; (repeat' split) <;> simp_all
@[simp] theorem State.places_wLoadEff (i : Instr) (f : Fields) (lat : List Nat → Nat) (s : State) : (wLoadEff i f lat s).places = s.places := by
  unfold wLoadEff; (repeat' split) <;> simp_all
@[simp] theorem State.ctxs_wLoadEff (i : Instr) (f : Fields) (lat : List Nat → Nat) (s : State) : (wLoadEff i f lat s).ctxs = s.ctxs := by
  unfold wLoadEff; (repeat' split) <;> simp_all
@[simp] theorem State.frame_issueStore (s : State) (c k : Nat) (w : Bool) (cells : List (Nat × Byte)) (lat : Nat) : (State.issueStore s c k w cells lat).frame = s.frame := rfl
@[simp] theorem State.places_issueStore (s : State) (c k : Nat) (w : Bool) (cells : List (Nat × Byte)) (lat : Nat) : (State.issueStore s c k w cells lat).places = s.places := by unfold State.issueStore; simp
@[simp] theorem State.ctxs_issueStore (s : State) (c k : Nat) (w : Bool) (cells : List (Nat × Byte)) (lat : Nat) : (State.issueStore s c k w cells lat).ctxs = s.ctxs := by unfold State.issueStore; simp
@[simp] theorem State.frame_stwxEff (f : Fields) (s : State) : (stwxEff f s).frame = s.frame := by unfold stwxEff; simp
@[simp] theorem State.places_stwxEff (f : Fields) (s : State) : (stwxEff f s).places = s.places := by unfold stwxEff; simp
@[simp] theorem State.ctxs_stwxEff (f : Fields) (s : State) : (stwxEff f s).ctxs = s.ctxs := by unfold stwxEff; simp
@[simp] theorem State.frame_shadowOps (s : State) (core strand bno : Nat) (cells : List (Nat × Byte)) : (State.shadowOps s core strand bno cells).frame = s.frame := by
  rfl
@[simp] theorem State.frame_feedMat (s : State) (c u op : Nat) (t : Touch) : (State.feedMat s c u op t).frame = s.frame := by
  unfold State.feedMat; (repeat' split) <;> simp
@[simp] theorem State.places_feedMat (s : State) (c u op : Nat) (t : Touch) : (State.feedMat s c u op t).places = s.places := by
  unfold State.feedMat; (repeat' split) <;> simp
@[simp] theorem State.ctxs_feedMat (s : State) (c u op : Nat) (t : Touch) : (State.feedMat s c u op t).ctxs = s.ctxs := by
  unfold State.feedMat; (repeat' split) <;> simp
@[simp] theorem State.frame_setBlock (s : State) (c k r j : Nat) (b : BlockState) : (State.setBlock s c k r j b).frame = s.frame := rfl
@[simp] theorem State.places_setBlock (s : State) (c k r j : Nat) (b : BlockState) : (State.setBlock s c k r j b).places = s.places := by unfold State.setBlock State.modRegion; simp
@[simp] theorem State.ctxs_setBlock (s : State) (c k r j : Nat) (b : BlockState) : (State.setBlock s c k r j b).ctxs = s.ctxs := by unfold State.setBlock State.modRegion; simp

/-! ### Machine/Engine.lean -/

@[simp] theorem State.frame_closeRegion (s : State) (c k : Nat) (kind : OpKind) : (State.closeRegion s c k kind).frame = s.frame := by
  unfold State.closeRegion; (repeat' split) <;> simp
@[simp] theorem State.places_closeRegion (s : State) (c k : Nat) (kind : OpKind) : (State.closeRegion s c k kind).places = s.places := by
  unfold State.closeRegion; (repeat' split) <;> simp
@[simp] theorem State.ctxs_closeRegion (s : State) (c k : Nat) (kind : OpKind) : (State.closeRegion s c k kind).ctxs = s.ctxs := by
  unfold State.closeRegion; (repeat' split) <;> simp
@[simp] theorem State.frame_reserveFor (s : State) (f : Fields) (tag : Nat) (x0 : Nat) : (State.reserveFor s f tag x0).2.frame = s.frame := by
  fun_induction State.reserveFor s f tag x0 <;> (repeat' (first | split | (dsimp only; split))) <;> (try simp only [Prod.ext_iff] at *) <;> (try casesm* _ ∧ _) <;> subst_vars <;> simp_all
@[simp] theorem State.places_reserveFor (s : State) (f : Fields) (tag : Nat) (x0 : Nat) : (State.reserveFor s f tag x0).2.places = s.places := by
  fun_induction State.reserveFor s f tag x0 <;> (repeat' (first | split | (dsimp only; split))) <;> (try simp only [Prod.ext_iff] at *) <;> (try casesm* _ ∧ _) <;> subst_vars <;> simp_all
@[simp] theorem State.ctxs_reserveFor (s : State) (f : Fields) (tag : Nat) (x0 : Nat) : (State.reserveFor s f tag x0).2.ctxs = s.ctxs := by
  fun_induction State.reserveFor s f tag x0 <;> (repeat' (first | split | (dsimp only; split))) <;> (try simp only [Prod.ext_iff] at *) <;> (try casesm* _ ∧ _) <;> subst_vars <;> simp_all
@[simp] theorem State.places_deliver (s : State) (c id tag : Nat) (v : SlotBits) : (State.deliver s c id tag v).places = s.places := by
  unfold State.deliver; (repeat' split) <;> simp
@[simp] theorem State.ctxs_deliver (s : State) (c id tag : Nat) (v : SlotBits) : (State.deliver s c id tag v).ctxs = s.ctxs := by
  unfold State.deliver; (repeat' split) <;> simp
@[simp] theorem State.frame_modOp (s : State) (o : Nat) (f : EngOp → EngOp) : (State.modOp s o f).frame = s.frame := by
  unfold State.modOp; (repeat' split) <;> simp
@[simp] theorem State.places_modOp (s : State) (o : Nat) (f : EngOp → EngOp) : (State.modOp s o f).places = s.places := by
  unfold State.modOp; (repeat' split) <;> simp
@[simp] theorem State.ctxs_modOp (s : State) (o : Nat) (f : EngOp → EngOp) : (State.modOp s o f).ctxs = s.ctxs := by
  unfold State.modOp; (repeat' split) <;> simp
@[simp] theorem State.frame_retryOp (s : State) (e : EngOp) (late : Bool) (i : Instr) : (State.retryOp s e late i).frame = s.frame := rfl
@[simp] theorem State.places_retryOp (s : State) (e : EngOp) (late : Bool) (i : Instr) : (State.retryOp s e late i).places = s.places := by unfold State.retryOp; simp
@[simp] theorem State.ctxs_retryOp (s : State) (e : EngOp) (late : Bool) (i : Instr) : (State.retryOp s e late i).ctxs = s.ctxs := by unfold State.retryOp; simp
@[simp] theorem State.frame_completeIn (s : State) (o : Nat) (e : EngOp) (cycles : Nat) : (State.completeIn s o e cycles).frame = s.frame := rfl
@[simp] theorem State.places_completeIn (s : State) (o : Nat) (e : EngOp) (cycles : Nat) : (State.completeIn s o e cycles).places = s.places := by unfold State.completeIn; simp
@[simp] theorem State.ctxs_completeIn (s : State) (o : Nat) (e : EngOp) (cycles : Nat) : (State.completeIn s o e cycles).ctxs = s.ctxs := by unfold State.completeIn; simp
@[simp] theorem State.frame_presentIn (s : State) (o : Nat) (e : EngOp) (cycles : Nat) : (State.presentIn s o e cycles).frame = s.frame := rfl
@[simp] theorem State.places_presentIn (s : State) (o : Nat) (e : EngOp) (cycles : Nat) : (State.presentIn s o e cycles).places = s.places := by unfold State.presentIn; simp
@[simp] theorem State.ctxs_presentIn (s : State) (o : Nat) (e : EngOp) (cycles : Nat) : (State.presentIn s o e cycles).ctxs = s.ctxs := by unfold State.presentIn; simp
@[simp] theorem State.places_presentNow (s : State) (o : Nat) (e : EngOp) (tag : Nat) (v : SlotBits) : (State.presentNow s o e tag v).places = s.places := by
  unfold State.presentNow; (repeat' split) <;> simp
@[simp] theorem State.ctxs_presentNow (s : State) (o : Nat) (e : EngOp) (tag : Nat) (v : SlotBits) : (State.presentNow s o e tag v).ctxs = s.ctxs := by
  unfold State.presentNow; (repeat' split) <;> simp
@[simp] theorem State.frame_failNow (s : State) (o : Nat) (e : EngOp) (t : Trap) : (State.failNow s o e t).frame = s.frame := rfl
@[simp] theorem State.places_failNow (s : State) (o : Nat) (e : EngOp) (t : Trap) : (State.failNow s o e t).places = s.places := by unfold State.failNow; simp
@[simp] theorem State.ctxs_failNow (s : State) (o : Nat) (e : EngOp) (t : Trap) : (State.failNow s o e t).ctxs = s.ctxs := by unfold State.failNow; simp
@[simp] theorem State.frame_nextChunk (s : State) (o : Nat) (e : EngOp) (p : CopyPlan) : (State.nextChunk s o e p).frame = s.frame := by
  unfold State.nextChunk; (repeat' split) <;> simp
@[simp] theorem State.places_nextChunk (s : State) (o : Nat) (e : EngOp) (p : CopyPlan) : (State.nextChunk s o e p).places = s.places := by
  unfold State.nextChunk; (repeat' split) <;> simp
@[simp] theorem State.ctxs_nextChunk (s : State) (o : Nat) (e : EngOp) (p : CopyPlan) : (State.nextChunk s o e p).ctxs = s.ctxs := by
  unfold State.nextChunk; (repeat' split) <;> simp
@[simp] theorem State.frame_unitsAt (s : State) (o : Nat) (e : EngOp) (x0 : Nat) : (State.unitsAt s o e x0).frame = s.frame := by
  fun_induction State.unitsAt s o e x0 <;> simp_all
@[simp] theorem State.places_unitsAt (s : State) (o : Nat) (e : EngOp) (x0 : Nat) : (State.unitsAt s o e x0).places = s.places := by
  fun_induction State.unitsAt s o e x0 <;> simp_all
@[simp] theorem State.ctxs_unitsAt (s : State) (o : Nat) (e : EngOp) (x0 : Nat) : (State.unitsAt s o e x0).ctxs = s.ctxs := by
  fun_induction State.unitsAt s o e x0 <;> simp_all
theorem State.places_leafOf_eq {s t : State} {d fn va : Nat} {w : Walked} (h : s.leafOf d fn va = (w, t)) : t.places = s.places := by
  rw [← State.places_leafOf s d fn va, h]
@[simp] theorem State.places_pageLeaf (s : State) (d fn va : Nat) : (s.pageLeaf d fn va).2.places = s.places := by
  unfold State.pageLeaf; dsimp only
  (repeat' split) <;> first | rfl | (rename_i h; exact State.places_leafOf_eq h)
@[simp] theorem State.places_lookPage (s : State) (d fn va : Nat) : (State.lookPage s d fn va).2.places = s.places := by
  have h := State.places_pageLeaf s d fn va
  unfold State.lookPage
  split <;> rename_i e <;> rw [e] at h
  · exact h
  · split
    · dsimp only
      split <;> exact (State.places_hostLeaf _ _ _ _ _).trans h
    · split <;> exact h
theorem State.ctxs_leafOf_eq {s t : State} {d fn va : Nat} {w : Walked} (h : s.leafOf d fn va = (w, t)) : t.ctxs = s.ctxs := by
  rw [← State.ctxs_leafOf s d fn va, h]
@[simp] theorem State.ctxs_pageLeaf (s : State) (d fn va : Nat) : (s.pageLeaf d fn va).2.ctxs = s.ctxs := by
  unfold State.pageLeaf; dsimp only
  (repeat' split) <;> first | rfl | (rename_i h; exact State.ctxs_leafOf_eq h)
@[simp] theorem State.ctxs_lookPage (s : State) (d fn va : Nat) : (State.lookPage s d fn va).2.ctxs = s.ctxs := by
  have h := State.ctxs_pageLeaf s d fn va
  unfold State.lookPage
  split <;> rename_i e <;> rw [e] at h
  · exact h
  · split
    · dsimp only
      split <;> exact (State.ctxs_hostLeaf _ _ _ _ _).trans h
    · split <;> exact h
@[simp] theorem State.places_lookPages (s : State) (d fn : Nat) (x0 : List Nat) : (State.lookPages s d fn x0).2.places = s.places := by
  fun_induction State.lookPages s d fn x0 <;> (repeat' (first | split | (dsimp only; split))) <;> (try simp only [Prod.ext_iff] at *) <;> (try casesm* _ ∧ _) <;> subst_vars <;> simp_all
@[simp] theorem State.ctxs_lookPages (s : State) (d fn : Nat) (x0 : List Nat) : (State.lookPages s d fn x0).2.ctxs = s.ctxs := by
  fun_induction State.lookPages s d fn x0 <;> (repeat' (first | split | (dsimp only; split))) <;> (try simp only [Prod.ext_iff] at *) <;> (try casesm* _ ∧ _) <;> subst_vars <;> simp_all

/-! ### Machine/Scalar.lean -/

@[simp] theorem State.frame_appendScalar (s : State) (f : Fields) (r : SRes) (lat : Nat) : (State.appendScalar s f r lat).frame = s.frame := by unfold State.appendScalar; simp
@[simp] theorem State.places_appendScalar (s : State) (f : Fields) (r : SRes) (lat : Nat) : (State.appendScalar s f r lat).places = s.places := by unfold State.appendScalar; simp
@[simp] theorem State.ctxs_appendScalar (s : State) (f : Fields) (r : SRes) (lat : Nat) : (State.appendScalar s f r lat).ctxs = s.ctxs := by unfold State.appendScalar; simp
@[simp] theorem State.frame_scalarEff (f : Fields) (lat : Nat) (g : Opd → Opd → SRes) (s : State) : (scalarEff f lat g s).frame = s.frame := by unfold scalarEff; simp
@[simp] theorem State.places_scalarEff (f : Fields) (lat : Nat) (g : Opd → Opd → SRes) (s : State) : (scalarEff f lat g s).places = s.places := by unfold scalarEff; simp
@[simp] theorem State.ctxs_scalarEff (f : Fields) (lat : Nat) (g : Opd → Opd → SRes) (s : State) : (scalarEff f lat g s).ctxs = s.ctxs := by unfold scalarEff; simp
@[simp] theorem State.frame_postIssue (s : State) (cause addr aux : Nat) : (State.postIssue s cause addr aux).frame = s.frame := rfl
@[simp] theorem State.places_postIssue (s : State) (cause addr aux : Nat) : (State.postIssue s cause addr aux).places = s.places := by unfold State.postIssue; simp
@[simp] theorem State.ctxs_postIssue (s : State) (cause addr aux : Nat) : (State.postIssue s cause addr aux).ctxs = s.ctxs := by unfold State.postIssue; simp
@[simp] theorem State.frame_divideEff (w64 : Bool) (op : Nat) (f : Fields) (g : Opd → Opd → SRes) (s : State) : (divideEff w64 op f g s).frame = s.frame := by
  unfold divideEff; (repeat' (first | split | (dsimp only; split))) <;> simp
@[simp] theorem State.places_divideEff (w64 : Bool) (op : Nat) (f : Fields) (g : Opd → Opd → SRes) (s : State) : (divideEff w64 op f g s).places = s.places := by
  unfold divideEff; (repeat' (first | split | (dsimp only; split))) <;> simp
@[simp] theorem State.ctxs_divideEff (w64 : Bool) (op : Nat) (f : Fields) (g : Opd → Opd → SRes) (s : State) : (divideEff w64 op f g s).ctxs = s.ctxs := by
  unfold divideEff; (repeat' (first | split | (dsimp only; split))) <;> simp
@[simp] theorem State.frame_appendCopies (s : State) (f : Fields) (r : SRes) (x0 : Nat) : (State.appendCopies s f r x0).frame = s.frame := by
  fun_induction State.appendCopies s f r x0 <;> simp_all
@[simp] theorem State.places_appendCopies (s : State) (f : Fields) (r : SRes) (x0 : Nat) : (State.appendCopies s f r x0).places = s.places := by
  fun_induction State.appendCopies s f r x0 <;> simp_all
@[simp] theorem State.ctxs_appendCopies (s : State) (f : Fields) (r : SRes) (x0 : Nat) : (State.appendCopies s f r x0).ctxs = s.ctxs := by
  fun_induction State.appendCopies s f r x0 <;> simp_all
@[simp] theorem State.frame_dupEff (f : Fields) (s : State) : (dupEff f s).frame = s.frame := by unfold dupEff; simp
@[simp] theorem State.places_dupEff (f : Fields) (s : State) : (dupEff f s).places = s.places := by unfold dupEff; simp
@[simp] theorem State.ctxs_dupEff (f : Fields) (s : State) : (dupEff f s).ctxs = s.ctxs := by unfold dupEff; simp
@[simp] theorem State.frame_qlenEff (f : Fields) (s : State) : (qlenEff f s).frame = s.frame := by unfold qlenEff; simp
@[simp] theorem State.places_qlenEff (f : Fields) (s : State) : (qlenEff f s).places = s.places := by unfold qlenEff; simp
@[simp] theorem State.ctxs_qlenEff (f : Fields) (s : State) : (qlenEff f s).ctxs = s.ctxs := by unfold qlenEff; simp
@[simp] theorem State.frame_setCond (s : State) (n : Nat) (v : Bool) : (State.setCond s n v).frame = s.frame := rfl
@[simp] theorem State.places_setCond (s : State) (n : Nat) (v : Bool) : (State.setCond s n v).places = s.places := by unfold State.setCond; simp
@[simp] theorem State.frame_cmpEff (cc : Cc) (f : Fields) (s : State) : (cmpEff cc f s).frame = s.frame := by unfold cmpEff; simp
@[simp] theorem State.places_cmpEff (cc : Cc) (f : Fields) (s : State) : (cmpEff cc f s).places = s.places := by unfold cmpEff; simp
@[simp] theorem State.frame_selEff (f : Fields) (s : State) : (selEff f s).frame = s.frame := by unfold selEff; simp
@[simp] theorem State.places_selEff (f : Fields) (s : State) : (selEff f s).places = s.places := by unfold selEff; simp
@[simp] theorem State.ctxs_selEff (f : Fields) (s : State) : (selEff f s).ctxs = s.ctxs := by unfold selEff; simp

/-! ### Machine/Control.lean -/

@[simp] theorem State.frame_modMe (s : State) (g : Strand → Strand) : (State.modMe s g).frame = s.frame := rfl
@[simp] theorem State.frame_modMyCtx (s : State) (g : Ctx → Ctx) : (State.modMyCtx s g).frame = s.frame := rfl
@[simp] theorem State.places_modMyCtx (s : State) (g : Ctx → Ctx) : (State.modMyCtx s g).places = s.places := by unfold State.modMyCtx; simp
@[simp] theorem State.frame_modMyFlow (s : State) (g : Flow → Flow) : (State.modMyFlow s g).frame = s.frame := rfl
@[simp] theorem State.places_modMyFlow (s : State) (g : Flow → Flow) : (State.modMyFlow s g).places = s.places := by unfold State.modMyFlow; simp
@[simp] theorem State.ctxs_modMyFlow (s : State) (g : Flow → Flow) : (State.modMyFlow s g).ctxs = s.ctxs := by unfold State.modMyFlow; simp
@[simp] theorem State.frame_continueAt (s : State) (cont : Nat) : (State.continueAt s cont).frame = s.frame := rfl
@[simp] theorem State.places_continueAt (s : State) (cont : Nat) : (State.continueAt s cont).places = s.places := by unfold State.continueAt; simp
@[simp] theorem State.ctxs_continueAt (s : State) (cont : Nat) : (State.continueAt s cont).ctxs = s.ctxs := by unfold State.continueAt; simp
@[simp] theorem State.frame_transfer (s : State) (g : Nat) : (State.transfer s g).frame = s.frame := by unfold State.transfer; simp
@[simp] theorem State.places_transfer (s : State) (g : Nat) : (State.transfer s g).places = s.places := by unfold State.transfer; simp
@[simp] theorem State.ctxs_transfer (s : State) (g : Nat) : (State.transfer s g).ctxs = s.ctxs := by unfold State.transfer; simp
@[simp] theorem State.frame_fallThrough (s : State) : (State.fallThrough s).frame = s.frame := rfl
@[simp] theorem State.places_fallThrough (s : State) : (State.fallThrough s).places = s.places := by unfold State.fallThrough; simp
@[simp] theorem State.ctxs_fallThrough (s : State) : (State.fallThrough s).ctxs = s.ctxs := by unfold State.fallThrough; simp
@[simp] theorem State.frame_ptgEff (f : Fields) (s : State) : (ptgEff f s).frame = s.frame := by unfold ptgEff; simp
@[simp] theorem State.places_ptgEff (f : Fields) (s : State) : (ptgEff f s).places = s.places := by unfold ptgEff; simp
@[simp] theorem State.frame_brEff (f : Fields) (s : State) : (brEff f s).frame = s.frame := by unfold brEff; simp
@[simp] theorem State.places_brEff (f : Fields) (s : State) : (brEff f s).places = s.places := by unfold brEff; simp
@[simp] theorem State.ctxs_brEff (f : Fields) (s : State) : (brEff f s).ctxs = s.ctxs := by unfold brEff; simp
@[simp] theorem State.frame_brcEff (f : Fields) (s : State) : (brcEff f s).frame = s.frame := by
  unfold brcEff; (repeat' split) <;> simp
@[simp] theorem State.places_brcEff (f : Fields) (s : State) : (brcEff f s).places = s.places := by
  unfold brcEff; (repeat' split) <;> simp
@[simp] theorem State.ctxs_brcEff (f : Fields) (s : State) : (brcEff f s).ctxs = s.ctxs := by
  unfold brcEff; (repeat' split) <;> simp
@[simp] theorem State.frame_callEff (f : Fields) (s : State) : (callEff f s).frame = s.frame := by unfold callEff; simp
@[simp] theorem State.places_callEff (f : Fields) (s : State) : (callEff f s).places = s.places := by unfold callEff; simp
@[simp] theorem State.ctxs_callEff (f : Fields) (s : State) : (callEff f s).ctxs = s.ctxs := by unfold callEff; simp
@[simp] theorem State.frame_retEff (f : Fields) (s : State) : (retEff f s).frame = s.frame := by unfold retEff; simp
@[simp] theorem State.places_retEff (f : Fields) (s : State) : (retEff f s).places = s.places := by unfold retEff; simp
@[simp] theorem State.ctxs_retEff (f : Fields) (s : State) : (retEff f s).ctxs = s.ctxs := by unfold retEff; simp
@[simp] theorem State.frame_voteEff (f : Fields) (g : Nat → Nat → Bool) (s : State) : (voteEff f g s).frame = s.frame := by unfold voteEff; simp
@[simp] theorem State.places_voteEff (f : Fields) (g : Nat → Nat → Bool) (s : State) : (voteEff f g s).places = s.places := by unfold voteEff; simp
@[simp] theorem State.frame_ktestEff (f : Fields) (s : State) : (ktestEff f s).frame = s.frame := by unfold ktestEff; simp
@[simp] theorem State.places_ktestEff (f : Fields) (s : State) : (ktestEff f s).places = s.places := by unfold ktestEff; simp
@[simp] theorem State.frame_startWait (s : State) (w : Wait) : (State.startWait s w).frame = s.frame := rfl
@[simp] theorem State.places_startWait (s : State) (w : Wait) : (State.startWait s w).places = s.places := by unfold State.startWait; simp
@[simp] theorem State.ctxs_startWait (s : State) (w : Wait) : (State.startWait s w).ctxs = s.ctxs := by unfold State.startWait; simp
@[simp] theorem State.frame_kwaitEff (f : Fields) (s : State) : (kwaitEff f s).frame = s.frame := by unfold kwaitEff; simp
@[simp] theorem State.places_kwaitEff (f : Fields) (s : State) : (kwaitEff f s).places = s.places := by unfold kwaitEff; simp
@[simp] theorem State.ctxs_kwaitEff (f : Fields) (s : State) : (kwaitEff f s).ctxs = s.ctxs := by unfold kwaitEff; simp
@[simp] theorem State.frame_qwaitEff (f : Fields) (s : State) : (qwaitEff f s).frame = s.frame := by unfold qwaitEff; simp
@[simp] theorem State.places_qwaitEff (f : Fields) (s : State) : (qwaitEff f s).places = s.places := by unfold qwaitEff; simp
@[simp] theorem State.ctxs_qwaitEff (f : Fields) (s : State) : (qwaitEff f s).ctxs = s.ctxs := by unfold qwaitEff; simp
@[simp] theorem State.frame_trapEff (f : Fields) (s : State) : (trapEff f s).frame = s.frame := by unfold trapEff; simp
@[simp] theorem State.places_trapEff (f : Fields) (s : State) : (trapEff f s).places = s.places := by unfold trapEff; simp
@[simp] theorem State.ctxs_trapEff (f : Fields) (s : State) : (trapEff f s).ctxs = s.ctxs := by unfold trapEff; simp
@[simp] theorem State.frame_eretEff (s : State) : (eretEff s).frame = s.frame := by unfold eretEff; simp
@[simp] theorem State.places_eretEff (s : State) : (eretEff s).places = s.places := by unfold eretEff; simp
@[simp] theorem State.ctxs_eretEff (s : State) : (eretEff s).ctxs = s.ctxs := by unfold eretEff; simp
@[simp] theorem State.frame_srdEff (f : Fields) (s : State) : (srdEff f s).frame = s.frame := by unfold srdEff; simp
@[simp] theorem State.places_srdEff (f : Fields) (s : State) : (srdEff f s).places = s.places := by unfold srdEff; simp
@[simp] theorem State.ctxs_srdEff (f : Fields) (s : State) : (srdEff f s).ctxs = s.ctxs := by unfold srdEff; simp
@[simp] theorem State.frame_putBank (s : State) (n i v : Nat) : (State.putBank s n i v).frame = s.frame := rfl
@[simp] theorem State.places_putBank (s : State) (n i v : Nat) : (State.putBank s n i v).places = s.places := by unfold State.putBank; simp
@[simp] theorem State.frame_phaseEff (s : State) : (phaseEff s).frame = s.frame := by unfold phaseEff; simp
@[simp] theorem State.places_phaseEff (s : State) : (phaseEff s).places = s.places := by unfold phaseEff; simp
@[simp] theorem State.ctxs_phaseEff (s : State) : (phaseEff s).ctxs = s.ctxs := by unfold phaseEff; simp
@[simp] theorem State.frame_trigEff (s : State) : (trigEff s).frame = s.frame := by unfold trigEff; simp
@[simp] theorem State.places_trigEff (s : State) : (trigEff s).places = s.places := by unfold trigEff; simp
@[simp] theorem State.ctxs_trigEff (s : State) : (trigEff s).ctxs = s.ctxs := by unfold trigEff; simp

/-! ### Machine/Vector.lean -/

@[simp] theorem State.frame_appendVector (s : State) (f : Fields) (r : VRes) (lat : Nat) : (State.appendVector s f r lat).frame = s.frame := by unfold State.appendVector; simp
@[simp] theorem State.places_appendVector (s : State) (f : Fields) (r : VRes) (lat : Nat) : (State.appendVector s f r lat).places = s.places := by unfold State.appendVector; simp
@[simp] theorem State.ctxs_appendVector (s : State) (f : Fields) (r : VRes) (lat : Nat) : (State.appendVector s f r lat).ctxs = s.ctxs := by unfold State.appendVector; simp
@[simp] theorem State.frame_vectorEff (f : Fields) (lat : Nat) (g : Strand → Opd → Opd → Opd → VRes) (s : State) : (vectorEff f lat g s).frame = s.frame := by unfold vectorEff; simp
@[simp] theorem State.places_vectorEff (f : Fields) (lat : Nat) (g : Strand → Opd → Opd → Opd → VRes) (s : State) : (vectorEff f lat g s).places = s.places := by unfold vectorEff; simp
@[simp] theorem State.ctxs_vectorEff (f : Fields) (lat : Nat) (g : Strand → Opd → Opd → Opd → VRes) (s : State) : (vectorEff f lat g s).ctxs = s.ctxs := by unfold vectorEff; simp
@[simp] theorem State.frame_vbcastEff (f : Fields) (s : State) : (vbcastEff f s).frame = s.frame := by unfold vbcastEff; simp
@[simp] theorem State.places_vbcastEff (f : Fields) (s : State) : (vbcastEff f s).places = s.places := by unfold vbcastEff; simp
@[simp] theorem State.ctxs_vbcastEff (f : Fields) (s : State) : (vbcastEff f s).ctxs = s.ctxs := by unfold vbcastEff; simp

/-! ### Machine/Matrix.lean -/

@[simp] theorem State.frame_startMat (s : State) (c k u tile eff : Nat) (kind : MatKind) : (State.startMat s c k u tile eff kind).2.frame = s.frame := rfl
@[simp] theorem State.places_startMat (s : State) (c k u tile eff : Nat) (kind : MatKind) : (State.startMat s c k u tile eff kind).2.places = s.places := by unfold State.startMat; simp
@[simp] theorem State.ctxs_startMat (s : State) (c k u tile eff : Nat) (kind : MatKind) : (State.startMat s c k u tile eff kind).2.ctxs = s.ctxs := by unfold State.startMat; simp
@[simp] theorem State.frame_touchMat (s : State) (c k per : Nat) (what : TouchFor) (x0 : Nat) (x1 : List Nat) : (State.touchMat s c k per what x0 x1).frame = s.frame := by
  fun_induction State.touchMat s c k per what x0 x1 <;> simp_all
@[simp] theorem State.places_touchMat (s : State) (c k per : Nat) (what : TouchFor) (x0 : Nat) (x1 : List Nat) : (State.touchMat s c k per what x0 x1).places = s.places := by
  fun_induction State.touchMat s c k per what x0 x1 <;> simp_all
@[simp] theorem State.ctxs_touchMat (s : State) (c k per : Nat) (what : TouchFor) (x0 : Nat) (x1 : List Nat) : (State.touchMat s c k per what x0 x1).ctxs = s.ctxs := by
  fun_induction State.touchMat s c k per what x0 x1 <;> simp_all
@[simp] theorem State.frame_mmaEff (v : MUnit) (t : MFmt) (zero : Bool) (i : Instr) (f : Fields) (s : State) : (mmaEff v t zero i f s).frame = s.frame := by unfold mmaEff; simp
@[simp] theorem State.places_mmaEff (v : MUnit) (t : MFmt) (zero : Bool) (i : Instr) (f : Fields) (s : State) : (mmaEff v t zero i f s).places = s.places := by unfold mmaEff; simp
@[simp] theorem State.ctxs_mmaEff (v : MUnit) (t : MFmt) (zero : Bool) (i : Instr) (f : Fields) (s : State) : (mmaEff v t zero i f s).ctxs = s.ctxs := by unfold mmaEff; simp
@[simp] theorem State.frame_mzeroEff (v : MUnit) (f : Fields) (s : State) : (mzeroEff v f s).frame = s.frame := by unfold mzeroEff; simp
@[simp] theorem State.places_mzeroEff (v : MUnit) (f : Fields) (s : State) : (mzeroEff v f s).places = s.places := by unfold mzeroEff; simp
@[simp] theorem State.ctxs_mzeroEff (v : MUnit) (f : Fields) (s : State) : (mzeroEff v f s).ctxs = s.ctxs := by unfold mzeroEff; simp
@[simp] theorem State.frame_readTile (s : State) (c k u t last : Nat) : (State.readTile s c k u t last).frame = s.frame := rfl
@[simp] theorem State.places_readTile (s : State) (c k u t last : Nat) : (State.readTile s c k u t last).places = s.places := by unfold State.readTile; simp
@[simp] theorem State.ctxs_readTile (s : State) (c k u t last : Nat) : (State.readTile s c k u t last).ctxs = s.ctxs := by unfold State.readTile; simp
@[simp] theorem State.frame_drainRows (s : State) (c k sel tag : Nat) (x0 : Nat) (x1 : List Nat) : (State.drainRows s c k sel tag x0 x1).frame = s.frame := by
  fun_induction State.drainRows s c k sel tag x0 x1 <;> simp_all
@[simp] theorem State.places_drainRows (s : State) (c k sel tag : Nat) (x0 : Nat) (x1 : List Nat) : (State.drainRows s c k sel tag x0 x1).places = s.places := by
  fun_induction State.drainRows s c k sel tag x0 x1 <;> simp_all
@[simp] theorem State.ctxs_drainRows (s : State) (c k sel tag : Nat) (x0 : Nat) (x1 : List Nat) : (State.drainRows s c k sel tag x0 x1).ctxs = s.ctxs := by
  fun_induction State.drainRows s c k sel tag x0 x1 <;> simp_all
@[simp] theorem State.frame_mdrainEff (v : MUnit) (f : Fields) (s : State) : (mdrainEff v f s).frame = s.frame := by unfold mdrainEff; simp
@[simp] theorem State.places_mdrainEff (v : MUnit) (f : Fields) (s : State) : (mdrainEff v f s).places = s.places := by unfold mdrainEff; simp
@[simp] theorem State.ctxs_mdrainEff (v : MUnit) (f : Fields) (s : State) : (mdrainEff v f s).ctxs = s.ctxs := by unfold mdrainEff; simp
@[simp] theorem State.frame_maccsEff (v : MUnit) (f : Fields) (s : State) : (maccsEff v f s).frame = s.frame := by unfold maccsEff; simp
@[simp] theorem State.places_maccsEff (v : MUnit) (f : Fields) (s : State) : (maccsEff v f s).places = s.places := by unfold maccsEff; simp
@[simp] theorem State.ctxs_maccsEff (v : MUnit) (f : Fields) (s : State) : (maccsEff v f s).ctxs = s.ctxs := by unfold maccsEff; simp
@[simp] theorem State.frame_macclEff (v : MUnit) (f : Fields) (s : State) : (macclEff v f s).frame = s.frame := by unfold macclEff; simp
@[simp] theorem State.places_macclEff (v : MUnit) (f : Fields) (s : State) : (macclEff v f s).places = s.places := by unfold macclEff; simp
@[simp] theorem State.ctxs_macclEff (v : MUnit) (f : Fields) (s : State) : (macclEff v f s).ctxs = s.ctxs := by unfold macclEff; simp
@[simp] theorem State.frame_mfmtEff (v : MUnit) (f : Fields) (s : State) : (mfmtEff v f s).frame = s.frame := by unfold mfmtEff; simp
@[simp] theorem State.places_mfmtEff (v : MUnit) (f : Fields) (s : State) : (mfmtEff v f s).places = s.places := by unfold mfmtEff; simp
@[simp] theorem State.ctxs_mfmtEff (v : MUnit) (f : Fields) (s : State) : (mfmtEff v f s).ctxs = s.ctxs := by unfold mfmtEff; simp
@[simp] theorem State.frame_writeTile (s : State) (c u id : Nat) (o : MatOp) : (State.writeTile s c u id o).frame = s.frame := by
  unfold State.writeTile; (repeat' split) <;> simp
@[simp] theorem State.places_writeTile (s : State) (c u id : Nat) (o : MatOp) : (State.writeTile s c u id o).places = s.places := by
  unfold State.writeTile; (repeat' split) <;> simp
@[simp] theorem State.ctxs_writeTile (s : State) (c u id : Nat) (o : MatOp) : (State.writeTile s c u id o).ctxs = s.ctxs := by
  unfold State.writeTile; (repeat' split) <;> simp
@[simp] theorem State.places_residue (s : State) (c u : Nat) (o : MatOp) : (State.residue s c u o).places = s.places := by
  unfold State.residue; (repeat' (first | split | (dsimp only; split))) <;> simp
@[simp] theorem State.ctxs_residue (s : State) (c u : Nat) (o : MatOp) : (State.residue s c u o).ctxs = s.ctxs := by
  unfold State.residue; (repeat' (first | split | (dsimp only; split))) <;> simp

/-! ### Machine/Stitch.lean -/

@[simp] theorem State.frame_touchImage (s : State) (c k base : Nat) (gs : List Nat) : (State.touchImage s c k base gs).frame = s.frame := by
  induction gs generalizing s with
  | nil => rfl
  | cons g gs ih => unfold State.touchImage; rw [ih]; simp
@[simp] theorem State.places_touchImage (s : State) (c k base : Nat) (gs : List Nat) : (State.touchImage s c k base gs).places = s.places := by
  induction gs generalizing s with
  | nil => rfl
  | cons g gs ih => unfold State.touchImage; rw [ih]; simp
@[simp] theorem State.ctxs_touchImage (s : State) (c k base : Nat) (gs : List Nat) : (State.touchImage s c k base gs).ctxs = s.ctxs := by
  induction gs generalizing s with
  | nil => rfl
  | cons g gs ih => unfold State.touchImage; rw [ih]; simp
@[simp] theorem State.frame_stcfgEff (f : Fields) (s : State) : (stcfgEff f s).frame = s.frame := by
  unfold stcfgEff; (repeat' (first | split | (dsimp only; split))) <;> simp
@[simp] theorem State.places_stcfgEff (f : Fields) (s : State) : (stcfgEff f s).places = s.places := by
  unfold stcfgEff; (repeat' (first | split | (dsimp only; split))) <;> simp
@[simp] theorem State.ctxs_stcfgEff (f : Fields) (s : State) : (stcfgEff f s).ctxs = s.ctxs := by
  unfold stcfgEff; (repeat' (first | split | (dsimp only; split))) <;> simp
@[simp] theorem State.frame_modRow (s : State) (c : Nat) (f : Row → Row) : (State.modRow s c f).frame = s.frame := rfl
@[simp] theorem State.places_modRow (s : State) (c : Nat) (f : Row → Row) : (State.modRow s c f).places = s.places := by unfold State.modRow; simp
@[simp] theorem State.ctxs_modRow (s : State) (c : Nat) (f : Row → Row) : (State.modRow s c f).ctxs = s.ctxs := by unfold State.modRow; simp
@[simp] theorem State.frame_modRun (s : State) (c : Nat) (f : RowRun → RowRun) : (State.modRun s c f).frame = s.frame := rfl
@[simp] theorem State.places_modRun (s : State) (c : Nat) (f : RowRun → RowRun) : (State.modRun s c f).places = s.places := by unfold State.modRun; simp
@[simp] theorem State.ctxs_modRun (s : State) (c : Nat) (f : RowRun → RowRun) : (State.modRun s c f).ctxs = s.ctxs := by unfold State.modRun; simp
@[simp] theorem State.frame_rowRelease (s : State) (c : Nat) (r : RowRun) (i : Nat) : (State.rowRelease s c r i).frame = s.frame := by unfold State.rowRelease; simp
@[simp] theorem State.places_rowRelease (s : State) (c : Nat) (r : RowRun) (i : Nat) : (State.rowRelease s c r i).places = s.places := by unfold State.rowRelease; simp
@[simp] theorem State.ctxs_rowRelease (s : State) (c : Nat) (r : RowRun) (i : Nat) : (State.rowRelease s c r i).ctxs = s.ctxs := by unfold State.rowRelease; simp

/-! ### Machine/XSlot.lean -/

@[simp] theorem State.frame_startX (s : State) (w : XWait) (lat : Nat) (row : Instr) : (State.startX s w lat row).frame = s.frame := by unfold State.startX; simp
@[simp] theorem State.places_startX (s : State) (w : XWait) (lat : Nat) (row : Instr) : (State.startX s w lat row).places = s.places := by unfold State.startX; simp
@[simp] theorem State.ctxs_startX (s : State) (w : XWait) (lat : Nat) (row : Instr) : (State.startX s w lat row).ctxs = s.ctxs := by unfold State.startX; simp
@[simp] theorem State.frame_reserveIds (s : State) (c k dst : Nat) (x0 : Nat) : (State.reserveIds s c k dst x0).2.frame = s.frame := by
  fun_induction State.reserveIds s c k dst x0 <;> (repeat' (first | split | (dsimp only; split))) <;> (try simp only [Prod.ext_iff] at *) <;> (try casesm* _ ∧ _) <;> subst_vars <;> simp_all
@[simp] theorem State.places_reserveIds (s : State) (c k dst : Nat) (x0 : Nat) : (State.reserveIds s c k dst x0).2.places = s.places := by
  fun_induction State.reserveIds s c k dst x0 <;> (repeat' (first | split | (dsimp only; split))) <;> (try simp only [Prod.ext_iff] at *) <;> (try casesm* _ ∧ _) <;> subst_vars <;> simp_all
@[simp] theorem State.ctxs_reserveIds (s : State) (c k dst : Nat) (x0 : Nat) : (State.reserveIds s c k dst x0).2.ctxs = s.ctxs := by
  fun_induction State.reserveIds s c k dst x0 <;> (repeat' (first | split | (dsimp only; split))) <;> (try simp only [Prod.ext_iff] at *) <;> (try casesm* _ ∧ _) <;> subst_vars <;> simp_all
@[simp] theorem State.frame_endX (s : State) (c k : Nat) : (State.endX s c k).frame = s.frame := by unfold State.endX; simp
@[simp] theorem State.places_endX (s : State) (c k : Nat) : (State.endX s c k).places = s.places := by unfold State.endX; simp
@[simp] theorem State.ctxs_endX (s : State) (c k : Nat) : (State.endX s c k).ctxs = s.ctxs := by unfold State.endX; simp
@[simp] theorem State.frame_refuseX (s : State) (c k cause addr : Nat) (aux : Dword) (ids : List Nat) : (State.refuseX s c k cause addr aux ids).frame = s.frame := by unfold State.refuseX; simp
@[simp] theorem State.places_refuseX (s : State) (c k cause addr : Nat) (aux : Dword) (ids : List Nat) : (State.refuseX s c k cause addr aux ids).places = s.places := by unfold State.refuseX; simp
@[simp] theorem State.ctxs_refuseX (s : State) (c k cause addr : Nat) (aux : Dword) (ids : List Nat) : (State.refuseX s c k cause addr aux ids).ctxs = s.ctxs := by unfold State.refuseX; simp
@[simp] theorem State.frame_refusePoison (s : State) (c k key : Nat) (ids : List Nat) : (State.refusePoison s c k key ids).frame = s.frame := by unfold State.refusePoison; simp
@[simp] theorem State.places_refusePoison (s : State) (c k key : Nat) (ids : List Nat) : (State.refusePoison s c k key ids).places = s.places := by unfold State.refusePoison; simp
@[simp] theorem State.ctxs_refusePoison (s : State) (c k key : Nat) (ids : List Nat) : (State.refusePoison s c k key ids).ctxs = s.ctxs := by unfold State.refusePoison; simp
@[simp] theorem State.frame_qdescEff (f : Fields) (s : State) : (qdescEff f s).frame = s.frame := by unfold qdescEff; simp
@[simp] theorem State.places_qdescEff (f : Fields) (s : State) : (qdescEff f s).places = s.places := by unfold qdescEff; simp
@[simp] theorem State.ctxs_qdescEff (f : Fields) (s : State) : (qdescEff f s).ctxs = s.ctxs := by unfold qdescEff; simp
@[simp] theorem State.frame_fdsetEff (f : Fields) (s : State) : (fdsetEff f s).frame = s.frame := by unfold fdsetEff; simp
@[simp] theorem State.places_fdsetEff (f : Fields) (s : State) : (fdsetEff f s).places = s.places := by unfold fdsetEff; simp
@[simp] theorem State.frame_qgraftEff (f : Fields) (s : State) : (qgraftEff f s).frame = s.frame := by unfold qgraftEff; simp
@[simp] theorem State.places_qgraftEff (f : Fields) (s : State) : (qgraftEff f s).places = s.places := by unfold qgraftEff; simp
@[simp] theorem State.ctxs_qgraftEff (f : Fields) (s : State) : (qgraftEff f s).ctxs = s.ctxs := by unfold qgraftEff; simp
@[simp] theorem State.frame_qungraftEff (f : Fields) (s : State) : (qungraftEff f s).frame = s.frame := by unfold qungraftEff; simp
@[simp] theorem State.places_qungraftEff (f : Fields) (s : State) : (qungraftEff f s).places = s.places := by unfold qungraftEff; simp
@[simp] theorem State.ctxs_qungraftEff (f : Fields) (s : State) : (qungraftEff f s).ctxs = s.ctxs := by unfold qungraftEff; simp
@[simp] theorem State.frame_tspawnEff (f : Fields) (s : State) : (tspawnEff f s).frame = s.frame := by unfold tspawnEff; simp
@[simp] theorem State.places_tspawnEff (f : Fields) (s : State) : (tspawnEff f s).places = s.places := by unfold tspawnEff; simp
@[simp] theorem State.ctxs_tspawnEff (f : Fields) (s : State) : (tspawnEff f s).ctxs = s.ctxs := by unfold tspawnEff; simp
@[simp] theorem State.frame_tforkEff (f : Fields) (s : State) : (tforkEff f s).frame = s.frame := by unfold tforkEff; simp
@[simp] theorem State.places_tforkEff (f : Fields) (s : State) : (tforkEff f s).places = s.places := by unfold tforkEff; simp
@[simp] theorem State.ctxs_tforkEff (f : Fields) (s : State) : (tforkEff f s).ctxs = s.ctxs := by unfold tforkEff; simp
@[simp] theorem State.frame_tcancelEff (f : Fields) (s : State) : (tcancelEff f s).frame = s.frame := by
  unfold tcancelEff; (repeat' (first | split | (dsimp only; split))) <;> simp
@[simp] theorem State.places_tcancelEff (f : Fields) (s : State) : (tcancelEff f s).places = s.places := by
  unfold tcancelEff; (repeat' (first | split | (dsimp only; split))) <;> simp
@[simp] theorem State.ctxs_tcancelEff (f : Fields) (s : State) : (tcancelEff f s).ctxs = s.ctxs := by
  unfold tcancelEff; (repeat' (first | split | (dsimp only; split))) <;> simp
@[simp] theorem State.frame_tprioEff (f : Fields) (s : State) : (tprioEff f s).frame = s.frame := by
  unfold tprioEff; (repeat' (first | split | (dsimp only; split))) <;> simp
@[simp] theorem State.places_tprioEff (f : Fields) (s : State) : (tprioEff f s).places = s.places := by
  unfold tprioEff; (repeat' (first | split | (dsimp only; split))) <;> simp
@[simp] theorem State.ctxs_tprioEff (f : Fields) (s : State) : (tprioEff f s).ctxs = s.ctxs := by
  unfold tprioEff; (repeat' (first | split | (dsimp only; split))) <;> simp
@[simp] theorem State.frame_agsetEff (f : Fields) (s : State) : (agsetEff f s).frame = s.frame := by unfold agsetEff; simp
@[simp] theorem State.places_agsetEff (f : Fields) (s : State) : (agsetEff f s).places = s.places := by unfold agsetEff; simp
@[simp] theorem State.ctxs_agsetEff (f : Fields) (s : State) : (agsetEff f s).ctxs = s.ctxs := by unfold agsetEff; simp
@[simp] theorem State.frame_traceCtl (s : State) (g : Trace → Trace) : (State.traceCtl s g).frame = s.frame := by
  unfold State.traceCtl; (repeat' (first | split | (dsimp only; split))) <;> simp
@[simp] theorem State.places_traceCtl (s : State) (g : Trace → Trace) : (State.traceCtl s g).places = s.places := by
  unfold State.traceCtl; (repeat' (first | split | (dsimp only; split))) <;> simp
@[simp] theorem State.ctxs_traceCtl (s : State) (g : Trace → Trace) : (State.traceCtl s g).ctxs = s.ctxs := by
  unfold State.traceCtl; (repeat' (first | split | (dsimp only; split))) <;> simp
@[simp] theorem State.frame_traceOnEff (f : Fields) (s : State) : (traceOnEff f s).frame = s.frame := by unfold traceOnEff; simp
@[simp] theorem State.places_traceOnEff (f : Fields) (s : State) : (traceOnEff f s).places = s.places := by unfold traceOnEff; simp
@[simp] theorem State.ctxs_traceOnEff (f : Fields) (s : State) : (traceOnEff f s).ctxs = s.ctxs := by unfold traceOnEff; simp
@[simp] theorem State.frame_traceOffEff (s : State) : (traceOffEff s).frame = s.frame := by unfold traceOffEff; simp
@[simp] theorem State.places_traceOffEff (s : State) : (traceOffEff s).places = s.places := by unfold traceOffEff; simp
@[simp] theorem State.ctxs_traceOffEff (s : State) : (traceOffEff s).ctxs = s.ctxs := by unfold traceOffEff; simp
@[simp] theorem State.frame_traceMarkEff (f : Fields) (s : State) : (traceMarkEff f s).frame = s.frame := by unfold traceMarkEff; simp
@[simp] theorem State.places_traceMarkEff (f : Fields) (s : State) : (traceMarkEff f s).places = s.places := by unfold traceMarkEff; simp
@[simp] theorem State.ctxs_traceMarkEff (f : Fields) (s : State) : (traceMarkEff f s).ctxs = s.ctxs := by unfold traceMarkEff; simp
@[simp] theorem State.frame_traceArmEff (f : Fields) (s : State) : (traceArmEff f s).frame = s.frame := by unfold traceArmEff; simp
@[simp] theorem State.places_traceArmEff (f : Fields) (s : State) : (traceArmEff f s).places = s.places := by unfold traceArmEff; simp
@[simp] theorem State.ctxs_traceArmEff (f : Fields) (s : State) : (traceArmEff f s).ctxs = s.ctxs := by unfold traceArmEff; simp

end Sys2Proof.Machine
end

