-- ==== Sys2Proof/Laws/Ops.lean ====
section
/-! SUPPORT. What the shared operations do: the issue of one syllable, the canonical form of memory under every operation that writes it,
and taking a trap. -/

namespace Sys2Proof.Machine

/-! ### The issue of one syllable -/

theorem issueOne_admitted (i : Instr) (eff : State → State) (s : State) (h : s.bundle.admitted = true) : issueOne i eff s = .next (eff s) := by
  simp [issueOne, h]

theorem issueOne_fault (i : Instr) (eff : State → State) (s : State) (sl : Slot) (op : Nat) (f : Fields) (x : Trap)
    (h : s.bundle.admitted = false) (ho : i.opcode = some (sl, op)) (hf : i.fields = some f)
    (hv : s.admission s.bundle.core s.bundle.strand (soloBundle i sl op f) = .fault x) :
    issueOne i eff s = .next (s.faultInPlace s.bundle.core s.bundle.strand x) := by simp [issueOne, h, ho, hf, hv]

theorem issueOne_held (i : Instr) (eff : State → State) (s : State) (sl : Slot) (op : Nat) (f : Fields) (a : Option Nat)
    (h : s.bundle.admitted = false) (ho : i.opcode = some (sl, op)) (hf : i.fields = some f)
    (hv : s.admission s.bundle.core s.bundle.strand (soloBundle i sl op f) = .held a) :
    issueOne i eff s = .next (s.modBundle (fun b => { b with held := true })) := by simp [issueOne, h, ho, hf, hv]

theorem issueOne_ok (i : Instr) (eff : State → State) (s : State) (sl : Slot) (op : Nat) (f : Fields)
    (h : s.bundle.admitted = false) (ho : i.opcode = some (sl, op)) (hf : i.fields = some f)
    (hv : s.admission s.bundle.core s.bundle.strand (soloBundle i sl op f) = .ok) :
    issueOne i eff s = .next ((eff (s.begin s.bundle.core s.bundle.strand (Bundle.uses (soloBundle i sl op f)))).retireBundle
      s.bundle.core s.bundle.strand (Bundle.uses (soloBundle i sl op f))) := by simp [issueOne, h, ho, hf, hv]

/-- issueOne never stops. -/
theorem issueOne_next (i : Instr) (eff : State → State) (s : State) : ∃ t, issueOne i eff s = .next t := by
  unfold issueOne; (repeat' (first | split | (dsimp only; split))) <;> exact ⟨_, rfl⟩

/-! ### The canonical form of memory -/

theorem State.memOk_of_mem {s t : State} (h : s.memOk) (e : t.mem = s.mem) : t.memOk := by unfold State.memOk; rw [e]; exact h
theorem State.memOk_of_frame {s t : State} (h : s.memOk) (e : t.frame = s.frame) : t.memOk := State.memOk_of_mem h (State.mem_of_frame e)

@[simp] theorem State.memOk_reset : State.reset.memOk := rfl

@[simp] theorem State.memOk_putCells {s : State} (h : s.memOk) (cs : List (Nat × Byte)) : (s.putCells cs).1.memOk := by
  unfold State.putCells; split <;> exact Memory.wf_writeCells _ _ h

@[simp] theorem State.memOk_putBytes {s : State} (h : s.memOk) (k : Nat) (bs : List Byte) : (s.putBytes k bs).memOk :=
  Memory.wf_writeBytes _ _ _ h

@[simp] theorem State.memOk_zeroBytes {s : State} (h : s.memOk) (k n : Nat) : (s.zeroBytes k n).memOk := Memory.wf_clear _ _ _ h

@[simp] theorem State.memOk_fillSlot {s : State} (h : s.memOk) (c k sel i tag : Nat) (v : SlotBits) : (s.fillSlot c k sel i tag v).memOk := by
  have h1 := State.memOk_of_frame h (State.frame_modSlot s c k sel i (fun x => { x with present := true, tag := tag, orphan := false }))
  unfold State.fillSlot
  split
  · exact State.memOk_putBytes h1 _ _
  · exact h1

@[simp] theorem State.memOk_arrive {s : State} (h : s.memOk) (c k q tag : Nat) (v : SlotBits) : (s.arrive c k q tag v).memOk :=
  State.memOk_fillSlot (s := s.setQueue c k q _) h c k q _ tag v

/-! ### Translation writes no memory -/

@[simp] theorem State.mem_leafOf (s : State) (d fn va : Nat) : (s.leafOf d fn va).2.mem = s.mem := by
  unfold State.leafOf; (repeat' split) <;> rfl
@[simp] theorem State.mem_hostLeaf (s : State) (fn addr level : Nat) (w : Bool) : (s.hostLeaf fn addr level w).2.mem = s.mem := by
  unfold State.hostLeaf
  dsimp only
  split
  · rfl
  · cases Table.get? (s.fnHost fn).pages (addr / 4096) with
    | none => rfl
    | some p => cases p <;> dsimp only <;> (repeat' split) <;> rfl
@[simp] theorem State.mem_xlate (s : State) (d fn va : Nat) (acc : Acc) : (s.xlate d fn va acc).2.mem = s.mem := by
  have h := State.mem_leafOf s d fn va
  unfold State.xlate; (repeat' (first | split | (dsimp only; split))) <;> simp_all
@[simp] theorem State.mem_reach (s : State) (d fn va : Nat) (acc : Acc) : (s.reach d fn va acc).2.mem = s.mem := by
  unfold State.reach; dsimp only; split <;> simp
@[simp] theorem State.mem_xlateRun (s : State) (d fn : Nat) (acc : Acc) (va n : Nat) : (s.xlateRun d fn acc va n).2.mem = s.mem := by
  induction n generalizing s va with
  | zero => rfl
  | succ n ih =>
    have h := State.mem_reach s d fn va acc
    unfold State.xlateRun
    split <;> rename_i e <;> rw [e] at h
    · rename_i k s1
      have h2 := ih s1 (va + 1)
      split <;> rename_i e2 <;> rw [e2] at h2 <;> exact h2.trans h
    · exact h
    · exact h
@[simp] theorem State.mem_askLines (s : State) (fn : Nat) (ls : List Nat) : (s.askLines fn ls).mem = s.mem := by
  induction ls generalizing s with
  | nil => rfl
  | cons l ls ih => unfold State.askLines; rw [ih]; split <;> rfl
@[simp] theorem State.mem_dropLines (s : State) (fn : Nat) (ls : List Nat) : (s.dropLines fn ls).mem = s.mem := by
  induction ls generalizing s with
  | nil => rfl
  | cons l ls ih => unfold State.dropLines; rw [ih]; rfl
@[simp] theorem State.mem_gather (s : State) (fn : Nat) (rd : Nat → Byte) (bad : Nat → Bool) (ks : List Nat) :
    (s.gather fn rd bad ks).2.mem = s.mem := by
  unfold State.gather; (repeat' (first | split | (dsimp only; split))) <;> simp
theorem State.mem_takeBurst {s t : State} {lpa : Nat} {w : Bool} (h : s.takeBurst lpa w = some t) : t.mem = s.mem := by
  unfold State.takeBurst at h; simp only [Option.map_eq_some_iff] at h; obtain ⟨p, -, rfl⟩ := h; rfl
@[simp] theorem State.mem_pour (s : State) (w : Bool) (shut bs : List Nat) : (s.pour w shut bs).2.2.mem = s.mem := by
  induction bs generalizing s shut with
  | nil => rfl
  | cons b bs ih =>
    unfold State.pour
    dsimp only
    split
    · rename_i e
      split at e
      · exact absurd e (by simp)
      · exact (ih _ _).trans (State.mem_takeBurst e)
    · exact ih _ _
@[simp] theorem State.mem_takeBursts (s : State) (w : Bool) (ks : List Nat) : (s.takeBursts w ks).2.mem = s.mem := by
  unfold State.takeBursts
  split
  · rfl
  · split
    · split <;> rfl
    · rename_i b bs _ _ _
      have h := State.mem_pour s w (s.fab.calls.flatMap s.callPumps) (b :: bs)
      split <;> rename_i e <;> rw [e] at h <;> exact h
@[simp] theorem State.mem_vaRead (s : State) (d fn va n : Nat) : (s.vaRead d fn va n).2.mem = s.mem := by
  have h := State.mem_xlateRun s d fn .read va n
  unfold State.vaRead
  split
  · rename_i e; rw [e] at h; exact h
  · rename_i e; rw [e] at h; exact h
  · rename_i ks s1 e
    rw [e] at h
    have h1 := State.mem_gather s1 fn s1.byte s1.poisoned ks
    split
    · rename_i e1; rw [e1] at h1; exact h1.trans h
    · rename_i e1; rw [e1] at h1; exact h1.trans h
    · rename_i e1
      rw [e1] at h1
      have h2 := State.mem_takeBursts ‹State› false ks
      split <;> rename_i e2 <;> rw [e2] at h2 <;> exact h2.trans (h1.trans h)
@[simp] theorem State.memOk_vaWrite {s : State} (h : s.memOk) (d fn va : Nat) (bs : List Byte) : (s.vaWrite d fn va bs).2.memOk := by
  have e := State.mem_xlateRun s d fn .write va bs.length
  unfold State.vaWrite
  split
  · rename_i e1; rw [e1] at e; exact State.memOk_of_mem h e
  · rename_i e1; rw [e1] at e; exact State.memOk_of_mem h e
  · rename_i ks s1 e1
    rw [e1] at e
    have h2 := State.mem_takeBursts s1 true ks
    split <;> rename_i e2 <;> rw [e2] at h2
    · exact State.memOk_of_mem h (h2.trans e)
    · have h1 := State.memOk_putCells (State.memOk_of_mem h (h2.trans e)) (ks.zip bs)
      split <;> rename_i e3 <;> rw [e3] at h1 <;> exact h1
@[simp] theorem State.mem_readVA (s : State) (fn va n : Nat) : (s.readVA fn va n).2.mem = s.mem := State.mem_vaRead s 0 fn va n
@[simp] theorem State.memOk_writeVA {s : State} (h : s.memOk) (fn va : Nat) (bs : List Byte) : (s.writeVA fn va bs).2.memOk :=
  State.memOk_vaWrite h 0 fn va bs

/-! ### The dispatcher's jobs -/

@[simp] theorem State.mem_pageListAny (s : State) (fn va n : Nat) : (s.pageListAny fn va n).2.mem = s.mem := by
  induction n generalizing s va with
  | zero => rfl
  | succ n ih =>
    have h := State.mem_readVA s fn va 8
    unfold State.pageListAny
    split <;> rename_i e <;> rw [e] at h
    · exact h
    · exact (ih _ _).trans h
    · rename_i bs s1
      have h1 := ih s1 (va + 8)
      split <;> rename_i e1 <;> rw [e1] at h1 <;> exact h1.trans h
@[simp] theorem State.memOk_doJob {s : State} (h : s.memOk) (j : DJob) : (s.doJob j).2.memOk := by
  unfold State.doJob
  split
  · rename_i fn va n
    have e := State.mem_pageListAny s fn va n
    split <;> rename_i e1 <;> rw [e1] at e
    · exact State.memOk_of_mem h ((State.mem_of_frame (State.frame_lowerRefs _ _)).trans e)
    · exact State.memOk_of_mem h e
  · rename_i fn va bs
    have h1 := State.memOk_writeVA h fn va bs
    split <;> rename_i e1 <;> rw [e1] at h1 <;> exact h1
  · rename_i fn va w
    have h1 := State.memOk_writeVA h fn va (bytesLE 8 w)
    split <;> rename_i e1 <;> rw [e1] at h1 <;> exact h1
@[simp] theorem State.memOk_doJobs {s : State} (h : s.memOk) (js : List DJob) : (s.doJobs js).memOk := by
  induction js generalizing s with
  | nil => exact h
  | cons j js ih =>
    have h1 := State.memOk_doJob h j
    unfold State.doJobs
    split <;> rename_i e <;> rw [e] at h1
    · exact ih h1
    · exact h1
@[simp] theorem State.memOk_submit {s : State} (h : s.memOk) (j : DJob) : (s.submit j).memOk := State.memOk_doJobs h _
@[simp] theorem State.memOk_releaseRefs {s : State} (h : s.memOk) (key : Nat) : (s.releaseRefs key).memOk := by
  unfold State.releaseRefs
  split
  · split
    · exact State.memOk_submit (s := s.setTask key _) h _
    · exact h
  · exact h

/-! ### Stopping, killing and trapping keep the canonical form -/

theorem State.mem_breakGrafts (s : State) (c k : Nat) (qs : List (Nat × Queue)) : (s.breakGrafts c k qs).mem = s.mem := by
  induction qs generalizing s with
  | nil => rfl
  | cons q qs ih =>
    unfold State.breakGrafts
    refine (ih _).trans ?_
    have hb : ∀ (u : State) (a b d : Nat), (u.breakSource a b d).mem = u.mem := fun u a b d =>
      State.mem_of_frame (State.frame_drainGraft _ _ _ _ _)
    (repeat' (first | split | (dsimp only; split))) <;> first | rfl | (rw [hb]; rfl)
@[simp] theorem State.mem_stop (s : State) (c k : Nat) : (s.stop c k).mem = s.mem := by
  have h1 := State.mem_breakGrafts s c k (s.strand c k).queues
  have h2 := State.mem_of_frame (State.frame_dropRow (s.breakGrafts c k (s.strand c k).queues) c k)
  unfold State.stop
  dsimp only
  exact (State.mem_of_frame (State.frame_idle _ c k)).trans (h2.trans h1)
@[simp] theorem State.mem_stopPanel (s : State) (ps : List (Nat × Nat × PStatus)) : (s.stopPanel ps).mem = s.mem := by
  induction ps generalizing s with
  | nil => rfl
  | cons p ps ih =>
    obtain ⟨c, k, st⟩ := p
    unfold State.stopPanel
    refine (ih _).trans ?_
    split <;> simp
@[simp] theorem State.mem_leavePanel (s : State) (key : Nat) : (s.leavePanel key).mem = s.mem := by
  unfold State.leavePanel
  split
  · exact (State.mem_of_frame (State.frame_freeTargets _ _)).trans
      ((State.mem_of_frame (State.frame_breakAways _ _ _)).trans (State.mem_stopPanel s _))
  · rfl
@[simp] theorem State.memOk_notifyWord {s : State} (h : s.memOk) (fn notify off event cause id : Nat) (p : Bool) :
    (s.notifyWord fn notify off event cause id p).memOk := by
  unfold State.notifyWord
  split
  · exact h
  · exact State.memOk_submit h _
@[simp] theorem State.memOk_finalWord {s : State} (h : s.memOk) (key event cause : Nat) : (s.finalWord key event cause).memOk := by
  unfold State.finalWord
  split
  · split
    · exact h
    · exact State.memOk_notifyWord (s := s.setTask key _) h _ _ _ _ _ _ _
  · exact h
@[simp] theorem State.memOk_kill {s : State} (h : s.memOk) (fn idx : Nat) (k : KillInfo) : (s.kill fn idx k).memOk := by
  unfold State.kill
  dsimp only
  split
  · split
    · exact h
    · refine State.memOk_of_frame (State.memOk_finalWord (State.memOk_submit (State.memOk_releaseRefs (State.memOk_of_mem h ?_) _) _) _ _ _)
        (State.frame_retire _ _)
      exact (State.mem_of_frame (State.frame_satisfy _ _ _ _)).trans (State.mem_leavePanel s _)
  · exact h
@[simp] theorem State.memOk_takeTrap {s : State} (h : s.memOk) (c k : Nat) (t : Trap) (r : Dword) (hent endp : Bool) :
    (s.takeTrap c k t r hent endp).memOk := by
  unfold State.takeTrap
  dsimp only
  split
  · exact State.memOk_kill h _ _ _
  · split
    · exact State.memOk_kill h _ _ _
    · exact State.memOk_of_frame h (State.frame_trace s c k 4 _)
@[simp] theorem State.memOk_faultInPlace {s : State} (h : s.memOk) (c k : Nat) (t : Trap) : (s.faultInPlace c k t).memOk := by
  unfold State.faultInPlace
  dsimp only
  split <;> exact State.memOk_takeTrap (by exact h) _ _ _ _ _ _

/-- A syllable whose effect keeps the canonical form keeps it when it issues, faults or is held. -/
theorem issueOne_memOk {i : Instr} {eff : State → State} {s t : State} (he : ∀ u : State, u.memOk → (eff u).memOk) (h : s.memOk)
    (e : issueOne i eff s = .next t) : t.memOk := by
  unfold issueOne at e
  split at e
  · cases e; exact he s h
  · split at e
    · dsimp only at e
      split at e <;> cases e
      · exact State.memOk_faultInPlace h _ _ _
      · exact h
      · exact State.memOk_of_frame (he _ (State.memOk_of_frame h (State.frame_begin s _ _ _))) (State.frame_retireBundle _ _ _ _)
    · cases e; exact h

/-! ### Taking a trap -/

/-- At trap level 0 or 1, where the object has an entry of the next level, the strand goes on there: the bank, the level, PC and the delay
sequence are the trap's (R345). -/
theorem State.takeTrap_ctx (s : State) (c k : Nat) (t : Trap) (r : Dword) (hent endp : Bool) (pc : Nat) (hl : (s.strand c k).ctx.tl ≠ 2)
    (hp : (Table.get? s.codes (s.strand c k).place.code).bind (fun o => o.trapEntry ((s.strand c k).ctx.tl + 1)) = some pc) :
    (s.takeTrap c k t r hent endp).strand c k =
      { (s.strand c k) with
        ctx := { (s.strand c k).ctx with
          pc := pc, seq := none, tl := (s.strand c k).ctx.tl + 1,
          banks := Table.set (s.strand c k).ctx.banks ((s.strand c k).ctx.tl + 1)
            { cause := causeWord t hent endp, ret := r, addr := t.addr, aux := t.aux } },
        flow := { (s.strand c k).flow with
          handler := Table.set (s.strand c k).flow.handler ((s.strand c k).ctx.tl + 1) pc, blocked := 0, atEdge := false, life := .running,
          shape := none, fills := [], checked := false }
        regions := (s.strand c k).regions.map Region.unline } := by
  have ht : ∀ p, (s.trace c k 4 p).strand c k = s.strand c k := by
    intro p; unfold State.trace; dsimp only; split
    · unfold State.strand; rw [State.core_setCore]; simp [Core.strand]
    · rfl
  unfold State.takeTrap
  simp [hl, hp, State.modStrand, State.strand_setStrand, ht]

/-- Every other strand of a trap that is taken, and all but the core, is as before but for the trace (R345). -/
theorem State.takeTrap_frame (s : State) (c k : Nat) (t : Trap) (r : Dword) (hent endp : Bool) (pc : Nat) (hl : (s.strand c k).ctx.tl ≠ 2)
    (hp : (Table.get? s.codes (s.strand c k).place.code).bind (fun o => o.trapEntry ((s.strand c k).ctx.tl + 1)) = some pc) :
    (s.takeTrap c k t r hent endp).frame = s.frame := by
  unfold State.takeTrap
  simp [hl, hp]

/-! ### Stores and loop entries -/

theorem State.frame_foldl {α : Type} (f : State → α → State) (hf : ∀ s a, (f s a).frame = s.frame) (s : State) (l : List α) :
    (l.foldl f s).frame = s.frame := by
  induction l generalizing s with
  | nil => rfl
  | cons a l ih => exact (ih _).trans (hf _ _)
@[simp] theorem State.frame_markDirty (s : State) (c k bno a n : Nat) : (s.markDirty c k bno a n).frame = s.frame := by
  unfold State.markDirty; refine State.frame_foldl _ (fun s1 b => ?_) _ _; rfl
@[simp] theorem State.frame_storeEff (w : Bool) (i : Instr) (f : Fields) (s : State) : (storeEff w i f s).frame = s.frame := by
  unfold storeEff; dsimp only; split <;> simp
@[simp] theorem State.frame_withdraw (s : State) (key : Nat) : (s.withdraw key).frame = s.frame := by
  unfold State.withdraw; split
  · split
    · refine (State.frame_setTask _ _ _).trans (State.frame_foldl _ (fun s a => ?_) _ _)
      split <;> rfl
    · rfl
  · rfl
@[simp] theorem State.frame_putLse (s : State) (n : Nat) (w : Dword) : (s.putLse n w).frame = s.frame := by
  unfold State.putLse; dsimp only; split <;> simp
@[simp] theorem State.frame_loopEff (i : Instr) (f : Fields) (s : State) : (loopEff i f s).frame = s.frame := by
  unfold loopEff; dsimp only; (repeat' split) <;> simp
@[simp] theorem State.frame_lendEff (f : Fields) (s : State) : (lendEff f s).frame = s.frame := by
  unfold lendEff; dsimp only; (repeat' split) <;> simp
@[simp] theorem State.frame_swrEff (f : Fields) (s : State) : (swrEff f s).frame = s.frame := by
  unfold swrEff; dsimp only; (repeat' split) <;> simp
@[simp] theorem State.frame_endEff (s : State) : (endEff s).frame = s.frame := by unfold endEff; simp

/-! ### The end of an engine operation -/

@[simp] theorem State.frame_endOne (s : State) (o : Nat) (e : EngOp) (ok : Bool) : (s.endOne o e ok).frame = s.frame := by
  unfold State.endOne
  dsimp only
  split
  · exact State.frame_trace _ _ _ _ _
  · exact (State.frame_reopen _ _).trans ((State.frame_orphans _ _ _).trans (State.frame_trace _ _ _ _ _))
@[simp] theorem State.frame_spreadFail (s : State) (n : Nat) : (s.spreadFail n).frame = s.frame := by
  induction n generalizing s with
  | zero => rfl
  | succ n ih =>
    unfold State.spreadFail
    split
    · exact (ih _).trans (State.frame_endOne _ _ _ _)
    · rfl
@[simp] theorem State.frame_endOp (s : State) (o : Nat) (ok : Bool) : (s.endOp o ok).frame = s.frame := by
  unfold State.endOp
  split <;> simp
@[simp] theorem State.frame_failOp (s : State) (o : Nat) (t : Trap) : (s.failOp o t).frame = s.frame := by
  unfold State.failOp
  split <;> simp

/-- An operation that is no longer outstanding does not end again. -/
theorem State.op_endOp_none (s : State) (o : Nat) (ok : Bool) (h : s.op? o = none) : s.endOp o ok = s := by
  simp [State.endOp, h]

end Sys2Proof.Machine
end

