-- ==== Sys2Proof/Laws/PerInstr.lean ====
section
/-! SUPPORT. The laws stated per instruction. SylOf: the opcode of an instruction fits its ten bits, and in its slot's map it stands for that
instruction wherever the mod field is legal (R60, R68-R76, R88, R197). -/

namespace Sys2Proof.Laws

/-- What SylOf says of an instruction. -/
def SylOf.Statement (i : Instr) : Prop :=
  ∀ sl op f, i.opcode = some (sl, op) → i.fields = some f → Machine.modOk i f.mod.toNat = true → op < 2 ^ 10 ∧ sylOf sl op f = some i

theorem sylOf_intro {i : Instr} {sl : Slot} {op : Nat} {f : Fields} (ho : i.opcode = some (sl, op)) (hf : i.fields = some f)
    (hb : op < 2 ^ 10) (hd : Machine.modOk i f.mod.toNat = true → sylOf sl op f = some i) : SylOf.Statement i := by
  intro sl' op' f' ho' hf' hm
  rw [ho] at ho'; rw [hf] at hf'
  cases ho'; cases hf'
  exact ⟨hb, hd hm⟩

theorem sylOf_none {i : Instr} (ho : i.opcode = none) : SylOf.Statement i := by
  intro sl op f h
  rw [ho] at h; cases h

theorem sylLoop_loop {f : Fields} (m : Machine.modOk (.loop f) f.mod.toNat = true) : sylOf .s 0xC5 f = some (.loop f) := by
  have h : f.m 3 2 = 0 := by simp [Machine.modOk] at m; exact m.2
  simp [sylOf, sylS, sylLoop, h]

theorem sylLoop_loopSp {f : Fields} (m : Machine.modOk (.loopSp f) f.mod.toNat = true) : sylOf .s 0xC5 f = some (.loopSp f) := by
  have h : f.m 3 2 = 1 := by simp [Machine.modOk] at m; exact m.1
  simp [sylOf, sylS, sylLoop, h]

theorem sylLoop_loopSw {f : Fields} (m : Machine.modOk (.loopSw f) f.mod.toNat = true) : sylOf .s 0xC5 f = some (.loopSw f) := by
  have h : f.m 3 2 = 2 := by simp [Machine.modOk] at m; exact m.1
  simp [sylOf, sylS, sylLoop, h]

theorem sylLoop_loopTask {f : Fields} (m : Machine.modOk (.loopTask f) f.mod.toNat = true) : sylOf .s 0xC5 f = some (.loopTask f) := by
  have h : f.m 3 2 = 3 := by simp [Machine.modOk] at m; exact m.1
  simp [sylOf, sylS, sylLoop, h]

theorem sylTrace_traceOn {f : Fields} (m : Machine.modOk (.traceOn f) f.mod.toNat = true) : sylOf .x 0x38 f = some (.traceOn f) := by
  have h : f.m 0 2 = 0 := by simp [Machine.modOk] at m; simp [Fields.m, m, Machine.fld]
  simp [sylOf, sylX, sylTrace, h]

theorem sylTrace_traceOff {f : Fields} (m : Machine.modOk (.traceOff f) f.mod.toNat = true) : sylOf .x 0x38 f = some (.traceOff f) := by
  have h : f.m 0 2 = 1 := by simp [Machine.modOk] at m; simp [Fields.m, m, Machine.fld]
  simp [sylOf, sylX, sylTrace, h]

theorem sylTrace_traceMark {f : Fields} (m : Machine.modOk (.traceMark f) f.mod.toNat = true) : sylOf .x 0x38 f = some (.traceMark f) := by
  have h : f.m 0 2 = 2 := by simp [Machine.modOk] at m; simp [Fields.m, m, Machine.fld]
  simp [sylOf, sylX, sylTrace, h]

theorem sylTrace_traceArm {f : Fields} (m : Machine.modOk (.traceArm f) f.mod.toNat = true) : sylOf .x 0x38 f = some (.traceArm f) := by
  have h : f.m 0 2 = 3 := by simp [Machine.modOk] at m; simp [Fields.m, m, Machine.fld]
  simp [sylOf, sylX, sylTrace, h]

namespace SylOf

theorem emptyBundle (yield : Bool) : Statement (.emptyBundle yield) := sylOf_none rfl
theorem runLimit (core : Nat) : Statement (.runLimit core) := sylOf_none rfl
theorem waitLimitExpiry (core : Nat) (strand : Nat) : Statement (.waitLimitExpiry core strand) := sylOf_none rfl
theorem waitExpiry (core : Nat) (strand : Nat) : Statement (.waitExpiry core strand) := sylOf_none rfl
theorem budgetFault (core : Nat) (strand : Nat) : Statement (.budgetFault core strand) := sylOf_none rfl
theorem takeTrap (core : Nat) (strand : Nat) (t : Trap) : Statement (.takeTrap core strand t) := sylOf_none rfl
theorem deferredFaultTaken (core : Nat) (strand : Nat) : Statement (.deferredFaultTaken core strand) := sylOf_none rfl
theorem kill (fn : Nat) (task : Nat) (k : KillInfo) : Statement (.kill fn task k) := sylOf_none rfl
theorem nop (f : Fields) : Statement (.nop f) := sylOf_intro rfl rfl (by decide) (fun _ => rfl)
theorem add (w64 : Bool) (f : Fields) : Statement (.add w64 f) := by cases w64 <;> exact sylOf_intro rfl rfl (by decide) (fun _ => rfl)
theorem sub (w64 : Bool) (f : Fields) : Statement (.sub w64 f) := by cases w64 <;> exact sylOf_intro rfl rfl (by decide) (fun _ => rfl)
theorem mul (w64 : Bool) (f : Fields) : Statement (.mul w64 f) := by cases w64 <;> exact sylOf_intro rfl rfl (by decide) (fun _ => rfl)
theorem mulhs (w64 : Bool) (f : Fields) : Statement (.mulhs w64 f) := by cases w64 <;> exact sylOf_intro rfl rfl (by decide) (fun _ => rfl)
theorem mulhu (w64 : Bool) (f : Fields) : Statement (.mulhu w64 f) := by cases w64 <;> exact sylOf_intro rfl rfl (by decide) (fun _ => rfl)
theorem div (w64 : Bool) (f : Fields) : Statement (.div w64 f) := by cases w64 <;> exact sylOf_intro rfl rfl (by decide) (fun _ => rfl)
theorem divu (w64 : Bool) (f : Fields) : Statement (.divu w64 f) := by cases w64 <;> exact sylOf_intro rfl rfl (by decide) (fun _ => rfl)
theorem rem (w64 : Bool) (f : Fields) : Statement (.rem w64 f) := by cases w64 <;> exact sylOf_intro rfl rfl (by decide) (fun _ => rfl)
theorem remu (w64 : Bool) (f : Fields) : Statement (.remu w64 f) := by cases w64 <;> exact sylOf_intro rfl rfl (by decide) (fun _ => rfl)
theorem shl (w64 : Bool) (f : Fields) : Statement (.shl w64 f) := by cases w64 <;> exact sylOf_intro rfl rfl (by decide) (fun _ => rfl)
theorem shr (w64 : Bool) (f : Fields) : Statement (.shr w64 f) := by cases w64 <;> exact sylOf_intro rfl rfl (by decide) (fun _ => rfl)
theorem sar (w64 : Bool) (f : Fields) : Statement (.sar w64 f) := by cases w64 <;> exact sylOf_intro rfl rfl (by decide) (fun _ => rfl)
theorem and (f : Fields) : Statement (.and f) := sylOf_intro rfl rfl (by decide) (fun _ => rfl)
theorem or (f : Fields) : Statement (.or f) := sylOf_intro rfl rfl (by decide) (fun _ => rfl)
theorem xor (f : Fields) : Statement (.xor f) := sylOf_intro rfl rfl (by decide) (fun _ => rfl)
theorem andn (f : Fields) : Statement (.andn f) := sylOf_intro rfl rfl (by decide) (fun _ => rfl)
theorem min (f : Fields) : Statement (.min f) := sylOf_intro rfl rfl (by decide) (fun _ => rfl)
theorem max (f : Fields) : Statement (.max f) := sylOf_intro rfl rfl (by decide) (fun _ => rfl)
theorem minu (f : Fields) : Statement (.minu f) := sylOf_intro rfl rfl (by decide) (fun _ => rfl)
theorem maxu (f : Fields) : Statement (.maxu f) := sylOf_intro rfl rfl (by decide) (fun _ => rfl)
theorem clz (f : Fields) : Statement (.clz f) := sylOf_intro rfl rfl (by decide) (fun _ => rfl)
theorem popc (f : Fields) : Statement (.popc f) := sylOf_intro rfl rfl (by decide) (fun _ => rfl)
theorem sext (f : Fields) : Statement (.sext f) := sylOf_intro rfl rfl (by decide) (fun _ => rfl)
theorem zext (f : Fields) : Statement (.zext f) := sylOf_intro rfl rfl (by decide) (fun _ => rfl)
theorem li (f : Fields) : Statement (.li f) := sylOf_intro rfl rfl (by decide) (fun _ => rfl)
theorem movq (f : Fields) : Statement (.movq f) := sylOf_intro rfl rfl (by decide) (fun _ => rfl)
theorem dup (f : Fields) : Statement (.dup f) := sylOf_intro rfl rfl (by decide) (fun _ => rfl)
theorem drop (f : Fields) : Statement (.drop f) := sylOf_intro rfl rfl (by decide) (fun _ => rfl)
theorem qlen (f : Fields) : Statement (.qlen f) := sylOf_intro rfl rfl (by decide) (fun _ => rfl)
theorem cmp (cc : Cc) (f : Fields) : Statement (.cmp cc f) := by cases cc <;> exact sylOf_intro rfl rfl (by decide) (fun _ => rfl)
theorem sel (f : Fields) : Statement (.sel f) := sylOf_intro rfl rfl (by decide) (fun _ => rfl)
theorem ptg (f : Fields) : Statement (.ptg f) := sylOf_intro rfl rfl (by decide) (fun _ => rfl)
theorem br (f : Fields) : Statement (.br f) := sylOf_intro rfl rfl (by decide) (fun _ => rfl)
theorem brc (f : Fields) : Statement (.brc f) := sylOf_intro rfl rfl (by decide) (fun _ => rfl)
theorem call (f : Fields) : Statement (.call f) := sylOf_intro rfl rfl (by decide) (fun _ => rfl)
theorem ret (f : Fields) : Statement (.ret f) := sylOf_intro rfl rfl (by decide) (fun _ => rfl)
theorem loop (f : Fields) : Statement (.loop f) := sylOf_intro rfl rfl (by decide) sylLoop_loop
theorem loopSp (f : Fields) : Statement (.loopSp f) := sylOf_intro rfl rfl (by decide) sylLoop_loopSp
theorem loopSw (f : Fields) : Statement (.loopSw f) := sylOf_intro rfl rfl (by decide) sylLoop_loopSw
theorem loopTask (f : Fields) : Statement (.loopTask f) := sylOf_intro rfl rfl (by decide) sylLoop_loopTask
theorem shapeFetchReturn (core : Nat) (strand : Nat) : Statement (.shapeFetchReturn core strand) := sylOf_none rfl
theorem lend (f : Fields) : Statement (.lend f) := sylOf_intro rfl rfl (by decide) (fun _ => rfl)
theorem vany (f : Fields) : Statement (.vany f) := sylOf_intro rfl rfl (by decide) (fun _ => rfl)
theorem vall (f : Fields) : Statement (.vall f) := sylOf_intro rfl rfl (by decide) (fun _ => rfl)
theorem ktest (f : Fields) : Statement (.ktest f) := sylOf_intro rfl rfl (by decide) (fun _ => rfl)
theorem kwait (f : Fields) : Statement (.kwait f) := sylOf_intro rfl rfl (by decide) (fun _ => rfl)
theorem qwait (f : Fields) : Statement (.qwait f) := sylOf_intro rfl rfl (by decide) (fun _ => rfl)
theorem trap (f : Fields) : Statement (.trap f) := sylOf_intro rfl rfl (by decide) (fun _ => rfl)
theorem eret (f : Fields) : Statement (.eret f) := sylOf_intro rfl rfl (by decide) (fun _ => rfl)
theorem srd (f : Fields) : Statement (.srd f) := sylOf_intro rfl rfl (by decide) (fun _ => rfl)
theorem swr (f : Fields) : Statement (.swr f) := sylOf_intro rfl rfl (by decide) (fun _ => rfl)
theorem phase (f : Fields) : Statement (.phase f) := sylOf_intro rfl rfl (by decide) (fun _ => rfl)
theorem trig (f : Fields) : Statement (.trig f) := sylOf_intro rfl rfl (by decide) (fun _ => rfl)
theorem endStrand (f : Fields) : Statement (.endStrand f) := sylOf_intro rfl rfl (by decide) (fun _ => rfl)
theorem ldp (f : Fields) : Statement (.ldp f) := sylOf_intro rfl rfl (by decide) (fun _ => rfl)
theorem ldw (f : Fields) : Statement (.ldw f) := sylOf_intro rfl rfl (by decide) (fun _ => rfl)
theorem stp (f : Fields) : Statement (.stp f) := sylOf_intro rfl rfl (by decide) (fun _ => rfl)
theorem stw (f : Fields) : Statement (.stw f) := sylOf_intro rfl rfl (by decide) (fun _ => rfl)
theorem ldpv (f : Fields) : Statement (.ldpv f) := sylOf_intro rfl rfl (by decide) (fun _ => rfl)
theorem ldwv (f : Fields) : Statement (.ldwv f) := sylOf_intro rfl rfl (by decide) (fun _ => rfl)
theorem stpv (f : Fields) : Statement (.stpv f) := sylOf_intro rfl rfl (by decide) (fun _ => rfl)
theorem stwv (f : Fields) : Statement (.stwv f) := sylOf_intro rfl rfl (by decide) (fun _ => rfl)
theorem ldps (f : Fields) : Statement (.ldps f) := sylOf_intro rfl rfl (by decide) (fun _ => rfl)
theorem ldwg (f : Fields) : Statement (.ldwg f) := sylOf_intro rfl rfl (by decide) (fun _ => rfl)
theorem stwx (f : Fields) : Statement (.stwx f) := sylOf_intro rfl rfl (by decide) (fun _ => rfl)
theorem slotWrite (core : Nat) (id : Nat) : Statement (.slotWrite core id) := sylOf_none rfl
theorem storePerformed (core : Nat) (id : Nat) : Statement (.storePerformed core id) := sylOf_none rfl
theorem vaultTouch (core : Nat) (id : Nat) : Statement (.vaultTouch core id) := sylOf_none rfl
theorem regionFill (core : Nat) (strand : Nat) (region : Nat) (block : Nat) : Statement (.regionFill core strand region block) := sylOf_none rfl
theorem fadd (t : FFmt) (f : Fields) : Statement (.fadd t f) := by cases t <;> exact sylOf_intro rfl rfl (by decide) (fun _ => rfl)
theorem fsub (t : FFmt) (f : Fields) : Statement (.fsub t f) := by cases t <;> exact sylOf_intro rfl rfl (by decide) (fun _ => rfl)
theorem fmul (t : FFmt) (f : Fields) : Statement (.fmul t f) := by cases t <;> exact sylOf_intro rfl rfl (by decide) (fun _ => rfl)
theorem ffma (t : FFmt) (f : Fields) : Statement (.ffma t f) := by cases t <;> exact sylOf_intro rfl rfl (by decide) (fun _ => rfl)
theorem ffms (t : FFmt) (f : Fields) : Statement (.ffms t f) := by cases t <;> exact sylOf_intro rfl rfl (by decide) (fun _ => rfl)
theorem fnma (t : FFmt) (f : Fields) : Statement (.fnma t f) := by cases t <;> exact sylOf_intro rfl rfl (by decide) (fun _ => rfl)
theorem fmin (t : FFmt) (f : Fields) : Statement (.fmin t f) := by cases t <;> exact sylOf_intro rfl rfl (by decide) (fun _ => rfl)
theorem fmax (t : FFmt) (f : Fields) : Statement (.fmax t f) := by cases t <;> exact sylOf_intro rfl rfl (by decide) (fun _ => rfl)
theorem fabs (t : FFmt) (f : Fields) : Statement (.fabs t f) := by cases t <;> exact sylOf_intro rfl rfl (by decide) (fun _ => rfl)
theorem fneg (t : FFmt) (f : Fields) : Statement (.fneg t f) := by cases t <;> exact sylOf_intro rfl rfl (by decide) (fun _ => rfl)
theorem fdiv (t : FFmt) (f : Fields) : Statement (.fdiv t f) := by cases t <;> exact sylOf_intro rfl rfl (by decide) (fun _ => rfl)
theorem fsqrt (t : FFmt) (f : Fields) : Statement (.fsqrt t f) := by cases t <;> exact sylOf_intro rfl rfl (by decide) (fun _ => rfl)
theorem frcp (t : FFmt) (f : Fields) : Statement (.frcp t f) := by cases t <;> exact sylOf_intro rfl rfl (by decide) (fun _ => rfl)
theorem frsq (t : FFmt) (f : Fields) : Statement (.frsq t f) := by cases t <;> exact sylOf_intro rfl rfl (by decide) (fun _ => rfl)
theorem fexp2 (t : FFmt) (f : Fields) : Statement (.fexp2 t f) := by cases t <;> exact sylOf_intro rfl rfl (by decide) (fun _ => rfl)
theorem flog2 (t : FFmt) (f : Fields) : Statement (.flog2 t f) := by cases t <;> exact sylOf_intro rfl rfl (by decide) (fun _ => rfl)
theorem fcmp (t : FFmt) (f : Fields) : Statement (.fcmp t f) := by cases t <;> exact sylOf_intro rfl rfl (by decide) (fun _ => rfl)
theorem fclass (t : FFmt) (f : Fields) : Statement (.fclass t f) := by cases t <;> exact sylOf_intro rfl rfl (by decide) (fun _ => rfl)
theorem iadd (t : ITy) (f : Fields) : Statement (.iadd t f) := by cases t <;> exact sylOf_intro rfl rfl (by decide) (fun _ => rfl)
theorem isub (t : ITy) (f : Fields) : Statement (.isub t f) := by cases t <;> exact sylOf_intro rfl rfl (by decide) (fun _ => rfl)
theorem imul (t : ITy) (f : Fields) : Statement (.imul t f) := by cases t <;> exact sylOf_intro rfl rfl (by decide) (fun _ => rfl)
theorem imulh (t : ITy) (f : Fields) : Statement (.imulh t f) := by cases t <;> exact sylOf_intro rfl rfl (by decide) (fun _ => rfl)
theorem imad (t : ITy) (f : Fields) : Statement (.imad t f) := by cases t <;> exact sylOf_intro rfl rfl (by decide) (fun _ => rfl)
theorem iand (t : ITy) (f : Fields) : Statement (.iand t f) := by cases t <;> exact sylOf_intro rfl rfl (by decide) (fun _ => rfl)
theorem ior (t : ITy) (f : Fields) : Statement (.ior t f) := by cases t <;> exact sylOf_intro rfl rfl (by decide) (fun _ => rfl)
theorem ixor (t : ITy) (f : Fields) : Statement (.ixor t f) := by cases t <;> exact sylOf_intro rfl rfl (by decide) (fun _ => rfl)
theorem ishl (t : ITy) (f : Fields) : Statement (.ishl t f) := by cases t <;> exact sylOf_intro rfl rfl (by decide) (fun _ => rfl)
theorem ishr (t : ITy) (f : Fields) : Statement (.ishr t f) := by cases t <;> exact sylOf_intro rfl rfl (by decide) (fun _ => rfl)
theorem isar (t : ITy) (f : Fields) : Statement (.isar t f) := by cases t <;> exact sylOf_intro rfl rfl (by decide) (fun _ => rfl)
theorem imin (t : ITy) (f : Fields) : Statement (.imin t f) := by cases t <;> exact sylOf_intro rfl rfl (by decide) (fun _ => rfl)
theorem imax (t : ITy) (f : Fields) : Statement (.imax t f) := by cases t <;> exact sylOf_intro rfl rfl (by decide) (fun _ => rfl)
theorem icmp (t : ITy) (f : Fields) : Statement (.icmp t f) := by cases t <;> exact sylOf_intro rfl rfl (by decide) (fun _ => rfl)
theorem cvt (f : Fields) : Statement (.cvt f) := sylOf_intro rfl rfl (by decide) (fun _ => rfl)
theorem cvtn (f : Fields) : Statement (.cvtn f) := sylOf_intro rfl rfl (by decide) (fun _ => rfl)
theorem pack (f : Fields) : Statement (.pack f) := sylOf_intro rfl rfl (by decide) (fun _ => rfl)
theorem unpack (f : Fields) : Statement (.unpack f) := sylOf_intro rfl rfl (by decide) (fun _ => rfl)
theorem vsel (f : Fields) : Statement (.vsel f) := sylOf_intro rfl rfl (by decide) (fun _ => rfl)
theorem vbcast (f : Fields) : Statement (.vbcast f) := sylOf_intro rfl rfl (by decide) (fun _ => rfl)
theorem vperm (f : Fields) : Statement (.vperm f) := sylOf_intro rfl rfl (by decide) (fun _ => rfl)
theorem vshuf (f : Fields) : Statement (.vshuf f) := sylOf_intro rfl rfl (by decide) (fun _ => rfl)
theorem vrot (f : Fields) : Statement (.vrot f) := sylOf_intro rfl rfl (by decide) (fun _ => rfl)
theorem vext (f : Fields) : Statement (.vext f) := sylOf_intro rfl rfl (by decide) (fun _ => rfl)
theorem vins (f : Fields) : Statement (.vins f) := sylOf_intro rfl rfl (by decide) (fun _ => rfl)
theorem vrsum (f : Fields) : Statement (.vrsum f) := sylOf_intro rfl rfl (by decide) (fun _ => rfl)
theorem vrmax (f : Fields) : Statement (.vrmax f) := sylOf_intro rfl rfl (by decide) (fun _ => rfl)
theorem vrmin (f : Fields) : Statement (.vrmin f) := sylOf_intro rfl rfl (by decide) (fun _ => rfl)
theorem vscan (f : Fields) : Statement (.vscan f) := sylOf_intro rfl rfl (by decide) (fun _ => rfl)
theorem mand (f : Fields) : Statement (.mand f) := sylOf_intro rfl rfl (by decide) (fun _ => rfl)
theorem mor (f : Fields) : Statement (.mor f) := sylOf_intro rfl rfl (by decide) (fun _ => rfl)
theorem mnot (f : Fields) : Statement (.mnot f) := sylOf_intro rfl rfl (by decide) (fun _ => rfl)
theorem mpopc (f : Fields) : Statement (.mpopc f) := sylOf_intro rfl rfl (by decide) (fun _ => rfl)
theorem mma (u : MUnit) (t : MFmt) (f : Fields) : Statement (.mma u t f) := by cases u <;> cases t <;> exact sylOf_intro rfl rfl (by decide) (fun _ => rfl)
theorem mmaz (u : MUnit) (t : MFmt) (f : Fields) : Statement (.mmaz u t f) := by cases u <;> cases t <;> exact sylOf_intro rfl rfl (by decide) (fun _ => rfl)
theorem mzero (u : MUnit) (f : Fields) : Statement (.mzero u f) := by cases u <;> exact sylOf_intro rfl rfl (by decide) (fun _ => rfl)
theorem mdrain (u : MUnit) (f : Fields) : Statement (.mdrain u f) := by cases u <;> exact sylOf_intro rfl rfl (by decide) (fun _ => rfl)
theorem maccl (u : MUnit) (f : Fields) : Statement (.maccl u f) := by cases u <;> exact sylOf_intro rfl rfl (by decide) (fun _ => rfl)
theorem maccs (u : MUnit) (f : Fields) : Statement (.maccs u f) := by cases u <;> exact sylOf_intro rfl rfl (by decide) (fun _ => rfl)
theorem mfmt (u : MUnit) (f : Fields) : Statement (.mfmt u f) := by cases u <;> exact sylOf_intro rfl rfl (by decide) (fun _ => rfl)
theorem tileWrite (core : Nat) (id : Nat) (residueBad : Bool) : Statement (.tileWrite core id residueBad) := sylOf_none rfl
theorem macclComplete (core : Nat) (id : Nat) : Statement (.macclComplete core id) := sylOf_none rfl
theorem copy (f : Fields) : Statement (.copy f) := sylOf_intro rfl rfl (by decide) (fun _ => rfl)
theorem copyf (f : Fields) : Statement (.copyf f) := sylOf_intro rfl rfl (by decide) (fun _ => rfl)
theorem cpq (f : Fields) : Statement (.cpq f) := sylOf_intro rfl rfl (by decide) (fun _ => rfl)
theorem scata (f : Fields) : Statement (.scata f) := sylOf_intro rfl rfl (by decide) (fun _ => rfl)
theorem skupd (f : Fields) : Statement (.skupd f) := sylOf_intro rfl rfl (by decide) (fun _ => rfl)
theorem skqry (f : Fields) : Statement (.skqry f) := sylOf_intro rfl rfl (by decide) (fun _ => rfl)
theorem skadd (f : Fields) : Statement (.skadd f) := sylOf_intro rfl rfl (by decide) (fun _ => rfl)
theorem skscale (f : Fields) : Statement (.skscale f) := sylOf_intro rfl rfl (by decide) (fun _ => rfl)
theorem skclr (f : Fields) : Statement (.skclr f) := sylOf_intro rfl rfl (by decide) (fun _ => rfl)
theorem pump (f : Fields) : Statement (.pump f) := sylOf_intro rfl rfl (by decide) (fun _ => rfl)
theorem psplit (f : Fields) : Statement (.psplit f) := sylOf_intro rfl rfl (by decide) (fun _ => rfl)
theorem mapr (f : Fields) : Statement (.mapr f) := sylOf_intro rfl rfl (by decide) (fun _ => rfl)
theorem mapreq (f : Fields) : Statement (.mapreq f) := sylOf_intro rfl rfl (by decide) (fun _ => rfl)
theorem kjoin (f : Fields) : Statement (.kjoin f) := sylOf_intro rfl rfl (by decide) (fun _ => rfl)
theorem mldr (f : Fields) : Statement (.mldr f) := sylOf_intro rfl rfl (by decide) (fun _ => rfl)
theorem coll (f : Fields) : Statement (.coll f) := sylOf_intro rfl rfl (by decide) (fun _ => rfl)
theorem engineStart (op : Nat) : Statement (.engineStart op) := sylOf_none rfl
theorem copyChunk (op : Nat) : Statement (.copyChunk op) := sylOf_none rfl
theorem cpqUnit (op : Nat) : Statement (.cpqUnit op) := sylOf_none rfl
theorem scataUpdate (op : Nat) : Statement (.scataUpdate op) := sylOf_none rfl
theorem sketchUpdate (op : Nat) : Statement (.sketchUpdate op) := sylOf_none rfl
theorem engineComplete (op : Nat) : Statement (.engineComplete op) := sylOf_none rfl
theorem engineFail (op : Nat) (t : Trap) : Statement (.engineFail op t) := sylOf_none rfl
theorem regionWriteBack (core : Nat) (strand : Nat) (region : Nat) : Statement (.regionWriteBack core strand region) := sylOf_none rfl
theorem psplitCommit (op : Nat) : Statement (.psplitCommit op) := sylOf_none rfl
theorem stcfg (f : Fields) : Statement (.stcfg f) := sylOf_intro rfl rfl (by decide) (fun _ => rfl)
theorem strun (f : Fields) : Statement (.strun f) := sylOf_intro rfl rfl (by decide) (fun _ => rfl)
theorem ststop (f : Fields) : Statement (.ststop f) := sylOf_intro rfl rfl (by decide) (fun _ => rfl)
theorem stitchLoadEnd (core : Nat) : Statement (.stitchLoadEnd core) := sylOf_none rfl
theorem rowCycle (core : Nat) : Statement (.rowCycle core) := sylOf_none rfl
theorem qdesc (f : Fields) : Statement (.qdesc f) := sylOf_intro rfl rfl (by decide) (fun _ => rfl)
theorem qgraft (f : Fields) : Statement (.qgraft f) := sylOf_intro rfl rfl (by decide) (fun _ => rfl)
theorem qgraftDone (core : Nat) (strand : Nat) : Statement (.qgraftDone core strand) := sylOf_none rfl
theorem qungraft (f : Fields) : Statement (.qungraft f) := sylOf_intro rfl rfl (by decide) (fun _ => rfl)
theorem qungraftDone (core : Nat) (strand : Nat) : Statement (.qungraftDone core strand) := sylOf_none rfl
theorem fdset (f : Fields) : Statement (.fdset f) := sylOf_intro rfl rfl (by decide) (fun _ => rfl)
theorem tspawn (f : Fields) : Statement (.tspawn f) := sylOf_intro rfl rfl (by decide) (fun _ => rfl)
theorem tspawnEntry (core : Nat) (strand : Nat) : Statement (.tspawnEntry core strand) := sylOf_none rfl
theorem tfork (f : Fields) : Statement (.tfork f) := sylOf_intro rfl rfl (by decide) (fun _ => rfl)
theorem tforkStep (core : Nat) (strand : Nat) : Statement (.tforkStep core strand) := sylOf_none rfl
theorem tcancel (f : Fields) : Statement (.tcancel f) := sylOf_intro rfl rfl (by decide) (fun _ => rfl)
theorem bindOffStop (walk : Nat) : Statement (.bindOffStop walk) := sylOf_none rfl
theorem bindOffWalk (walk : Nat) : Statement (.bindOffWalk walk) := sylOf_none rfl
theorem tprio (f : Fields) : Statement (.tprio f) := sylOf_intro rfl rfl (by decide) (fun _ => rfl)
theorem agset (f : Fields) : Statement (.agset f) := sylOf_intro rfl rfl (by decide) (fun _ => rfl)
theorem agsetDone (core : Nat) (strand : Nat) : Statement (.agsetDone core strand) := sylOf_none rfl
theorem traceOn (f : Fields) : Statement (.traceOn f) := sylOf_intro rfl rfl (by decide) sylTrace_traceOn
theorem traceOff (f : Fields) : Statement (.traceOff f) := sylOf_intro rfl rfl (by decide) sylTrace_traceOff
theorem traceMark (f : Fields) : Statement (.traceMark f) := sylOf_intro rfl rfl (by decide) sylTrace_traceMark
theorem traceArm (f : Fields) : Statement (.traceArm f) := sylOf_intro rfl rfl (by decide) sylTrace_traceArm
theorem graftArrival (core : Nat) (id : Nat) : Statement (.graftArrival core id) := sylOf_none rfl
theorem graftCreditReturn (core : Nat) (id : Nat) : Statement (.graftCreditReturn core id) := sylOf_none rfl
theorem programStart (pump : Nat) : Statement (.programStart pump) := sylOf_none rfl
theorem act (pump : Nat) (w : PumpFields) : Statement (.act pump w) := sylOf_none rfl
theorem rd (pump : Nat) (w : PumpFields) : Statement (.rd pump w) := sylOf_none rfl
theorem wr (pump : Nat) (w : PumpFields) : Statement (.wr pump w) := sylOf_none rfl
theorem pre (pump : Nat) (w : PumpFields) : Statement (.pre pump w) := sylOf_none rfl
theorem prea (pump : Nat) (w : PumpFields) : Statement (.prea pump w) := sylOf_none rfl
theorem refab (pump : Nat) (w : PumpFields) : Statement (.refab pump w) := sylOf_none rfl
theorem refpb (pump : Nat) (w : PumpFields) : Statement (.refpb pump w) := sylOf_none rfl
theorem slots (pump : Nat) (w : PumpFields) : Statement (.slots pump w) := sylOf_none rfl
theorem ksig (pump : Nat) (w : PumpFields) : Statement (.ksig pump w) := sylOf_none rfl
theorem pend (pump : Nat) (w : PumpFields) : Statement (.pend pump w) := sylOf_none rfl
theorem rdDataDelivery (pump : Nat) (id : Nat) : Statement (.rdDataDelivery pump id) := sylOf_none rfl
theorem wrPerformed (pump : Nat) (id : Nat) : Statement (.wrPerformed pump id) := sylOf_none rfl
theorem refreshTimer (pump : Nat) : Statement (.refreshTimer pump) := sylOf_none rfl
theorem owedRefresh (pump : Nat) : Statement (.owedRefresh pump) := sylOf_none rfl
theorem dynamicTraffic (pump : Nat) : Statement (.dynamicTraffic pump) := sylOf_none rfl
theorem patrolScrub (store : ScrubStore) (key : Nat) (found : ScrubFinding) : Statement (.patrolScrub store key found) := sylOf_none rfl
theorem dispatcherSelection : Statement .dispatcherSelection := sylOf_none rfl
theorem taskBecomesBlocking (fn : Nat) (task : Nat) : Statement (.taskBecomesBlocking fn task) := sylOf_none rfl
theorem contextSave (fn : Nat) (task : Nat) : Statement (.contextSave fn task) := sylOf_none rfl
theorem strandEnd (core : Nat) (strand : Nat) : Statement (.strandEnd core strand) := sylOf_none rfl
theorem taskComplete (fn : Nat) (task : Nat) : Statement (.taskComplete fn task) := sylOf_none rfl
theorem trigger (fn : Nat) (task : Nat) : Statement (.trigger fn task) := sylOf_none rfl
theorem taskReady (fn : Nat) (task : Nat) : Statement (.taskReady fn task) := sylOf_none rfl
theorem phaseComplete (fn : Nat) (task : Nat) : Statement (.phaseComplete fn task) := sylOf_none rfl
theorem epochSweep (die : Nat) : Statement (.epochSweep die) := sylOf_none rfl
theorem idle (port : Nat) (fl : Flit) : Statement (.idle port fl) := sylOf_none rfl
theorem readRequest (port : Nat) (fl : Flit) : Statement (.readRequest port fl) := sylOf_none rfl
theorem readData (port : Nat) (fl : Flit) : Statement (.readData port fl) := sylOf_none rfl
theorem writeData (port : Nat) (fl : Flit) : Statement (.writeData port fl) := sylOf_none rfl
theorem writeAcknowledgement (port : Nat) (fl : Flit) : Statement (.writeAcknowledgement port fl) := sylOf_none rfl
theorem ringChunk (port : Nat) (fl : Flit) : Statement (.ringChunk port fl) := sylOf_none rfl
theorem mldrRequest (port : Nat) (fl : Flit) : Statement (.mldrRequest port fl) := sylOf_none rfl
theorem mldrData (port : Nat) (fl : Flit) : Statement (.mldrData port fl) := sylOf_none rfl
theorem collectiveControl (port : Nat) (fl : Flit) : Statement (.collectiveControl port fl) := sylOf_none rfl
theorem keyControl (port : Nat) (fl : Flit) : Statement (.keyControl port fl) := sylOf_none rfl
theorem nak (port : Nat) (seq : BitVec 12) : Statement (.nak port seq) := sylOf_none rfl
theorem portRetrain (port : Nat) : Statement (.portRetrain port) := sylOf_none rfl
theorem portTrained (port : Nat) : Statement (.portTrained port) := sylOf_none rfl
theorem sealCountExhausted (port : Nat) : Statement (.sealCountExhausted port) := sylOf_none rfl
theorem mldrMemberTimeout (op : Nat) (member : Nat) : Statement (.mldrMemberTimeout op member) := sylOf_none rfl
theorem collectiveTimeout (op : Nat) (lrank : Nat) : Statement (.collectiveTimeout op lrank) := sylOf_none rfl
theorem switchOnBlockedBundle (core : Nat) : Statement (.switchOnBlockedBundle core) := sylOf_none rfl
theorem readHoldRelease (core : Nat) (id : Nat) : Statement (.readHoldRelease core id) := sylOf_none rfl
theorem readFlagClear (core : Nat) (id : Nat) : Statement (.readFlagClear core id) := sylOf_none rfl
theorem flitDiscarded (port : Nat) (fl : Flit) : Statement (.flitDiscarded port fl) := sylOf_none rfl
theorem taskPortWrite (fn : Nat) (port : Nat) (size : Nat) (aligned : Bool) (rec : BitVec 1024) : Statement (.taskPortWrite fn port size aligned rec) := sylOf_none rfl
theorem apertureRead (fn : Nat) (off : Nat) (len : Nat) : Statement (.apertureRead fn off len) := sylOf_none rfl
theorem apertureWrite (fn : Nat) (off : Nat) (data : List Byte) : Statement (.apertureWrite fn off data) := sylOf_none rfl
theorem tlbinv (fn : Nat) : Statement (.tlbinv fn) := sylOf_none rfl
theorem tlbinvComplete (fn : Nat) : Statement (.tlbinvComplete fn) := sylOf_none rfl
theorem resq (fn : Nat) : Statement (.resq fn) := sylOf_none rfl
theorem ekcmdInstall (fn : Nat) (peer : Nat) : Statement (.ekcmdInstall fn peer) := sylOf_none rfl
theorem ekcmdRemove (fn : Nat) (peer : Nat) : Statement (.ekcmdRemove fn peer) := sylOf_none rfl
theorem ekcmdEffect (fn : Nat) : Statement (.ekcmdEffect fn) := sylOf_none rfl
theorem ldcmdLoad (fn : Nat) : Statement (.ldcmdLoad fn) := sylOf_none rfl
theorem loadEnd (fn : Nat) : Statement (.loadEnd fn) := sylOf_none rfl
theorem ldcmdUnload (fn : Nat) : Statement (.ldcmdUnload fn) := sylOf_none rfl
theorem unloadComplete (index : Nat) : Statement (.unloadComplete index) := sylOf_none rfl
theorem trcctlUnfreeze (fn : Nat) : Statement (.trcctlUnfreeze fn) := sylOf_none rfl
theorem trcctlOwnerWrite (core : Nat) (owner : Nat) : Statement (.trcctlOwnerWrite core owner) := sylOf_none rfl
theorem hctlInstall (port : Nat) (epoch : Nat) : Statement (.hctlInstall port epoch) := sylOf_none rfl
theorem pctlEpochWrite (port : Nat) (epoch : Nat) : Statement (.pctlEpochWrite port epoch) := sylOf_none rfl
theorem domtabWrite (index : Nat) (v : Dword) : Statement (.domtabWrite index v) := sylOf_none rfl
theorem registerWrite (w : Window) (off : Nat) (v : Dword) : Statement (.registerWrite w off v) := sylOf_none rfl
theorem priResponse (fn : Nat) (page : Nat) (code : PriCode) : Statement (.priResponse fn page code) := sylOf_none rfl
theorem priTimeout (fn : Nat) (page : Nat) : Statement (.priTimeout fn page) := sylOf_none rfl
theorem atsCompletion (fn : Nat) (page : Nat) (ans : AtsAnswer) : Statement (.atsCompletion fn page ans) := sylOf_none rfl
theorem atsInvalidation (fn : Nat) (page : Nat) : Statement (.atsInvalidation fn page) := sylOf_none rfl
theorem hostReadCompletion (fn : Nat) (addr : Nat) (ok : Bool) (poisoned : Bool) (data : List Byte) : Statement (.hostReadCompletion fn addr ok poisoned data) := sylOf_none rfl
theorem hostReadTimeout (fn : Nat) (addr : Nat) : Statement (.hostReadTimeout fn addr) := sylOf_none rfl
theorem functionLevelReset (vf : Nat) : Statement (.functionLevelReset vf) := sylOf_none rfl
theorem moduleReset (imageVerifies : Bool) : Statement (.moduleReset imageVerifies) := sylOf_none rfl
theorem dieEntersService (die : Nat) : Statement (.dieEntersService die) := sylOf_none rfl
theorem matrixSelfTestEnd (die : Nat) (pass : Bool) : Statement (.matrixSelfTestEnd die pass) := sylOf_none rfl
theorem clockChange (core : Nat) (mhz : Nat) : Statement (.clockChange core mhz) := sylOf_none rfl
theorem rcvctlGo : Statement .rcvctlGo := sylOf_none rfl
theorem recoveryUpdateEnd (r : RecoveryEnd) : Statement (.recoveryUpdateEnd r) := sylOf_none rfl
theorem wellheadWatchdog : Statement .wellheadWatchdog := sylOf_none rfl
theorem textPageRepair (die : Nat) (page : Nat) : Statement (.textPageRepair die page) := sylOf_none rfl
theorem priReset (fn : Nat) : Statement (.priReset fn) := sylOf_none rfl
theorem atsOrBusMasterEnable (fn : Nat) (ats : Bool) (bme : Bool) : Statement (.atsOrBusMasterEnable fn ats bme) := sylOf_none rfl

end SylOf

end Sys2Proof.Laws
end

