-- ==== Sys2Proof/Tests/Slice0.lean ====
section
/-! SUPPORT. Tests: words decoded by hand from the spec's encoding, ill-formed terms that WellFormed refuses, states that meet the
hypotheses of the statements, worked examples of the spec. -/

namespace Sys2Proof.Tests
open Sys2Proof Sys2Proof.Machine Sys2Proof.Claims

set_option maxRecDepth 100000
set_option Elab.async false

/-! ### Decoding: one word of each family, its bits placed by R58 and R60 -/

/-- The example after R97. -/
theorem test_decode_s : decode (words16 [0x1, 0xE200FC82, 0x10003E07, 0x64]) = some (.cmp .lt (fieldsOf 31 (src 1 0 1) (src 30 3 0) Src.unused 64)) := by
  decide +kernel
/-- The save sequence after R419. -/
theorem test_decode_p : decode (words16 [0x2, 0xF03F7C04, 0x00001001, 0x00100000]) = some (.stpv (fieldsOf 31 (src 30 3 0) Src.unused (src 8 0 0) 0)) := by
  decide +kernel
/-- The example after R124. -/
theorem test_decode_w : decode (words16 [0x4, 0x8201A405, 0x02C03E40]) = some (.ldwg (fieldsOf 9 (src 3 0 1) (src 8 0 1) Src.unused 11)) := by
  decide +kernel
/-- V slot, FADD.F32 of q1 with a pop and q1 at offset 1, to q3: opcode 0x10, dst 3, A 0x401, B 0x21, C unused. -/
theorem test_decode_v : decode (words16 [0x8, 0x12008C10, 0x3E02]) = some (.fadd .f32 (fieldsOf 3 (src 1 0 1) (src 1 1 0) Src.unused 0)) := by
  decide +kernel
/-- The example after R155. -/
theorem test_decode_m : decode (words16 [0x10, 0x10027C10, 0x13003E40]) = some (.mma .m0 .bf16 (fieldsOf 31 (src 4 0 0) (src 1 0 1) Src.unused 76)) := by
  decide +kernel
/-- The example after R180. -/
theorem test_decode_e : decode (words16 [0x40, 0xE03F1403, 0x04800209, 0x80, 1]) = some (.cpq (fieldsOf 5 (src 30 3 0) (src 30 4 0) (src 1 0 0) 18)) := by
  decide +kernel
/-- X slot, FDSET fd3 of the literal in word 3: opcode 0x18, dst 31, A 0x07E, B and C unused, mod 3. -/
theorem test_decode_x : decode (words16 [0x80, 0xF03F7C18, 0x00C03E01]) = some (.fdset (fieldsOf 31 (src 30 3 0) Src.unused Src.unused 3)) := by
  decide +kernel
/-- The example after R222: RD, DELTA 24, bank 3. -/
theorem test_decode_pump : decodePump 5 0x2001800000000003 = some (.rd 5 { delta := 24, rt := 0, dofs := 0, col := 0, slot := 0, bank := 3 }) := by
  decide +kernel
/-- A flit's TYPE is header[63:60] (R296). -/
theorem test_decode_flit : decodeFlit 2 { seq := 0, ack := 0, nak := false, header := 0x3000000000000000, payload := 0, auth := 0, crc := 0 } =
    some (.writeData 2 { seq := 0, ack := 0, nak := false, header := 0x3000000000000000, payload := 0, auth := 0, crc := 0 }) := by decide +kernel
/-- An all-zero bundle is an empty bundle (R59); eight syllables are none. -/
theorem test_decode_empty : decode (words16 []) = some (.emptyBundle false) ∧ decode (words16 [0x100]) = some (.emptyBundle true) ∧
    decode (words16 [0xFF]) = none := by decide +kernel
/-- The encoder writes the words of the example after R124. -/
theorem test_encode : encode (.ldwg (fieldsOf 9 (src 3 0 1) (src 8 0 1) Src.unused 11)) = words16 [0x4, 0x8201A405, 0x02C03E40] := by decide +kernel
/-! ### Well-formedness: each check refuses an ill-formed term -/

abbrev U : Src := Src.unused
abbrev Z : Src := src 31 0 0
abbrev one : Src := src 30 3 0
abbrev q (n : Nat) : Src := src n 0 1

theorem test_wf_ok : (Instr.add true (fieldsOf 2 (q 0) one U 4)).wf = true := by decide +kernel
/-- dst a selector that is no queue; dst given where it is not used (R64). -/
theorem test_wf_dst : (Instr.add true (fieldsOf 16 (q 0) one U 0)).wf = false ∧ (Instr.nop (fieldsOf 0 U U U 0)).wf = false := by decide +kernel
/-- A reserved selector, a literal outside the pool, a literal of three words, a result queue in the S slot, an unused field (R60-R62). -/
theorem test_wf_src : ∀ a ∈ [src 20 0 0, src 30 2 0, src 30 15 1, src 30 3 2, src 16 0 0, src 31 1 0],
    (Instr.add true (fieldsOf 2 a (q 0) U 0)).wf = false := by decide +kernel
theorem test_wf_unused : (Instr.clz (fieldsOf 2 (q 0) Z (q 0) 0)).wf = false := by decide +kernel
/-- No literal where the rule allows none, not two where they share a tag (R63, R93). -/
theorem test_wf_lit : (Instr.movq (fieldsOf 2 one U U 0)).wf = false ∧ (Instr.vshuf (fieldsOf 3 Z Z U 0)).wf = false ∧
    (Instr.li (fieldsOf 2 (q 0) U U 0)).wf = false := by decide +kernel
/-- DROP pops at offset 0, QWAIT pops nothing, MMA's run is no literal and POPA pops it itself (R106, R147, R150, R367). -/
theorem test_wf_pops : (Instr.drop (fieldsOf 31 (src 0 1 1) U U 0)).wf = false ∧ (Instr.qwait (fieldsOf 31 (q 0) Z U 0)).wf = false ∧
    (Instr.mma .m0 .f32 (fieldsOf 31 Z Z U 0)).wf = false ∧ (Instr.mma .m0 .f32 (fieldsOf 31 (q 1) Z U 0x40)).wf = false := by decide +kernel
/-- A knot list with an entry beyond its count (R65); a reserved mod bit, a reserved tag and register (R88, R117, R111). -/
theorem test_wf_knots : (Instr.kjoin (fieldsOf 31 U U (src 1 0 0) 0)).wf = false := by decide +kernel
theorem test_wf_mod : (Instr.and (fieldsOf 2 (q 0) (q 0) U 1)).wf = false ∧ (Instr.ldp (fieldsOf 2 Z Z U 0x3F)).wf = false ∧
    (Instr.srd (fieldsOf 2 U U U 0x00B)).wf = false := by decide +kernel
/-- Pump words with a field set that the command does not use, or a reserved route (R210, R211, R379). -/
theorem test_wf_pump : ∀ i ∈ [Instr.pre 0 { delta := 0, rt := 0, dofs := 1, col := 0, slot := 0, bank := 0 },
    .act 0 { delta := 0, rt := 0, dofs := 0, col := 32, slot := 0, bank := 0 }, .rd 0 { delta := 0, rt := 3, dofs := 0, col := 0, slot := 0, bank := 0 },
    .wr 0 { delta := 0, rt := 2, dofs := 0, col := 0, slot := 0, bank := 0 }, .prea 0 { delta := 0, rt := 0, dofs := 0, col := 0, slot := 0, bank := 1 },
    .slots 0 { delta := 0, rt := 0, dofs := 0, col := 0, slot := 0, bank := 0 }], i.wf = false := by decide +kernel
/-! ### Every syllable issues somewhere -/

/-- A queue of n present slots with one tag. -/
def qOf (wide : Bool) (base n tag : Nat) : Queue :=
  { en := true, wide := wide, logcap := 5, base := base, tail := n, slots := (upto n).map (fun i => (i, { present := true, tag := tag })) }

/-- A code object with a handler at bundles 5 and 6. -/
def code0 : Code := { fn := 0, gen := 0, st := .loaded, nb := 16, entries := [0, 5 + 2 ^ 20, 6 + 2 ^ 21], textva := 0, pages := [(0, [0])] }

/-- Strand 0 of core 0, running at bundle 0, with the queues q0 to q8. -/
def demoStrand : Strand :=
  { ctx := { pc := 1 }, place := { mallot := 2 ^ 37 - 1, ssize := 64, code := 1, task := 7, ndim := 2, extents := [3, 1] }
    flow := { life := .running }
    queues := [(0, qOf false 0x100000 4 4), (1, qOf true 0x102000 8 0x0B), (2, qOf false 0x104000 0 0), (3, qOf true 0x106000 0 0),
      (4, qOf true 0x108000 4 3), (5, qOf true 0x10A000 4 0x0D), (6, qOf false 0x10C000 4 8), (7, qOf true 0x10E000 4 0),
      (8, qOf false 0x110000 4 0x0D)] }

/-- Core 0 with that strand, two slots in mq0, and a literal pool. -/
def demo : State :=
  { State.reset with
    cores := [(0, { strands := [(0, demoStrand)], mqs := [(0, { tail := 2, slots := [(0, { present := true, tag := 0x0B }), (1, { present := true, tag := 0x0B })] })] })]
    codes := [(1, code0)]
    bundle := { words := [0, 0, 0, 1, 8, 0x77430, 0, 0, 0, 0, 0, 0, 0, 0, 0, 0] } }

/-- The literal 8 in word 4. -/
def eight : Src := src 30 4 0

/-- Fields of the S, V and E syllables below. -/
def sAB (m : Nat) : Fields := fieldsOf 2 (q 0) (src 0 1 0) U m

/-- A syllable of every S row. -/
def listS : List Instr :=
  [.nop (fieldsOf 31 U U U 0)] ++
  [true, false].flatMap (fun w => [.add w (sAB 4), .sub w (sAB 0), .mul w (sAB 0), .mulhs w (sAB 0), .mulhu w (sAB 0), .shl w (sAB 0), .shr w (sAB 0),
    .sar w (sAB 0), .div w (sAB 0), .divu w (sAB 0), .rem w (sAB 0), .remu w (sAB 0)]) ++
  [.and (sAB 0), .or (sAB 0), .xor (sAB 0), .andn (sAB 0), .min (sAB 0), .max (sAB 0), .minu (sAB 0), .maxu (sAB 0), .sel (sAB 0x20),
   .clz (fieldsOf 2 (q 0) U U 0), .popc (fieldsOf 2 (q 0) U U 0), .sext (fieldsOf 2 (q 0) U U 8), .zext (fieldsOf 2 (q 0) U U 16),
   .li (fieldsOf 2 one U U 0), .movq (fieldsOf 2 (q 0) U U 0), .dup (fieldsOf 2 (q 0) U U 0xF8), .drop (fieldsOf 31 (src 0 0 4) U U 0),
   .qlen (fieldsOf 2 U U U 0), .cmp .lt (fieldsOf 31 (q 0) one U 0x40), .ptg (fieldsOf 31 one U U 8), .br (fieldsOf 31 U U U 0),
   .brc (fieldsOf 31 U U U 0x50), .call (fieldsOf 2 U U U 0), .ret (fieldsOf 31 (q 0) U U 0), .loop (fieldsOf 31 one U U 4), .loop (fieldsOf 31 Z U U 0),
   .loopTask (fieldsOf 31 U U U 0x18), .vany (fieldsOf 31 (q 5) U U 0), .vall (fieldsOf 31 (q 8) U U 0x18), .ktest (fieldsOf 31 U U U 3), .kwait (fieldsOf 31 Z U U 3),
   .qwait (fieldsOf 31 (src 0 1 0) one U 0), .trap (fieldsOf 31 U U U 0xFF), .srd (fieldsOf 2 U U U 0x009), .swr (fieldsOf 31 one U U 0x009),
   .phase (fieldsOf 31 U U U 0), .trig (fieldsOf 31 U U U 0), .endStrand (fieldsOf 31 U U U 0)]
/-- Of every P and W row. -/
def listPW : List Instr :=
  [.ldp (fieldsOf 2 eight Z U 4), .stp (fieldsOf 31 Z eight (q 0) 0), .ldpv (fieldsOf 3 Z Z U 0x0B), .stpv (fieldsOf 31 Z Z (q 1) 0),
   .ldps (fieldsOf 3 Z one one 1), .ldw (fieldsOf 2 eight Z U 4), .stw (fieldsOf 31 Z eight (q 0) 0), .ldwv (fieldsOf 3 Z Z U 0x0B),
   .stwv (fieldsOf 31 Z Z (q 1) 0), .ldwg (fieldsOf 3 Z (q 4) U 3), .stwx (fieldsOf 31 Z (q 4) (q 1) 0)]
def vv (a b c : Src) (m : Nat) : Fields := fieldsOf 3 a b c m
/-- Of every V row. -/
def listV : List Instr :=
  let f2 := vv (q 1) (src 1 1 0) U 0
  let f3 := vv (q 1) (src 1 1 0) (src 1 2 0) 0
  let f1 := vv (q 1) U U 0
  let i2 := vv (q 4) (src 4 1 0) U 0
  [.fadd .f32 f2, .fsub .f32 f2, .fmul .f32 f2, .ffma .f32 f3, .ffms .f32 f3, .fnma .f32 f3, .fmin .f32 f2, .fmax .f32 f2, .fabs .f32 f1,
   .fneg .f32 f1, .fdiv .f32 f2, .fsqrt .f32 f1, .frcp .f32 f1, .frsq .f32 f1, .fexp2 .f32 f1, .flog2 .f32 f1, .fcmp .f32 f2, .fclass .f32 f1,
   .iadd .i32 i2, .isub .i32 i2, .imul .i32 i2, .imulh .i32 i2, .imad .i32 (vv (q 4) (src 4 1 0) (src 4 2 0) 0), .iand .i32 i2, .ior .i32 i2,
   .ixor .i32 i2, .ishl .i32 i2, .ishr .i32 i2, .isar .i32 i2, .imin .i32 i2, .imax .i32 i2, .icmp .i32 i2,
   .cvt (vv (q 1) U U 0x18), .cvtn (vv (q 1) U U 0), .pack (vv (q 4) (src 4 1 0) U 0), .unpack (vv (q 4) U U 0), .vsel (vv (q 1) (src 1 1 0) (q 5) 0),
   .vbcast (vv (q 1) U U 2), .vperm (vv (q 1) (q 4) U 0), .vshuf (vv (q 1) (src 1 1 0) U 0x18), .vrot (vv (q 1) one U 0),
   .vext (fieldsOf 2 (q 1) one U 0), .vins (vv (q 1) one one 0), .vrsum (fieldsOf 2 (q 1) U U 0), .vrmax (fieldsOf 2 (q 1) U U 0),
   .vrmin (fieldsOf 2 (q 1) U U 0), .vscan (vv (q 1) U U 0), .mand (vv (q 5) (src 5 1 0) U 0), .mor (vv (q 5) (src 5 1 0) U 0), .mnot (vv (q 5) U U 0),
   .mpopc (fieldsOf 2 (q 5) U U 0)]
/-- Of every M row. -/
def listM : List Instr :=
  [.mma .m0 .f32 (fieldsOf 31 (src 1 0 0) Z U 0x40), .mmaz .m1 .f32 (fieldsOf 31 (src 1 0 0) Z U 4), .mzero .m0 (fieldsOf 31 U U U 0x40),
   .mdrain .m0 (fieldsOf 31 U U U 0), .maccl .m1 (fieldsOf 31 Z U U 0x40), .maccs .m0 (fieldsOf 31 Z U U 0), .mfmt .m0 (fieldsOf 31 one U U 0)]
def eF (d : Nat) (a b : Src) (m : Nat) : Fields := fieldsOf d a b (src 0 0 0) m
/-- Of every E row. -/
def listE : List Instr :=
  [.copy (eF 31 Z Z 0), .copyf (eF 31 Z Z 0x80), .cpq (eF 2 Z one 0), .scata (fieldsOf 31 (q 4) (src 4 1 0) (src 0 0 0) 0), .skupd (eF 31 Z Z 0),
   .skqry (eF 2 Z one 0), .skadd (eF 31 Z Z 0), .skscale (eF 31 Z Z 0), .skclr (eF 31 Z U 0), .pump (eF 31 Z Z 0), .psplit (eF 31 Z Z 0),
   .mapr (eF 31 Z Z 0), .mapreq (eF 31 Z Z 0), .kjoin (eF 31 U U 0), .mldr (eF 3 Z Z 0), .coll (eF 31 Z Z 0)]
/-- Of the X rows but STRUN. -/
def listX : List Instr :=
  [.stcfg (fieldsOf 31 Z one U 0), .ststop (fieldsOf 31 U U U 0), .qdesc (fieldsOf 31 Z Z U 2), .qgraft (fieldsOf 31 Z U U 2), .qungraft (fieldsOf 31 U U U 2),
   .fdset (fieldsOf 31 (src 30 5 0) U U 3), .tspawn (fieldsOf 2 Z Z U 0), .tfork (fieldsOf 2 one Z U 0), .tcancel (fieldsOf 2 one U U 0), .tprio (fieldsOf 31 Z one U 0),
   .agset (fieldsOf 31 Z Z U 0), .traceOn (fieldsOf 31 one U U 0), .traceOff (fieldsOf 31 U U U 1), .traceMark (fieldsOf 31 one U U 2), .traceArm (fieldsOf 31 one U U 3)]

/-- The same at trap level 1, with a loop entry, a returned shape and a configured row. -/
def demo2 : State :=
  demo.modCore 0 (fun x => { x with
    strands := [(0, { demoStrand with ctx := { demoStrand.ctx with tl := 1, lse := [(0, dw (2 ^ 63 + 3))] }, flow := { demoStrand.flow with shape := some (1, 3) } })]
    row := { cfg := some { ii := 1, ns := 1, mask := 0, redop := 0, ops := [], index := [] } } })
/-- Of the rows that need a loop, a level, a shape or a configuration. -/
def list2 : List Instr := [.lend (fieldsOf 31 U U U 0), .eret (fieldsOf 31 U U U 0), .loopSp (fieldsOf 31 Z U U 0x48), .loopSw (fieldsOf 31 Z U U 0x10),
  .strun (fieldsOf 31 one Z Z 3)]

/-- Statements of the form `Does` have a state in which each of their syllables, alone in its bundle, passes every check and issues. -/
theorem witness_issues_s : ∀ i ∈ listS, verdictAlone i demo = some .ok := by decide +kernel
theorem witness_issues_pwv : ∀ i ∈ listPW ++ listV, verdictAlone i demo = some .ok := by decide +kernel
theorem witness_issues_mex : ∀ i ∈ listM ++ listE ++ listX, verdictAlone i demo = some .ok := by decide +kernel
theorem witness_issues_more : ∀ i ∈ list2, verdictAlone i demo2 = some .ok := by decide +kernel
/-- They are well formed: the hypotheses of DecodeOfEncodeIsTheInstruction hold of them. -/
theorem witness_wf : ∀ i ∈ listS ++ listPW ++ listV ++ listM ++ listE ++ listX ++ list2, i.wf = true ∧ i.opcode.isSome = true := by decide +kernel

/-! ### States that meet the hypotheses of the other statements -/

/-- The entries of function 0's table of die 0: VA 0 to 2^30 are LPDDR-5X from LPA 0, 2^30 to 2^30 + 2^24 vault 0 from W 0, readable and
writable (R267, R268). -/
def tables : List (Nat × Nat) :=
  [(2 ^ 32, 2 ^ 32 + 0x1001), (2 ^ 32 + 0x1000, 2 ^ 32 + 0x2001), (2 ^ 32 + 0x2000, 2 ^ 61 + 2 ^ 60 + 2 ^ 59 + 3), (2 ^ 32 + 0x2008, 2 ^ 32 + 0x3001),
   (2 ^ 32 + 0x3000, 2 ^ 62 + 2 ^ 61 + 2 ^ 60 + 2 ^ 59 + 3)]
/-- Die 0 in service with those tables, their two leaves cached. -/
def base : State :=
  tables.foldl (fun s x => s.putBytes (keyL x.1) (bytesLE 8 x.2))
    { demo with
      dies := [(0, { state := .full, tlb := [(0, [(2 ^ 58, (dw (2 ^ 61 + 2 ^ 60 + 2 ^ 59 + 3), 2)),
        (3 * 2 ^ 57 + 64, (dw (2 ^ 62 + 2 ^ 61 + 2 ^ 60 + 2 ^ 59 + 3), 3))])] })]
      host := { demo.host with ptroot := [(0, 2 ^ 32)] } }
/-- What both kinds of leaf give, and a VA with none. -/
theorem witness_xlate : ∀ x ∈ [(0, Xl.ok (keyL 0)), (2 ^ 30 - 1, .ok (keyL (2 ^ 30 - 1))), (2 ^ 30 + 5, .ok (keyW 0 5)), (2 ^ 31, .fail 10 2)],
    base.xlate 0 0 x.1 .write = (x.2, base) := by decide +kernel

def okWith {α : Type} (p : α → Bool) (x : Va α × State) : Bool := match x.1 with | .ok a => p a | _ => false
def badWith {α : Type} (c : Nat) (x : Va α × State) : Bool := match x.1 with | .bad f => f.cause == c | _ => false
def waitsFor {α : Type} (x : Va α × State) : Bool := match x.1 with | .wait => true | _ => false

/-- base with its strand changed. -/
def baseStrand (g : Strand → Strand) : State := base.modStrand 0 0 g
def baseFlow (g : Flow → Flow) : State := base.modFlow 0 0 g

/-- base with an instruction stored as the next bundle of its strand. -/
def baseText (i : Instr) : State :=
  base.putBytes (keyW 0 (textPageW 0) + 64) ((encode i).flatMap (fun w => bytesLE 4 w.toNat))

def someTrap (k : Kind) : Trap := { cause := 0x0A, kind := k, addr := 1, aux := 2, engine := some (15, 7), itl := 1 }

theorem witness_bundles : (base.bundle.eret = false ∧ popped [] 0 = 0) ∧ (base.modBundle (fun b => { b with eret := true })).bundle.eret = true ∧
    (let s := baseStrand (fun t => { t with ctx := { t.ctx with seq := some (0, 9) }, flow := { t.flow with load := [0] } })
     s.bundle.target = none ∧ (s.strand 0 0).ctx.seq = some (0, 9) ∧ (s.strand 0 0).ctx.tl ∈ (s.strand 0 0).flow.load) := by decide +kernel

/-- Strand 0 is idle and strand 3 (or 1) is at an empty bundle. -/
def switchState (k : Nat) : State :=
  { base with cores := [(0, { strands := if k == 0 then [] else [(k, { demoStrand with queues := [] })] })] }

theorem witness_issueUnit : base.admission 0 0 { yield := true, syls := [] } = .ok ∧
    256 ≤ ((base.modIssue 0 (fun x => { x with runs := 256 })).core 0).issue.runs ∧
    (∀ d ∈ [1, 3], (switchState d).readyNow 0 0 = false ∧ (switchState d).readyNow 0 d = true ∧ ∀ e ∈ List.range d, (switchState d).readyNow 0 e = false) := by
  decide +kernel

theorem witness_waitLimit : let s := (baseText (.movq (fieldsOf 2 (src 2 0 0) U U 0))).modStrand 0 0 (fun t =>
      { t with ctx := { t.ctx with wlimit := 3 }, flow := { t.flow with blocked := 3 } })
    (s.strand 0 0).atBundle = true ∧ (s.strand 0 0).ctx.wlimit = (s.strand 0 0).flow.blocked ∧ s.verdict 0 0 = .held (some 2) := by decide +kernel

theorem witness_waits : ∀ w ∈ [Wait.knot 3 5, .phase, .queue 2 0 5],
    let s := baseStrand (fun t => { t with ctx := { t.ctx with wlimit := 5, knots := [(3, .pending)] }, flow := { t.flow with wait := w, waited := 5 } })
    (s.strand 0 0).live = true ∧ (s.strand 0 0).waitLimit = 5 ∧ (s.strand 0 0).flow.waited = 5 ∧ s.waitOver 0 0 = false := by decide +kernel

theorem witness_budget_holds : ((baseStrand (fun t => { t with ctx := { t.ctx with budget := 1 } })).strand 0 0).live = true ∧
    Table.get? ((base.modFlight 0 (fun f => { f with holds := [(4, { strand := 0, q := 15, idx := 0 })] })).core 0).flight.holds 4 =
      some { strand := 0, q := 15, idx := 0 } := by decide +kernel

theorem code0_entry : code0.trapEntry 1 = some 5 ∧ code0.trapEntry 2 = some 6 ∧ code0.trapEntry 3 = none := by decide +kernel

/-- A strand with a handler at its next level; at level 2; in an object with no handler; with a due fault it may take. -/
theorem witness_traps : (base.strand 0 0).live = true ∧ Table.get? base.codes (base.strand 0 0).place.code = some code0 ∧
    TrapFits (someTrap .deferred) ∧ SeqFits { demoStrand.ctx with seq := some (1, 2 ^ 30 - 1) } ∧
    ((baseStrand (fun t => { t with ctx := { t.ctx with tl := 2 } })).strand 0 0).ctx.tl = 2 ∧
    ((baseFlow (fun f => { f with due := [(3, someTrap .deferred)] })).strand 0 0).takeable = some (3, someTrap .deferred) ∧
    ((baseFlow (fun f => { f with due := [(3, someTrap .deferred)] })).strand 0 0).atBoundary = true := by
  refine ⟨by decide +kernel, by decide +kernel, ⟨by decide, by decide, by decide, by decide⟩, ⟨by decide +kernel, ?_⟩, by decide +kernel, by decide +kernel, by decide +kernel⟩
  intro n g h; cases h; decide +kernel

/-! Results, stores, touches, shape records, fills. -/

def aPend (q : Nat) : Pend := { strand := 0, q := q, idx := 3, graft := false, tag := 4, val := 7 }

theorem witness_results : ∀ q ∈ [0, 15, 16, 19], let s := base.modFlight 0 (fun f => { f with pends := [(9, aPend q)] })
    Table.get? (s.core 0).flight.pends 9 = some (aPend q) ∧ (s.core 0).flight.waits 9 = false ∧ Memory.wf s.mem = true := by decide +kernel

def aStore (w : Bool) : PStore := { strand := 0, bno := 0, w := w, tl := 0, cells := [(keyW 0 64, 1), (keyW 0 65, 2), (keyW 0 64, 3)], grans := [1] }

theorem witness_stores : let s := base.modFlight 0 (fun f => { f with stores := [(9, aStore true)] })
    Table.get? (s.core 0).flight.stores 9 = some (aStore true) ∧ (s.core 0).flight.earlier 0 (aStore true) 9 = false ∧
    s.updating 0 (aStore true) = false ∧ (s.storeTouches 0 (aStore true) (aStore true).grans).isSome = true ∧ s.poison = [] := by decide +kernel

def aTouch (w : TouchFor) : Touch := { strand := 0, bno := 0, tl := 0, die := 0, granule := 1, wrote := false, what := w }

theorem witness_touches : ∀ w ∈ [TouchFor.load 9 [(64, 4, 252)], .mma 0 5, .maccl 1 5],
    let s := base.modFlight 0 (fun f => { f with touches := [(2, aTouch w)], pends := [(9, aPend 0)] })
    Table.get? (s.core 0).flight.touches 2 = some (aTouch w) ∧ (s.granule 0 (aTouch w)).isSome = true := by decide +kernel

theorem witness_shape : let s := (baseText (.loopSp (fieldsOf 31 Z U U 8))).modFlow 0 0 (fun f => { f with shape := some (0, 0) })
    (s.strand 0 0).flow.shape = some (0, 0) ∧ (s.shapeUse 0 0).map (fun x => (x.1.i, x.2)) = some (.loopSp (fieldsOf 31 Z U U 8), false, 0) ∧
    s.poison = [] := by decide +kernel
/-- A record of one extent, and one that breaks R99. -/
theorem witness_shapeRecord : ShapeRecord (fun i => if i = 0 then 6 else if i ≤ 6 then 2 ^ 30 - 1 else 0) ∧ ¬ ShapeRecord (fun _ => 0) := by
  refine ⟨⟨by decide, by decide, ?_, by decide⟩, fun h => absurd h.1 (by decide)⟩
  intro i h1 h2
  have : i = 1 ∨ i = 2 ∨ i = 3 ∨ i = 4 ∨ i = 5 ∨ i = 6 := by omega
  rcases this with h | h | h | h | h | h <;> subst h <;> decide

def aRegion (b : Table BlockState) : Region := { va := 1, size := 2, pbase := 2, blocks := b }

theorem witness_fill : let s := (baseText (.ldp (fieldsOf 2 eight Z U 4))).modStrand 0 0 (fun t => { t with regions := [(0, { aRegion [] with pbase := 0 })] })
    s.fillWanted 0 0 = some (0, 0, false) ∧ (s.strand 0 0).atBundle = true ∧
    (match (s.vaSpot (s.strandAccess 0 0) 4096 false).1 with | .ok x => x == .here (keyL 4096) | _ => false) = true ∧
    s.opEarly (s.strandAccess 0 0) (keyL 4096) = false ∧ (s.takeBursts false [keyL 4096, keyL 8191]).1 = true ∧ s.firstInLine (s.strandAccess 0 0) { aRegion [] with pbase := 0 } = true := by decide +kernel

theorem witness_flag : let s := (base.modFlight 0 (fun f => { f with flags := [(3, (1, 15))] })).modUnit 0 1 (fun m => { m with reads := [(15, 2)] })
    Table.get? (s.core 0).flight.flags 3 = some (1, 15) ∧ Table.wf ((s.core 0).unit 1).reads = true := by decide +kernel

/-! Matrix units and engine operations. -/

def anOp (kind : OpKind) (phase : OpPhase) : EngOp :=
  { core := 0, strand := 0, knot := 15, engine := 0, tl := 0, fn := 0, task := 7, bno := 0, pc := 0, kind := kind, phase := phase }

/-- base with the operation 3, its knot pending. -/
def opState (e : EngOp) : State :=
  { (baseStrand (fun t => { t with ctx := { t.ctx with knots := [(15, .pending)] }, knotOp := [(15, 3)] })) with ops := [(3, e)] }

def matOps : List MatOp :=
  [.zero true, .maccl true 0, .mma false .f32 0 [0, 0, 0, 0] [0, 0, 0, 0] 0 0 32 32].map (fun k =>
    { strand := 0, tile := 15, bno := 0, pc := 0, tl := 0, eff := 0, kind := k })

theorem witness_tiles : ∀ o ∈ matOps, let s := base.modUnit 0 1 (fun m => { m with ops := [(5, o)] })
    (s.core 0).matOp? 5 = some (1, o) ∧ (s.core 0).matWaits 1 5 o = false ∧ o.bad = none := by decide +kernel
theorem witness_mma : mfSlice .f32 = 32 ∧ mfNa .f32 = 4 := by decide +kernel

theorem witness_starts : (opState (anOp .kjoin .ready)).op? 3 = some (anOp .kjoin .ready) ∧
    (match (opState (anOp (.mapreq 0 1) .ready)).startOp 3 (anOp (.mapreq 0 1) .ready) with | .go s1 => (s1.op? 3).isSome | _ => false) = true ∧
    (opState (anOp (.copy 0 0) .working)).op? 3 = some (anOp (.copy 0 0) .working) ∧ (opState (anOp (.copy 0 0) .working)).pumpOfOp 3 = none := by
  decide +kernel

/-- A plan of one element of one byte in P at 0, to P at 64. -/
def aPlan : CopyPlan := { sb := 0, db := 64, ssp := 0, dsp := 0, tag := 8, exts := [1], sstr := [], dstr := [] }

theorem base_memOk : base.memOk := show Memory.wf base.mem = true by decide +kernel
theorem witness_plain (k : OpKind) (p : OpPhase) : Plain (opState (anOp k p)) (anOp k p) := ⟨rfl, by rfl, base_memOk⟩

theorem witness_chunks : ∀ k ∈ [OpKind.copy 0 0, .copyf 0 0 7], let e := { anOp k .working with plan := some aPlan }
    e.next < aPlan.chunks ∧ (opState e).txnsOf 3 = [] ∧ chunkAddrs e aPlan aPlan.src = [0] ∧ chunkAddrs e aPlan aPlan.dst = [64] ∧
    (match ((opState e).spots e 0 true 0 [64]).1 with | .ok ks => ks == [Spot.here (keyP 0 64)] | _ => false) = true := by decide +kernel

theorem witness_cpq : let e := { anOp (.cpq 0 1 false 0) .working with plan := some aPlan, data := [1, 2, 3, 4, 5, 6, 7, 8], slots := [9] }
    let s := (opState e).modFlight 0 (fun f => { f with pends := [(9, aPend 15)] })
    s.op? 3 = some e ∧ Table.get? (s.core 0).flight.pends 9 = some (aPend 15) := by decide +kernel

theorem witness_scata : let e := anOp (.scata 0 0 3 3 0 0) .working
    let s := (opState e).modCore 0 (fun x => { x with scaOrder := [3], cyc := 14 })
    (s.core 0).scaOrder.head? = some 3 ∧ e.at_ + 14 ≤ (s.core 0).cyc ∧
    (match (s.scataSpots e [(0, 0)]).1 with | .ok xs => xs == [(0, 0)] | _ => false) = true := by decide +kernel

def aSkein : Skein := { home := 0, base := 0, depth := 1, logw := 1, mask := 0, stride := 64, expo := 0 }

theorem witness_sketch : ∀ e ∈ [{ anOp (.skclr 0) .working with skeins := [aSkein] }, { anOp (.skupd 0 0) .working with skeins := [aSkein], vals := [(4, -1)] }],
    e.next < e.updates ∧ (opState e).sketchBehind 3 e = false ∧
    (e.nextCounters (opState e)).any (fun b => (opState e).opEarly e (keyW 0 b)) = false := by decide +kernel

theorem witness_split : let e := { anOp (.psplit 4096 9) .working with vals := [(0, 5), (1, 6)], next := 128 }
    (opState e).boundBy e 5 = false ∧ Table.wf (opState e).disp.refs = true ∧
    (match ((opState e).spots e 2 true 0 [4096, 4097]).1 with | .ok ks => ks == [Spot.here (keyL 4096), Spot.here (keyL 4097)] | _ => false) = true := by
  decide +kernel

/-- An unbinding MAPR of region 3, clean and with one DIRTY block. -/
theorem witness_writeBack : ∀ b ∈ [[], [(1, BlockState.dirty)]], let e := anOp (.mapr (3 * 2 ^ 32) 0) .working
    let s := (opState e).modStrand 0 0 (fun t => { t with regions := [(3, aRegion b)] })
    s.unbinder 0 0 3 = some (3, e) ∧ (aRegion b).dirty = b.map Prod.fst ∧
    (match (s.vaSpot e ((aRegion b).blockVA 1) true).1 with | .ok x => x == .here (keyL 8192) | _ => false) = true ∧
    s.opEarly e (keyL 8192) = false ∧ (s.takeBursts true [keyL 8192, keyL 12287]).1 = true := by
  decide +kernel

/-! Tasks. -/

def aTask (st : TState) (panel : List (Nat × Nat × PStatus)) : Task :=
  { st := st, gen := 0, recd := List.replicate 16 0, prio := 3, parent := 0, preds := [], panel := panel }

/-- base with the task 7 of function 0 (key 7). -/
def taskState (s : State) (g : Task) : State := { s with disp := { s.disp with tasks := [(7, g)] } }

theorem witness_kill : let g := aTask .running [(0, 0, .cast)]
    (taskState base g).task? (taskKey 0 7) = some g ∧ g.st ≠ .husk ∧ (taskState base g).captured 7 = false ∧ Table.wf (taskState base g).disp.tasks = true := by decide +kernel
/-- The kill of the strand that is cast on at its place; a record's place in memory, one with no leaf, one of a channel that a program holds. -/
theorem witness_killRecord : let g := aTask .running [(0, 0, .cast)]
    let x : KillInfo := { cause := 9, reason := 1, pos := 0, words := none }
    g.panel[x.pos]? = some (0, 0, .cast) ∧ x.held = none ∧ base.disp.jobs = [] ∧ g.id 7 < 2 ^ 32 ∧ (base.strand 0 0).flow.due = [] := by decide +kernel
theorem witness_submit : okWith (fun ks => ks.length == 128 && (base.takeBursts true ks).1) (base.xlateRun 0 0 .write 4096 128) = true ∧
    badWith 0x0A (base.writeVA 0 (2 ^ 31) [1]) = true ∧
    waitsFor ({ base with pumps := [(0, { prog := some { op := 3, fn := 0, task := 7, core := 0, strand := 0, w := false, padr := 0, ladr := 64, nsl := 1, phase := .running } })] }.writeVA 0 0 [1]) = true := by
  decide +kernel
theorem witness_strandEnd : let s := baseFlow (fun f => { f with life := .ending })
    (s.strand 0 0).flow.life = .ending ∧ s.quiesced 0 0 = true ∧ (s.strand 0 0).dirtyRegion = none := by decide +kernel

theorem witness_complete : let g := aTask .running [(0, 0, .ended)]
    (taskState base g).task? 7 = some g ∧ (∀ x ∈ g.panel, x.2.2 = .ended) ∧ (taskState base g).captured 7 = false := by decide +kernel

theorem witness_trigger : let g := aTask .running [(0, 0, .cast), (0, 1, .ended)]
    let s := taskState (baseFlow (fun f => { f with trig := some 4 })) g
    s.task? 7 = some g ∧ g.fired = false ∧ (∀ x ∈ g.panel, s.trigDone x = true) ∧ s.captured 7 = false := by decide +kernel

theorem witness_ready : let g := aTask .held []
    (taskState base g).task? 7 = some g ∧ g.preds = [] ∧ (taskState base g).captured 7 = false := by decide +kernel

theorem witness_phase : let g := aTask .running [(0, 0, .cast)]
    let s := taskState (baseFlow (fun f => { f with wait := .phase, phases := [0] })) g
    PanelApart g.panel ∧ (s.die g.origin.1).nextEpoch = some 1 ∧ (0, 0, PStatus.cast) ∈ g.panel ∧ (s.strand 0 0).flow.phases ≠ [] ∧
    ∀ x ∈ g.panel, s.phaseDone x = true := by unfold PanelApart; decide +kernel

theorem witness_sweep : let s := base.modDie 0 (fun d => { d with live := [(5, 7)], tags := [(1, [{ epoch := 2 ^ 18, ents := [] }])] })
    (∀ p ∈ (s.die 0).live, p.1 / 2 ^ 18 ≠ ((s.die 0).epoch / 2 ^ 18 + 1) % 4) ∧ Table.wf (s.die 0).tags = true := by decide +kernel

/-- Die 0 in service with a table that points to itself and one leaf of a vault, at VA 2 ^ 30. -/
def shallow : State :=
  { demo with
    mem := [], dies := [(0, { state := .full, tlb := [(0, [(2 ^ 58 + 1, (dw (2 ^ 61 + 2 ^ 60 + 2 ^ 59 + 3), 2))])] })]
    host := { demo.host with ptroot := [(0, 2 ^ 16)] } }.putBytes (keyL (2 ^ 16)) (bytesLE 8 (2 ^ 16 + 1) ++ bytesLE 8 (2 ^ 61 + 2 ^ 60 + 2 ^ 59 + 3))
/-- A task whose save area lies in a vault and whose strand holds at its back-edge. -/
theorem witness_save : let g := { aTask .running [(0, 0, .cast)] with request := some 0, recd := ((List.replicate 16 0).set 11 (dw (2 ^ 30 + 2 ^ 20))).set 3 (dw (8 * 2 ^ 20)) }
    let s := taskState (shallow.modStrand 0 0 (fun x => { x with queues := [], flow := { x.flow with life := .holding } })) g
    s.task? 7 = some g ∧ g.request.isSome = true ∧ (∀ x ∈ g.panel, s.saveReady x = true) ∧ s.captured 7 = false ∧
    (match (s.saveContexts 0 g (numbered 0 g.panel)).2.1 with | .ok _ => true | _ => false) = true := by decide +kernel

theorem witness_blocking : let g := { aTask .ready [] with prio := 7, passed := some (0, 7) }
    let s := (taskState base g).modEnv (fun e => { e with ns := 10 ^ 9 })
    s.task? 7 = some g ∧ s.disp.blocking = none ∧ s.qualifies g = true ∧
    (∀ p ∈ s.disp.tasks, s.qualifies p.2 = true → g.passedAt ≤ p.2.passedAt) ∧ s.captured 7 = false := by decide +kernel

theorem witness_context : let x := base.strand 0 0
    x.ctx.pc < 2 ^ 30 ∧ x.ctx.tl < 3 ∧ x.ctx.wlimit < 2 ^ 32 ∧ x.ctx.budget < 2 ^ 32 ∧ (∀ n < 16, x.bt n < 2 ^ 30 ∧ x.fd n < 2 ^ 32) := by decide +kernel

/-- A queue with slots, whose descriptor and window a save area holds, and a strand with the same queue empty. -/
theorem witness_window : let x := base.queue 0 0 1
    let u := baseStrand (fun t => { t with queues := [(1, bareQueue x)] })
    x.en = true ∧ x.occ = 8 ∧ x.occ ≤ x.cap ∧ x.base + x.cap * x.size ≤ 2 ^ 22 ∧ u.queue 0 0 1 = bareQueue x ∧ Memory.wf u.mem = true ∧
    (∀ o ∈ List.range x.occ, tagOk (x.slot (x.index o)).tag = true ∧ (x.slot (x.index o)).tag < 256) ∧
    FitsImage { x with gsrc := true, gcred := 2 ^ 13 - 1, gcore := 255, gstr := 3, gq := 15 } := by unfold FitsImage; decide +kernel

/-! Descriptors, grafts, task syllables, groups. -/

def waiting (w : XWait) : State := baseFlow (fun f => { f with xwait := some w })

/-- QGRAFT of q2 to q9 of strand 1 of core 0 (word 0x2500): no such strand; another function; a disabled queue; all as it should be. -/
def graftState (fn : Nat) (qs : Table Queue) : State :=
  (waiting (.graft 2 0x2500 0)).setStrand 0 1 { place := { fn := fn }, flow := { life := .running }, queues := qs }

theorem witness_graft : CanSource ((graftState 0 []).queue 0 0 2) ∧ ¬ CanSource ((graftState 0 []).queue 0 0 0) ∧
    (tgtCore 0x2500, tgtStrand 0x2500, tgtQueue 0x2500) = (0, 1, 9) ∧ ((waiting (.graft 2 0x2500 0)).strand 0 1).live = false ∧
    ((graftState 5 []).strand 0 1).place.fn ≠ ((graftState 5 []).strand 0 0).place.fn ∧
    ¬ CanTarget ((graftState 0 []).queue 0 1 9) ((graftState 0 []).queue 0 0 2) ∧
    CanTarget ((graftState 0 [(9, qOf false 0x200000 0 0)]).queue 0 1 9) ((graftState 0 []).queue 0 0 2) := by
  unfold CanSource CanTarget; decide +kernel

theorem witness_ungraft : let s := (waiting (.ungraft 2 0)).modQueue 0 0 2 (fun x => { x with gsrc := true, gcore := 255, gstr := 3, gq := 15 })
    ((waiting (.ungraft 2 0)).queue 0 0 2).gsrc = false ∧ (s.queue 0 0 2).gsrc = true ∧ (s.queue 0 0 2).broken = false ∧ s.graftBusy 0 0 2 = false := by
  decide +kernel

theorem witness_arrival : let s := base.modFlight 0 (fun f =>
      { f with grafts := [(1, { strand := 0, q := 15, tag := 4, val := 9 })], credits := [(1, { strand := 0, q := 2 })] })
    Table.get? (s.core 0).flight.grafts 1 = some { strand := 0, q := 15, tag := 4, val := 9 } ∧
    Table.get? (s.core 0).flight.credits 1 = some { strand := 0, q := 2 } := by decide +kernel

/-- Task 7, READY, with a handle for code0, SSZ 1, a launch block in a vault: q0 of four slots as queue AQ, the reset images of the fd registers,
SSIZE 1. Core 0 is free. -/
def blockAt : Nat := 2 ^ 30 + 2 ^ 16
def fresh7 : Task :=
  { aTask .ready [] with recd := (((List.replicate 16 0).set 0 (dw (1 + 2 ^ 28))).set 3 (dw (2 ^ 20))).set 10 (dw blockAt) }
@[irreducible] def castBlock : List Byte :=
  bytesLE 8 (2 ^ 27 + 2 ^ 23) ++ List.replicate 248 0 ++ (List.replicate 16 (0x00077430 : Nat)).flatMap (bytesLE 4) ++ List.replicate 16 0 ++ bytesLE 8 16 ++
    bytesLE 8 (2 ^ 8) ++ List.replicate 160 0
@[irreducible] def castState : State :=
  let s := { base with cores := [], codes := [(1, { code0 with entries := 0 :: code0.entries })] }
  taskState (s.putBytes (keyW 0 (2 ^ 16)) castBlock) fresh7
def castReady : Ready :=
  { code := 1, bytes := castBlock, ndim := 1, extents := [0]
    launch := (launchOf 1 (dwords castBlock 64)).getD { queues := [], fds := [], wlimit := 0, mallot := 0, aq := none, grafts := [], sbase := 0, ssize := 0 } }

theorem walk_same (m : Mem) (ps : List Nat) (a b : Nat) : ∀ ls l t, (∀ p ∈ ls, fld a p.1 p.2 = fld b p.1 p.2) → walk m ps a ls l t = walk m ps b ls l t := by
  intro ls
  induction ls with
  | nil => intro _ _ _; rfl
  | cons p ps ih =>
    intro l t h
    simp only [walk, h p (by simp), ih _ _ (fun q hq => h q (by simp [hq]))]
theorem burstsOf_none (ks : List Nat) (h : ∀ k ∈ ks, k < 2 ^ 42) : burstsOf ks = [] := by
  have : ks.filter (fun k => Nat.ble (2 ^ 42) k && Nat.blt k (2 ^ 64)) = [] := by
    refine List.filter_eq_nil_iff.mpr fun k hk hb => ?_
    have h1 := h k hk
    simp only [Bool.and_eq_true] at hb
    exact absurd (Nat.le_of_ble_eq_true hb.1) (by omega)
  simp only [burstsOf, this, List.map_nil]; rfl
theorem takeBursts_none (s : State) (w : Bool) (ks : List Nat) (h : ∀ k ∈ ks, k < 2 ^ 42) : s.takeBursts w ks = (true, s) := by
  simp only [State.takeBursts, burstsOf_none ks h]
theorem reach_local (s : State) (fn va : Nat) (acc : Acc) (h : va < 2 ^ 56) : s.reach 0 fn va acc = ((s.xlate 0 fn va acc).1.va va, (s.xlate 0 fn va acc).2) := by
  have h1 : Nat.ble (2 ^ 57) va = false := by rw [Bool.eq_false_iff]; intro hb; have := Nat.le_of_ble_eq_true hb; omega
  have h2 : bit va 56 = false := by simp only [bit, Nat.div_eq_of_lt h]; rfl
  simp only [State.reach, State.domain, h1, h2, Bool.false_eq_true, if_false, Bool.not_false, if_true]
theorem run_keys (s : State) (f : Nat → Nat) : ∀ n va, va + n ≤ 2 ^ 56 → (∀ a, va ≤ a → a < va + n → s.xlate 0 0 a .read = (.ok (f a), s)) →
    s.xlateRun 0 0 .read va n = (.ok ((List.range n).map (fun i => f (va + i))), s) := by
  intro n
  induction n with
  | zero => intro va _ _; rfl
  | succ n ih =>
    intro va hv h
    have h0 := h va (Nat.le_refl _) (by omega)
    have h1 := ih (va + 1) (by omega) (fun a ha hb => h a (by omega) (by omega))
    simp only [State.xlateRun, reach_local s 0 va .read (by omega), h0, Xl.va, h1]
    rw [List.range_succ_eq_map, List.map_cons, List.map_map]
    have : ((fun i => f (va + i)) ∘ Nat.succ) = fun i => f (va + 1 + i) := by
      funext i; exact congrArg f (by simp only [Nat.succ_eq_add_one]; omega)
    rw [this]; rfl

def castLeaf : Nat := (dw (2 ^ 62 + 2 ^ 61 + 2 ^ 60 + 2 ^ 59 + 3)).toNat
theorem cast_xlate (s' : State) (va : Nat) (h1 : 2 ^ 30 ≤ va) (h2 : va < 2 ^ 30 + 2 ^ 20) (hc : s'.cached 0 0 va = some (castLeaf, 3))
    (hw : s'.walked 0 0 va = .leaf castLeaf 3) : s'.xlate 0 0 va .read = (.ok (keyW 0 (va - 2 ^ 30)), s') := by
  have hm : fld castLeaf 62 2 = 1 := by decide +kernel
  have hb : bit castLeaf 61 = true := by decide +kernel
  have ha : fld castLeaf 12 45 = 0 := by decide +kernel
  have hv : Nat.ble (2 ^ 56) va = false := by rw [Bool.eq_false_iff]; intro h; have := Nat.le_of_ble_eq_true h; omega
  have hmod : va % 2 ^ (levelBits.getD 3 (0, 0)).1 = va - 2 ^ 30 := by simp only [levelBits, List.getD]; simp; omega
  have hlow : (va - 2 ^ 30) % 2 ^ 31 = va - 2 ^ 30 ∧ (va - 2 ^ 30) / 2 ^ 31 % 4 = 0 := by omega
  have hres : Nat.ble 0x01F00000 ((va - 2 ^ 30) % 2 ^ 25) = false := by
    rw [Bool.eq_false_iff]; intro h; have := Nat.le_of_ble_eq_true h; omega
  generalize castLeaf = leaf at *
  have hl : s'.leafOf 0 0 va = (.leaf leaf 3, s') := by
    unfold State.leafOf
    rw [hc, hw]
    simp
  unfold State.xlate
  rw [hl]
  simp only [leafAddr, hv, hb, hm, ha, hmod, Nat.zero_mul, Nat.zero_add, hlow.1, hlow.2, hres, Bool.false_and, Bool.false_eq_true, if_false, Bool.not_true]
/-- 512 bytes from 2 ^ 30 + 2 ^ 16 on have one leaf. -/
theorem one_cached (s : State) (va : Nat) (h1 : 2 ^ 30 + 2 ^ 16 ≤ va) (h2 : va < 2 ^ 30 + 2 ^ 16 + 512)
    (h0 : s.cached 0 0 (2 ^ 30 + 2 ^ 16) = some (castLeaf, 3)) : s.cached 0 0 va = some (castLeaf, 3) := by
  have hk : ∀ l ∈ [2, 3, 4], tlbKey l va = tlbKey l (2 ^ 30 + 2 ^ 16) := by
    intro l hl
    simp only [List.mem_cons, List.not_mem_nil, or_false] at hl
    rcases hl with h | h | h <;> subst h <;> simp only [tlbKey, levelBits, List.getD] <;> simp <;> omega
  rw [← h0]
  simp only [State.cached, List.findSome?, hk 2 (by simp), hk 3 (by simp), hk 4 (by simp)]
theorem one_walked (s : State) (va : Nat) (h1 : 2 ^ 30 + 2 ^ 16 ≤ va) (h2 : va < 2 ^ 30 + 2 ^ 16 + 512)
    (h0 : s.walked 0 0 (2 ^ 30 + 2 ^ 16) = .leaf castLeaf 3) : s.walked 0 0 va = .leaf castLeaf 3 := by
  rw [← h0]
  unfold State.walked
  refine walk_same _ _ _ _ _ _ _ ?_
  intro p hp
  simp only [levelBits, List.mem_cons, List.not_mem_nil, or_false] at hp
  rcases hp with h | h | h | h | h <;> subst h <;> simp only [fld] <;> omega
def leafKeys (n : Nat) : List Nat := (List.range n).map (fun i => keyW 0 (2 ^ 16 + i))
theorem leafKeys_eq (n : Nat) : (List.range n).map (fun i => keyW 0 (2 ^ 30 + 2 ^ 16 + i - 2 ^ 30)) = leafKeys n :=
  List.map_congr_left (fun i _ => congrArg (keyW 0) (by omega))
/-- Bytes read behind that leaf, unpoisoned. -/
theorem reads_leaf (s : State) (n : Nat) (bs : List Byte) (hn : n ≤ 512) (hc : s.cached 0 0 (2 ^ 30 + 2 ^ 16) = some (castLeaf, 3))
    (hw : s.walked 0 0 (2 ^ 30 + 2 ^ 16) = .leaf castLeaf 3) (hlt : ∀ k ∈ leafKeys n, k < 2 ^ 42) (hh : hostLines (leafKeys n) = [])
    (hb : (leafKeys n).map s.byte = bs) (hp : s.poison = []) : s.readVA 0 (2 ^ 30 + 2 ^ 16) n = (.ok bs, s) := by
  have hx : s.xlateRun 0 0 .read (2 ^ 30 + 2 ^ 16) n = (.ok (leafKeys n), s) := by
    rw [← leafKeys_eq]
    exact run_keys _ (fun a => keyW 0 (a - 2 ^ 30)) n _ (by omega) (fun v h1 h2 =>
      cast_xlate _ v (by omega) (by omega) (one_cached s v h1 (by omega) hc) (one_walked s v h1 (by omega) hw))
  generalize leafKeys n = ks at *
  have hbs : ks.map (fun k => if Nat.ble (2 ^ 64) k then s.hostByte 0 (k - 2 ^ 64) else s.byte k) = bs := by
    refine Eq.trans (List.map_congr_left (fun k hk' => ?_)) hb
    have := hlt k hk'
    have : Nat.ble (2 ^ 64) k = false := by rw [Bool.eq_false_iff]; intro h; have := Nat.le_of_ble_eq_true h; omega
    rw [this]; rfl
  have ha : s.takeBursts false ks = (true, s) := takeBursts_none s false ks hlt
  have hg : s.gather 0 s.byte s.poisoned ks = (.ok bs, s) := by
    simp only [State.gather, hp, hh, List.isEmpty_nil, if_true, List.any_nil, Bool.false_eq_true, if_false, List.find?_nil, hbs, State.dropLines]
  simp only [State.readVA, State.vaRead, hx, hg, ha]
/-- A state whose count of served and pointer of the dispatcher were set to something else. -/
def setTurn (s : State) (served ptr : Table Nat) : State := s.modDisp (fun d => { d with served := served, ptr := ptr })
theorem turn_cached (s : State) (a b : Table Nat) (va : Nat) : (setTurn s a b).cached 0 0 va = s.cached 0 0 va := rfl
theorem turn_walked (s : State) (a b : Table Nat) (va : Nat) : (setTurn s a b).walked 0 0 va = s.walked 0 0 va := rfl
theorem turn_byte (s : State) (a b : Table Nat) : (setTurn s a b).byte = s.byte := rfl
theorem turn_poison (s : State) (a b : Table Nat) : (setTurn s a b).poison = s.poison := rfl
theorem turn_handleOk (s : State) (a b : Table Nat) (t : Task) : (setTurn s a b).handleOk 0 t = s.handleOk 0 t := rfl
theorem turn_placeOf (s : State) (a b : Table Nat) (key : Nat) (t : Task) (n : Need) : (setTurn s a b).placeOf key t n = s.placeOf key t n := rfl
theorem castState_reads : castState.cached 0 0 (2 ^ 30 + 2 ^ 16) = some (castLeaf, 3) ∧ castState.walked 0 0 (2 ^ 30 + 2 ^ 16) = .leaf castLeaf 3 ∧
    (leafKeys 512).map castState.byte = castBlock ∧ castState.poison = [] := by decide +kernel
theorem leafKeys_here : (∀ k ∈ leafKeys 512, k < 2 ^ 42) ∧ hostLines (leafKeys 512) = [] := by decide +kernel
theorem cast_reads (a b : Table Nat) : (setTurn castState a b).readVA 0 (2 ^ 30 + 2 ^ 16) 512 = (.ok castBlock, setTurn castState a b) := by
  obtain ⟨h1, h2, h3, h4⟩ := castState_reads
  refine reads_leaf _ 512 _ (Nat.le_refl _) ?_ ?_ leafKeys_here.1 leafKeys_here.2 ?_ ?_
  · rw [turn_cached]; exact h1
  · rw [turn_walked]; exact h2
  · rw [turn_byte]; exact h3
  · rw [turn_poison]; exact h4

theorem fresh7_block : fresh7.dw 10 = 2 ^ 30 + 2 ^ 16 := by decide +kernel
theorem castBlock_need : needIn fresh7 castBlock = castReady.launch.need := by decide +kernel
theorem castBlock_launch : launchOf fresh7.nstg (dwords castBlock 64) = some castReady.launch := by decide +kernel
theorem need_of (s : State) (t : Task) (va : Nat) (bs : List Byte) (n : Need) (hf : t.first = true) (hv : t.dw 10 = va) (hr : s.readVA 0 va 512 = (.ok bs, s))
    (hn : needIn t bs = n) : s.needOf 0 t = (some n, s) := by
  subst hv hn; simp only [State.needOf, hf, if_true, hr]
theorem cast_need (a b : Table Nat) : (setTurn castState a b).needOf 0 fresh7 = (some castReady.launch.need, setTurn castState a b) :=
  need_of _ _ _ _ _ rfl fresh7_block (cast_reads a b) castBlock_need
theorem checks_of (s : State) (t : Task) (va : Nat) (bs : List Byte) (r : Ready) (hh : s.handleOk 0 t = some r.code) (hv : t.dw 10 = va)
    (hr : s.readVA 0 va 512 = (.ok bs, s)) (hl : launchOf t.nstg (dwords bs 64) = some r.launch) (h4 : bit (t.dw 3) 16 = false)
    (he : r.bytes = bs ∧ r.ndim = 1 ∧ r.extents = [t.dw 2]) : s.firstCheck 0 t = (.ok (some r), s) := by
  obtain ⟨c, l, bs', n, x⟩ := r
  obtain ⟨rfl, rfl, rfl⟩ := he
  subst hv
  simp only [State.firstCheck, hh, hr, hl, h4, Bool.false_eq_true, if_false]
theorem castReady_is : castState.handleOk 0 fresh7 = some castReady.code ∧ bit (fresh7.dw 3) 16 = false ∧ castReady.bytes = castBlock ∧ castReady.ndim = 1 ∧
    castReady.extents = [fresh7.dw 2] := by decide +kernel
theorem cast_checks (a b : Table Nat) : (setTurn castState a b).firstCheck 0 fresh7 = (.ok (some castReady), setTurn castState a b) :=
  checks_of _ _ _ _ _ ((turn_handleOk castState a b fresh7).trans castReady_is.1) fresh7_block (cast_reads a b) castBlock_launch castReady_is.2.1 castReady_is.2.2
theorem castState_place : castState.placeOf (taskKey 0 7) fresh7 castReady.launch.need = some ((0, 0, 0), [(0, 0, 0)]) := by decide +kernel
theorem castState_fits : castState.neverFits fresh7 castReady.launch.need.mallot = false := by decide +kernel
theorem turn_self (s : State) : setTurn s s.disp.served s.disp.ptr = s := rfl
theorem castState_tasks : castState.disp.tasks = [(taskKey 0 7, fresh7)] ∧ castState.disp.blocking = none ∧ castState.disp.walks = [] ∧
    castState.dspfn 0 % 256 ≠ 0 := by decide +kernel
theorem witness_cast : OnlyWaiting castState 0 7 fresh7 castReady (0, 0, 0) [(0, 0, 0)] := by
  obtain ⟨h1, h2, h3, h4⟩ := castState_tasks
  refine ⟨by decide, by decide, h1, rfl, rfl, rfl, by decide, h2, h3, h4, by decide, castState, ?_, castState_fits, ?_⟩
  · have := cast_need castState.disp.served castState.disp.ptr
    rwa [turn_self] at this
  · intro a b
    exact ⟨_, _, cast_need a b, (turn_placeOf castState a b _ _ _).trans castState_place, cast_checks a b⟩
/-- Queue AQ of that task. -/
theorem witness_arguments : castReady.launch.aq = some 0 ∧ (castReady.launch.queue 0).wide = false ∧ 2 ≤ (castReady.launch.queue 0).logcap ∧
    (castReady.launch.queue 0).base + 8 * 2 ^ (castReady.launch.queue 0).logcap ≤ 2 ^ 22 ∧ castReady.launch.grafts = [] ∧ Memory.wf castState.mem = true := by
  decide +kernel
/-- A record that is accepted, and one with no save area size. -/
def goodRec : List Dword := ((List.replicate 16 0).set 3 (dw (2 ^ 20)))

theorem witness_spawn : ∀ r ∈ [goodRec, List.replicate 16 0], let s := waiting (.spawn [9] (.words r) 64 0)
    (s.strand 0 0).flow.xwait = some (.spawn [9] (.words r) 64 0) ∧ (s.core 0).flight.settled 0 (s.strand 0 0).flow.bno = true ∧
    ((s.modFlight 0 (fun f => { f with stores := [(1, aStore true)] })).core 0).flight.settled 0 (s.strand 0 0).flow.bno = false ∧
    (r = goodRec → okWith (· == []) (s.vet 0 (spawnRecord r 7 64) 0) = true) ∧
    (r ≠ goodRec → badWith 0x18 (s.vet 0 (spawnRecord r 7 64) 0) = true) := by decide +kernel

/-- TFORK of 64 children by task 7. -/
theorem witness_fork : let s := taskState (waiting (.fork [] 64 (.words goodRec) 0)) (aTask .running [(0, 0, .cast)])
    (s.strand 0 0).flow.xwait = some (.fork [] 64 (.words goodRec) 0) ∧ s.task? (taskKey 0 7) = some (aTask .running [(0, 0, .cast)]) ∧
    (match (s.fork 7 (aTask .running [(0, 0, .cast)]) 64 (some goodRec)).1 with | .ok kids => kids.length == 64 | _ => false) = true := by decide +kernel

def aWalk (stopped : Bool) (found : List Nat) : Walk := { fn := 0, root := 7, by_ := (0, 0), stopped := stopped, found := found, pend := some 9 }
theorem witness_bindOff : let g := aTask .running [(0, 0, .cast)]
    let s := fun w => ((taskState base g).modDisp (fun d => { d with walks := [(3, w)] })).modFlight 0 (fun f => { f with pends := [(9, aPend 2)] })
    Table.get? (s (aWalk false [])).disp.walks 3 = some (aWalk false []) ∧ (s (aWalk false [])).taskOfId 0 7 = some (7, g) ∧
    (s (aWalk false [])).captured 7 = false ∧ ((s (aWalk true [7])).task? 7).isSome = true ∧
    Table.wf (s (aWalk true [7])).disp.tasks = true ∧ Table.get? ((s (aWalk true [7])).core 0).flight.pends 9 = some (aPend 2) := by decide +kernel

/-- A task named by the strand's own ID and by an ID with no task. -/
theorem witness_ids : let s := taskState base (aTask .running [(0, 0, .cast)])
    (s.taskOfId 0 7).isSome = true ∧ s.taskOfId 0 8 = none := by decide +kernel

/-- A table of one member: domain entry 0 of a module whose entry 0 is enabled; a group number of 64. -/
theorem witness_agset : let h := dw (2 ^ 56)
    let s := { waiting (.agset (.words [1, h]) 63 0) with fab := { dom := [(0, dw (2 ^ 63))] } }
    (s.strand 0 0).flow.xwait = some (.agset (.words [1, h]) 63 0) ∧ h.toNat / 2 ^ 56 = 1 ∧ s.inDomain h = true ∧
    s.memberPod h = some 0 ∧ s.endToEnd 0 0 = false ∧ s.groupBusy 0 63 = false ∧
    ((waiting (.agset (.words []) 64 0)).strand 0 0).flow.xwait = some (.agset (.words []) 64 0) := by decide +kernel

/-! The stitch row. -/

/-- SHDR with II 1, NS 1; SELEM 0, SCTX 0; SADD of the input port's lanes (code 65) and register 33 into register 0; and a bad image. -/
def goodImage : List Dword :=
  [dw (0x30 * 2 ^ 58), dw (0x31 * 2 ^ 58), dw (0x32 * 2 ^ 58), dw (2 ^ 58 + 65 * 2 ^ 39 + 33 * 2 ^ 32)]
theorem witness_image : (match readImage goodImage with | .ok (g, _) => g.ii == 1 && g.ns == 1 | .error _ => false) = true ∧
    (match readImage [0] with | .error i => i == 0 | .ok _ => false) = true := by decide +kernel

theorem witness_load : ∀ ws ∈ [goodImage, [0]], let s := base.modCore 0 (fun x => { x with row := { x.row with load := some (0, ws) } })
    (s.core 0).row.load = some (0, ws) ∧ 0 ≤ (s.core 0).cyc := by decide +kernel

/-- A configuration with that operation. -/
def aCfg : RowCfg := { ii := 1, ns := 1, mask := 0, redop := 0, ops := [(0, dw (2 ^ 58 + 65 * 2 ^ 39 + 33 * 2 ^ 32))], index := [] }
def aWrite : RowWrite := { at_ := 0, elem := 0, ctx := 0, dst := 63, keep := 0xFFFF, vals := List.replicate 16 7 }
def aRun (r : RowRun) : State := (opState (anOp .strun .working)).modCore 0 (fun x => { x with row := { x.row with cfg := some aCfg, run := some r } })
def run0 : RowRun := { strand := 0, op := 3, bno := 0, n := 2, port0 := none, port1 := none, omode := 0, oq := 0, otag := 0, base := 0, stride := 256, fds := [], due := 0 }

/-- The first half of the last row cycle but one, in which no input is due. -/
def runOp : RowRun := { run0 with n := 1, t := 1 }
/-- The configuration with two stages and the operation in the second. -/
def cfg2 : RowCfg := { aCfg with ns := 2, ops := [(0, dw (2 ^ 58 + 2 ^ 55 + 65 * 2 ^ 39 + 33 * 2 ^ 32))] }
/-- Element 0 executes, in the second stage: each class of operation of R159 and R160 with lane sources (65 the port's lanes, 33 a register)
and the other fields of its word; the fold of an SRED ends two row cycles on. -/
def rowWith (op rest : Nat) (r : RowRun) : State :=
  (aRun r).modCore 0 (fun x => { x with row := { x.row with cfg := some { cfg2 with ops := [(0, dw (op * 2 ^ 58 + 2 ^ 55 + 65 * 2 ^ 39 + 33 * 2 ^ 32 + rest))] } } })
theorem witness_executes : ∀ x ∈ [(1, 0), (6, 0), (8, 0), (9, 4 * 3), (0x0A, 4 * 4), (0x0B, 0), (0x0C, 2 ^ 5 * 3), (0x0D, 0), (0x0E, 0), (0x0F, 0), (0x10, 0)],
    let s := rowWith x.1 x.2 runOp
    let g : RowCfg := ((s.core 0).row.cfg).getD aCfg
    let d := (Table.get? g.ops 0).getD 0
    Executes s 0 0 d runOp g ∧ xf d.toNat 58 6 = x.1 ∧ (runOp.inAt g = none ∨ runOp.ports = []) ∧
    (x.1 = 9 → xf d.toNat 32 7 + xf d.toNat 2 3 + 2 ≤ 64) ∧ (x.1 = 0x0A → xf d.toNat 2 3 ≤ 4) ∧ MakesSred runOp g 0 = (x.1 == 0x0E) ∧
    16 * laneWidth (xf d.toNat 2 3) ≤ 2048 := by unfold Executes RowAt Wide16; decide +kernel
/-- An SIN of an FP32 slot at hand, and of one with another tag. -/
theorem witness_sin : ∀ t ∈ [0x0B, 0x09], let r := { runOp with slots := [(0, (7, t, 1, 0))] }
    let s := rowWith 0x0F 0 r
    let g : RowCfg := ((s.core 0).row.cfg).getD aCfg
    Executes s 0 0 ((Table.get? g.ops 0).getD 0) r g ∧ Table.get? r.slots (2 * (r.t / g.ii - 1) + 0) = some (7, t, 1, 0) ∧ inTag 0 = 0x0B ∧
    (s.op? r.op).isSome = true := by unfold Executes RowAt Wide16; decide +kernel
/-- A fold that becomes RU in this row cycle; a predicate that lands; an output slot that goes to a queue. -/
theorem witness_rowRest : (let s := (aRun runOp).modCore 0 (fun x => { x with row := { x.row with ruNext := [(1, 3, zeros16)] } })
     RowAt s 0 runOp aCfg false ∧ s.rowStalls 0 runOp aCfg = false ∧ runOp.omode ≠ 1) ∧
    (let r := { run0 with mid := true, writes := [{ aWrite with dst := 67 }] }
     RowAt (aRun r) 0 r aCfg true ∧ r.writes.length = 1) ∧
    (let r := { run0 with mid := true, omode := 3, oq := 7, otag := 0x0D }
     let x := (aRun r).queue 0 0 7
     RowAt (aRun r) 0 r aCfg true ∧ r.fail = none ∧ r.outAt aCfg = some 0 ∧ x.wide = true ∧ x.base + 256 * 2 ^ x.logcap ≤ 2 ^ 22) := by
  unfold RowAt; decide +kernel

theorem witness_rowLand : let r := { run0 with mid := true, writes := [aWrite] }
    RowAt (aRun r) 0 r aCfg true ∧ Table.getD ((aRun r).core 0).row.regs 63 zeros16 = zeros16 ∧ zeros16.length = 16 := by unfold RowAt; decide +kernel

/-- The middle of a row cycle: no output due; the last row cycle of a run; an output due in P and in W. -/
theorem witness_rowEnd : let r := { run0 with n := 1, mid := true }
    RowAt ((aRun r).modCore 0 (fun x => { x with row := { x.row with cfg := some cfg2 } })) 0 r cfg2 true ∧ r.outAt cfg2 = none ∧ r.fail = none ∧
    (let r1 := { run0 with mid := true }; let g : RowCfg := { aCfg with ii := 2 }
     r1.outAt g = none ∧ RowAt ((aRun r1).modCore 0 (fun x => { x with row := { x.row with cfg := some g } })) 0 r1 g true) := by unfold RowAt; decide +kernel
theorem witness_rowOut : ∀ m ∈ [1, 2], let r := { run0 with omode := m, mid := true }
    RowAt (aRun r) 0 r aCfg true ∧ r.fail = none ∧ r.outAt aCfg = some 0 ∧ (aRun r).addrBad 0 0 (m == 2) 0 256 64 = none := by unfold RowAt; decide +kernel
theorem witness_rowIn : let r := { run0 with port0 := some 1 }
    RowAt (aRun r) 0 r aCfg false ∧ (aRun r).rowStalls 0 r aCfg = false ∧ r.inAt aCfg = some 0 := by unfold RowAt; decide +kernel
theorem witness_rowDone : let r := { run0 with last := true }
    (aRun r).op? 3 = some (anOp .strun .working) ∧ ((aRun r).core 0).row.run = some r ∧ ((aRun r).core 0).rowStoring r = false := by decide +kernel
/-! Pumps. -/

def aProg : Prog := { op := 3, fn := 0, task := 7, core := 0, strand := 0, w := false, padr := 0, ladr := 64, nsl := 1, phase := .running, slots := [3 * 2 ^ 14] }
/-- base with PUMP operation 3 and pump 0; words stand in P from byte 16 on, a page entry of page group 0, bank 3 at byte 64. -/
def pumpState (ws : List Nat) (p : Pump) : State :=
  ({ opState (anOp (.pump 0 0) .working) with pumps := [(0, p)] }.putBytes (keyP 0 16) (ws.flatMap (bytesLE 8))).putBytes (keyP 0 64) (bytesLE 8 (2 ^ 63 + 3 * 2 ^ 14))
def openHist : PHist := { banks := [(3, { opened := some (0, 5) })] }
def running (open_ : Bool) : Pump := { prog := some aProg, hist := if open_ then openHist else {} }

/-- A word of each command that passes its checks: CMD, whether bank 3 is open, the word. -/
def pumpWords : List (Bool × Nat) :=
  [(false, 0x1000000000000003), (true, 0x2000000000000003), (true, 0x3000000000000003), (true, 0x4000000000000003), (true, 0x5000000000000000),
   (false, 0x6000000000000000), (false, 0x7000000000000003), (false, 0x8000000000010000), (false, 0x9000000000000000), (false, 0xF000000000000000)]

/-- The hypotheses AtWord and Passes of every command; a KSIG's tail is a PEND. -/
theorem witness_commands : ∀ x ∈ pumpWords, let p := running x.1
    let s := pumpState [x.2, 0xF000100000000000] p
    (s.pump 0).prog = some aProg ∧ (s.pump 0).ended = [] ∧ (s.pump 0).data = [] ∧ (s.pump 0).timer = none ∧
    (match s.progWord aProg 2 with | .ok v => v == x.2 | .error _ => false) = true ∧ pumpDelta x.2 = 0 ∧
    ((decodePump 0 x.2).bind Instr.pumpWord) = some x.2 ∧ s.cmdTrap (s.pump 0) aProg 2 x.2 0 = none := by decide +kernel
/-- An ACT of an open bank. -/
theorem witness_badAct : let s := pumpState [0x1000000000000003] (running true)
    (s.cmdTrap (s.pump 0) aProg 2 0x1000000000000003 0).isSome = true := by decide +kernel

theorem witness_bind : let g := { aProg with phase := .queued, slots := [] }
    let s := (pumpState [] { queue := [g] }).modEnv (fun e => { e with ck := 1 })
    (s.pump 0).prog = none ∧ (s.pump 0).queue = [g] ∧ g.start < s.env.ck ∧
    (match s.bindProg g 0 with | .ok g1 => g1.slots.length == 1 | .error _ => false) = true := by decide +kernel
theorem witness_startProg : let g := { aProg with phase := .bound }
    ((pumpState [] { prog := some g }).pump 0).prog = some g ∧ g.start ≤ (pumpState [] { prog := some g }).env.ck := by decide +kernel

def aData (route dest : Nat) : PData := { op := 3, due := 0, word := 2, off := 0, route := route, part := 0, dest := dest, bytes := List.replicate 32 7 }
theorem witness_data : ∀ x ∈ [(0, keyW 0 0), (1, 4 * 16), (3, keyL 0)], let d := aData x.1 x.2
    let s := pumpState [] { data := [(5, d)] }
    Table.get? (s.pump 0).data 5 = some d ∧ (s.op? 3).isSome = true ∧ (s.op? 3).any (fun e => !(s.routeKeys d e).any (s.opEarly e)) = true ∧ d.bytes.length = 32 ∧ 4 ≤ (s.queue 0 0 0).free ∧ (s.queue 0 0 0).wide = false := by decide +kernel

/-- The timer raises D to 1, and to 9 with a program running. -/
theorem witness_timer : ∀ n ∈ [0, 8], let p := { running false with timer := some 0, owed := n }
    ((pumpState [] p).pump 0).timer = some 0 ∧ ((pumpState [] p).pump 0).owed = n := by decide +kernel
theorem witness_owed : let p : Pump := { owed := 9 }
    p.legal 6 0 0 = true ∧ p.cmdAt ≠ some 0 := by decide +kernel
/-- Channel 3 copies the last of the 32 rows of page group 0's page 5 to page 6. -/
theorem witness_dynamic : let e := { anOp (.psplit 4096 6) .working with vals := [(0, 5), (1, 6), (5, 31)], next := 127 }
    let s := { opState e with fab := { (opState e).fab with calls := [⟨false, [], [3], some 3⟩] } }
    s.pumpNext 3 = some .split ∧ (s.splitNext 3).map (fun x => (x.1, x.2.1.next, x.2.2.1, x.2.2.2.1, x.2.2.2.2.1)) = some (3, 127, 5, 6, 31) ∧
    splitRows e.vals 3 = 31 := by decide +kernel
/-- A scrub of a channel that a program holds has no turn; of a free one it has. -/
theorem witness_scrub : ((pumpState [] (running false)).scrubReads .lpddr (keyL 0)).1 = false ∧ (base.scrubReads .lpddr (keyL 0)).1 = true := by
  decide +kernel
/-- No history: every command passes; a RD of an open bank 24 cycles after its ACT. -/
theorem witness_minima : let p := { running true with hist := { banks := [(3, { opened := some (0, 5), act := some 0 })], acts := [(0, 3)] } }
    (pumpState [] p).cmdTrap p aProg 3 0x2001800000000003 24 = none ∧ (pumpState [] p).cmdTrap p aProg 3 0x2001700000000003 23 ≠ none := by decide +kernel
/-! Links. -/

/-- base with port 0 up and module 1 one hop away over it; the function's VA space of base. -/
def linked : State := { base with fab := { ports := [(0, { en := true, up := true })], routes := [(1, dw (2 ^ 24 + 1))] } }
/-- A flit of TYPE `typ` from module 1 to module 0 for function 0 with transaction 5. -/
def flitOf (typ ofs : Nat) (last : Bool) (u : BitVec 768) : Flit := withCrc
  { header := dw (typ * 2 ^ 60 + 2 ^ 36 + (if last then 2 ^ 27 else 0) + 5 * 2 ^ 16 + ofs), payload := u, auth := 0, seq := 0, ack := 0, nak := false, crc := 0 }

/-- A flit arrives at a port that seals nothing, in a state that differs from linked in what the port does not look at. -/
theorem witness_arrives : ∀ p ∈ [(0, 0, false), (1, 1, true), (2, 0, true), (3, 1, true), (4, 0, true), (4, 1, false), (5, 1, false), (6, 1, true), (7, 1, true), (8, 0, false), (9, 0, false)],
    let typ := p.1; let ofs := p.2.1; let last := p.2.2
    let f := flitOf typ ofs last 0
    crcPasses f = true ∧ f.seq.toNat = (linked.port 0).rxSeq ∧ hTYPE f = typ ∧ hE2E f = false ∧ hDST f = linked.fab.modid ∧ hSRC f = 1 ∧ hFN f = 0 ∧ hTID f = 5 ∧
    hOFS f = ofs ∧ hLAST f = last ∧ (linked.port 0).up = true ∧ (linked.port 0).hbh = false ∧ (linked.port 0).retry = [] := by decide +kernel
theorem arrives_linked (typ : Nat) (f : Flit) (h : hTYPE f = typ ∧ typ ≤ 9 ∧ hE2E f = false ∧ hDST f = 0 ∧ crcPasses f = true ∧ f.seq = 0) :
    Arrives linked 0 f typ f.payload (linked.modPort 0 received) := by
  obtain ⟨h1, h2, h3, h4, h5, h6⟩ := h
  exact ⟨by decide +kernel, by decide +kernel, h5, by rw [h6]; decide +kernel, h1, h2, h3, .inr (.inr h4), .inl ⟨by decide +kernel, rfl, rfl⟩⟩

/-- A port that seals: a flit with the tag of its key, and one with another tag. -/
def sealing : State := linked.modPort 0 (fun x => { x with hbh := true, keys := [(0, { key := 1, salt := 2 })] })
def aKey : SealKey := { key := 1, salt := 2 }
def sealedFlit : Flit := withCrc { flitOf 0 0 false 0 with auth := aKey.tag 0 (flitOf 0 0 false 0).header 0 }
theorem witness_sealed : Arrives sealing 0 sealedFlit 0 (aKey.crypt 0 0)
    (sealing.modPort 0 (fun y => { received y with keys := Table.set y.keys y.epoch { aKey with rx := 1 } })) :=
  ⟨by decide +kernel, by decide +kernel, by decide +kernel, by decide +kernel, by decide +kernel, by decide, by decide +kernel, .inl rfl,
   .inr ⟨by decide +kernel, aKey, by decide +kernel, rfl, rfl, rfl⟩⟩
theorem witness_forged : (flitOf 0 0 false 0).auth ≠ aKey.tag 0 (flitOf 0 0 false 0).header (flitOf 0 0 false 0).payload ∧
    crcPasses (flitOf 0 0 false 0) = true ∧ crcPasses { flitOf 0 0 false 0 with payload := 1 } = false := by decide +kernel

/-- A flit resent, one NAK short of the limit and at it; a key's last seal; a port that is down for long. -/
theorem witness_ports : let x := { (linked.port 0) with retry := [flitOf 0 0 false 0], naks := some (0, 14) }
    nakRun x 0 = 15 ∧ x.retry.take 512 = [] ++ flitOf 0 0 false 0 :: [] ∧ (flitOf 0 0 false 0).seq = 0 ∧ nakRun { x with naks := some (0, 15) } 0 = 16 ∧
    (let y : Port := { en := true, downAt := 3 }; y.up = false ∧ y.downAt + 1000000 ≤ 1000003) ∧
    (let y : Port := { en := true, train := true }; y.up = false ∧ y.newEp = none) := by decide +kernel

theorem toward_linked : Toward linked 0 1 5 0 := ⟨by decide +kernel, by decide +kernel, fun era => by cases era <;> rfl⟩
def unitOf_ (va n : Nat) : BitVec 768 := BitVec.ofNat 768 (va + n * 2 ^ 64)
/-- The request that a flit of module 1 brings, for two units of data at a VA. -/
def aRequest (va : Nat) : Served := { flit := flitOf 1 0 true (unitOf_ va 100), reply := 2, va := va, len := 100, bytes := [], last := true }
/-- A read of two units of data; of a VA with no leaf; of a channel that a program holds. The same for a write. -/
theorem witness_requests :
    (let s := queued linked (aRequest 0)
     (okWith (fun ks => ks.length == 100 && ks.all (fun k => Nat.blt k (2 ^ 64)) && (s.takeBursts false ks).1 && (s.takeBursts true ks).1)
       (s.xlateRun 0 0 .read 0 100) = true) ∧ s.poison = [] ∧ linked.fab.inq = []) ∧
    badWith 0x0A ((queued linked (aRequest (2 ^ 31))).readVA 0 (2 ^ 31) 100) = true ∧
    badWith 0x0A ((queued linked (aRequest (2 ^ 31))).writeVA 0 (2 ^ 31) [1]) = true ∧
    (let s := queued { linked with pumps := [(0, running false)] } (aRequest 0)
     waitsFor (s.readVA 0 0 100) = true ∧ waitsFor (s.writeVA 0 0 [1]) = true) ∧
    InStatus { cause := 0x0A, va := 2 ^ 31, addr := 2 ^ 31, aux := 2 } := by unfold InStatus; decide +kernel
/-- A fill for a store of another module: a page that may be written, and one of a vault that may not (R273). -/
theorem witness_storeFill : (linked.storeRefused 0 0 (2 ^ 30)).1 = none ∧
    (({ linked with dies := [(0, { state := .full })] }.putBytes (keyL (2 ^ 32 + 0x3000)) (bytesLE 8 (2 ^ 62 + 2 ^ 61 + 2 ^ 59 + 3))).storeRefused 0 0 (2 ^ 30)).1 =
      some { cause := 0x0A, va := 2 ^ 30, addr := 2 ^ 30, aux := 11 } ∧ (unitOf_ 0 100 + BitVec.ofNat 768 (2 ^ 128)).getLsbD 128 = true := by decide +kernel
/-- A flit sealed end to end for which no key is held (R406). -/
theorem witness_unopened : ∀ typ ∈ [1, 3, 6], let f := withCrc { flitOf typ 0 true 0 with header := (flitOf typ 0 true 0).header + dw (2 ^ 28) }
    (linked.port 0).up = true ∧ (linked.port 0).retry = [] ∧ crcPasses f = true ∧ f.seq.toNat = (linked.port 0).rxSeq ∧ hE2E f = true ∧ hTYPE f = typ ∧
    hDST f = linked.fab.modid ∧ (linked.fnFab (hFN f)).openers f = [] ∧ Table.get? linked.fab.inb (hSRC f * 2 ^ 11 + hTID f) = none ∧ linked.fab.inq = [] := by
  decide +kernel
theorem witness_inbound : let x : Inbound := { va := 0, len := 100 }
    let s := { linked with fab := { linked.fab with inb := [(2 ^ 11 + 5, x)] } }
    Table.get? s.fab.inb (hSRC (flitOf 3 1 true 0) * 2 ^ 11 + hTID (flitOf 3 1 true 0)) = some x ∧ x.bad = none ∧ (unitData 0 96 x.len).length = 4 := by decide +kernel

def aTxn (k : TxnKind) : Txn := { op := 3, fn := 0, peer := 1, port := 0, kind := k, index := 1, addr := 0, va := 0, len := 100 }
theorem witness_txns : ∀ x ∈ [(2, TxnKind.read, OpKind.copy 0 0), (4, .write, .copy 0 0), (7, .member, .mldr 0 0 0 0)],
    let e := anOp x.2.2 .working
    let s := { opState e with fab := { linked.fab with txns := [(5, aTxn x.2.1)], mldrs := [(3, { op := 3, fn := 0, base := 0, members := [0, 0], sent := 0, replies := [] })] } }
    ForTxn s (flitOf x.1 1 true 0) x.2.1 (aTxn x.2.1) e ∧ (Table.get? s.fab.mldrs 3).isSome = true := by unfold ForTxn; decide +kernel

/-- The descriptor of the example after R314, and a COLL of three ranks under way. -/
def aDesc : List Nat := [0x4000000000, 0x4000010000, 0x10480A92CB, 0x4004002, 0x4000020000, 0x4000000040, 0, 0]
def aColl : Coll := { op := 3, fn := 0, seq := 9, addr := 0x200, first := 0, since := 0, my := 0, desc := aDesc, ranks := [0, 1, 2, 3], saw := [(0, [])] }
/-- The name of a chunk of the second step: of rank 1, the sums of segment 0. -/
def aName : Nat := 2 ^ 16 + 2 ^ 24
def collState (x : Coll) : State :=
  { opState (anOp (.coll 0x200 9) .working) with fab := { linked.fab with
      colls := [(3, x)], inb := [(2 ^ 23 + 2 ^ 11 + 5, { va := 9 + aName * 2 ^ 32, len := 9 })], ctmo := 1 } }
theorem witness_coll : let s := collState aColl
    Table.get? s.fab.inb (2 ^ 23 + hSRC (flitOf 5 1 false 0) * 2 ^ 11 + hTID (flitOf 5 1 false 0)) = some { va := 9 + aName * 2 ^ 32, len := 9 } ∧
    s.collOf 0 ((9 + aName * 2 ^ 32) % 2 ^ 32) = some (3, aColl) ∧ s.coll? 3 = some aColl ∧ (s.op? 3).isSome = true ∧ Hale aColl ∧
    valueBytes aColl aName = 9 ∧ (unitData 0 0 9).length = 9 ∧ aColl.passOn (chunkOf aName [0]) = (true, none) ∧
    aColl.heardAll = false ∧ 1 ∉ aColl.dones ∧ s.collOf 0 10 = none ∧
    aColl.writing = false ∧ aColl.silent = some 1 ∧ aColl.fail = none ∧ (s.modEnv (fun x => { x with ns := 1000 })).env.ns = aColl.clock + s.fab.ctmo * 1000 ∧
    s.fab.early = [] := by unfold Hale; decide +kernel
/-- The last of the ranks is done; the record has its place in P; a rank that started the same collective under another number. -/
theorem witness_collEnd :
    (let x := { aColl with saw := [(0, []), (1, []), (2, []), (3, [])], dones := [0, 1, 2], piece := cPieces aDesc, chunks := 1, result := [1] }
     x.heardAll = true ∧ Hale x ∧ x.writing = false ∧ ceilDiv x.result.length (2 ^ chLog (cDstBytes x.desc x.my)) ≤ x.chunks ∧
       x.my ∈ x.dones ∧ 3 ∉ x.dones ∧ x.dones.length + 1 = x.ranks.length) ∧
    (collState aColl).addrBad 0 0 false (0x240 : Nat) 1088 1 = none ∧ ((collState aColl).addrBad 0 0 false (2 ^ 22 : Nat) 1088 1).isSome = true ∧
    (match ((collState aColl).spots (anOp (.coll 0x200 9) .working) 0 true 0 [0x240]).1 with | .ok xs => xs == [Spot.here (keyP 0 0x240)] | _ => false) = true := by unfold Hale; decide +kernel
/-- Rank 1 is heard with the words of rank 0, and with others. -/
theorem witness_heard : aColl.ranks.Nodup ∧ aColl.ranks[1]? = some (hSRC (flitOf 8 0 false 0)) ∧
    (let y := heardOf aColl 1 [] 7 5; Hale y ∧ y.heardAll = false) ∧
    (let y := heardOf aColl 1 [1] 7 5; y.fail = none ∧ y.differs = some 1 ∧ y.writing = false) := by unfold Hale; decide +kernel
theorem witness_otherNumber : let q : Heard := { fn := 0, seq := 8, pod := 1, rank := 1, words := collWords aDesc [0, 1, 2, 3], ends := 0, at_ := 0 }
    aColl.heardAll = false ∧ q.fn = aColl.fn ∧ q.seq ≠ aColl.seq ∧ rankOf? aColl.ranks q.pod = some 1 ∧ q.words = collWords aColl.desc aColl.ranks :=
  ⟨by decide, rfl, by decide, by decide, rfl⟩
theorem witness_member : let x : Mldr := { op := 3, fn := 0, base := 0, members := [0, 0], sent := 5 }
    1 < x.members.length ∧ Table.get? x.replies 1 = none ∧ x.sent + 1000000 ≤ 1000005 := by decide +kernel
/-! The host. -/

/-- The record goodRec as the host writes it (dwords in order), with NOTIFY at VA 4096 or none, and one that is refused. -/
def recBits (ds : List Dword) : BitVec 1024 := BitVec.ofNat 1024 ((ds.zip (List.range 16)).foldl (fun a x => a + x.1.toNat * 2 ^ (64 * x.2)) 0)
theorem witness_taskPort : ∀ p ∈ [0, 6], 
    okWith (· == []) (base.vet 0 (portRecord (recBits (goodRec.set 12 (dw 4096))) p) p) = true ∧
    badWith 0x18 (base.vet 0 (portRecord (recBits (List.replicate 16 0)) p) p) = true ∧
    notifyOf (portRecord (recBits (goodRec.set 12 (dw 4096))) p) = 4096 ∧
    okWith (fun ks => ks.length == 8 && (base.takeBursts true ks).1) ((base.errcnt 0 false).xlateRun 0 0 .write 4096 8) = true ∧
    (base.fnHost 0).posted = [] ∧ base.disp.jobs = [] := by decide +kernel
/-- A record whose page list lies in a channel that a program holds; a posted write that waits for it. -/
theorem witness_posted : let s := { base with pumps := [(0, running false)] }
    waitsFor (s.vet 0 (portRecord (recBits (goodRec.set 8 1)) 0) 0) = true ∧ (s.doPosted 0 (.aperture 0 [1])).1 = false ∧
    (base.doPosted 0 (.aperture 0 [1])).1 = true := by decide +kernel
/-- The three states of the host interface that a port looks at. -/
theorem witness_recovery : (base.modHost (fun h => { h with recover := true })).host.recover = true ∧ base.host.recover = false ∧
    ((base.modFnHost 3 (fun h => { h with resetting := true })).fnHost 3).resetting = true := by decide +kernel

/-- An aperture on VA 0; one whose domain entry is absent; a channel that a program holds. -/
theorem witness_aperture : base.apertureVA 0 64 = some 64 ∧
    (base.modFnHost 0 (fun h => { h with apbase := 2 ^ 56 })).apertureVA 0 64 = none ∧
    okWith (fun ks => ks.all (fun k => Nat.blt k (2 ^ 64)) && (base.takeBursts false ks).1 && (base.takeBursts true ks).1) (base.xlateRun 0 0 .read 64 8) = true ∧
    waitsFor ((pumpState [] (running false)).readVA 0 0 8) = true ∧ waitsFor ((pumpState [] (running false)).writeVA 0 0 [1, 2]) = true ∧
    badWith 0x0A (base.readVA 0 (2 ^ 31) 8) = true ∧ badWith 0x0A (base.writeVA 0 (2 ^ 31) [1]) = true := by decide +kernel

/-- A closing code object that a task names and one that none names. -/
theorem witness_unload : let x := { code0 with st := .closing }
    let g := { aTask .ready [] with recd := goodRec.set 0 1 }
    (taskState base g).named 1 x = true ∧ (taskState base g).named 2 x = false ∧ Table.wf base.codes = true ∧
    (∀ y ∈ base.codes, y.2.st = .loaded → ∀ d ∈ base.serving, (Table.get? y.2.pages d).isSome = true) := by decide +kernel
theorem witness_toUnload : (base.toUnload 0 (1 + 2 ^ 28)).isSome = true ∧ base.toUnload 0 2 = none := by decide +kernel

/-- Requests that fail at each check: addresses, a VA with no leaf, bytes that are no object. -/
theorem witness_loading : let s := base.modFnHost 0 (fun h => { h with busy := true, ldreq := [0, 64, 0, 0] })
    Loading s 0 0 64 0 0 ∧ badWith 0x0A (s.readVA 0 (2 ^ 31) 64) = true ∧ okWith (fun bs => (parseObject bs).isNone) (s.readVA 0 0 64) = true := by
  unfold Loading; decide +kernel
/-- A portable object of 68 bytes of segments: entry word and one word of code (R280 to R282), of spec version 6. -/
def anObject (spcver : Nat) : List Byte :=
  let seg := fun (t off size : Nat) => bytesLE 4 t ++ bytesLE 4 0 ++ bytesLE 8 off ++ bytesLE 8 size ++ bytesLE 8 0
  bytesLE 4 0x314F5158 ++ bytesLE 2 0 ++ bytesLE 2 spcver ++ bytesLE 4 2 ++ bytesLE 4 1 ++ seg 4 128 8 ++ seg 6 192 64 ++ List.replicate 176 0
theorem witness_objects : (∃ o, parseObject (anObject 6) = some o ∧ accepted base.host.slots o (anObject 6) = .error 4) := by
  have h : (match parseObject (anObject 6) with | some o => o.native.isNone && o.spcver == 6 | none => false) = true := by decide +kernel
  cases ho : parseObject (anObject 6) with
  | none => rw [ho] at h; simp at h
  | some o =>
    rw [ho] at h
    simp only [Bool.and_eq_true, Option.isNone_iff_eq_none, beq_iff_eq] at h
    exact ⟨o, rfl, by simp [accepted, h.1, h.2, Nat.blt]⟩
/-- Whatever the translator gives for an object: where it gives one bundle of text, a load finds its leaves, its entry and its pages; the
page table of the four dies is one table that points to itself. With 4095 objects loaded there is no entry. -/
def textState : State :=
  { base with dies := [(0, { state := .full })], host := { base.host with ptroot := [(0, 2 ^ 18), (1, 2 ^ 18), (2, 2 ^ 18), (3, 2 ^ 18)] } }.putBytes (keyL (2 ^ 18)) (bytesLE 8 (2 ^ 18 + 1))
def anImage : TextImage := { text := List.replicate 64 0, entries := [0], blocks := [] }
theorem witness_image_loads : textState.textReady 0 (2 ^ 18) 1 = true ∧ textState.textReady 0 0 1 = false ∧
    (match parseObject (anObject 1) with
     | some o => (textState.loadImage 0 o anImage (anObject 1) (2 ^ 18) 0).1 == .ok (2 + 2 ^ 28 + 2 ^ 29)
     | none => false) = true := by decide +kernel
/-- A text page of die 0 with a poisoned unit, its copy on die 1. -/
theorem witness_repair : let x := { code0 with pages := [(0, [0]), (1, [5])] }
    let s := { base with codes := [(1, x)], poison := [keyW 0 (textPageW 0)], dies := [(0, { state := .full }), (1, { state := .full })] }
    (Table.getD x.pages 0 [])[0]? = some 0 ∧ s.serving.filter (fun n => n != 0) = [1] ∧ (Table.getD x.pages 1 [])[0]? = some 5 ∧
    (s.firstPoison (pageUnits 0 0)).isSome = true ∧ s.firstPoison (pageUnits 1 5) = none := by
  refine ⟨by decide +kernel, by decide +kernel, by decide +kernel, by decide +kernel, ?_⟩
  refine List.find?_eq_none.mpr fun k hk => ?_
  have h : 2 ^ 34 + 2 ^ 31 ≤ k ∧ k < 2 ^ 42 := by
    simp only [pageUnits, List.mem_map] at hk
    obtain ⟨i, hi, rfl⟩ := hk
    have : i < 16384 := List.mem_range.mp hi
    simp only [keyW, textPageW]; omega
  have hs : unitSize k = 16 := by simp only [unitSize]; rw [if_neg (by omega), if_pos (by omega)]
  simp only [State.poisoned, unitOf, hs, List.contains_cons, List.contains_nil, Bool.or_false, beq_iff_eq, keyW, textPageW]
  omega
/-- A native object: NATGEN 1, an entry, one bundle of text, a SIGN. -/
def aNative : List Byte :=
  let seg := fun (t off size : Nat) => bytesLE 4 t ++ bytesLE 4 0 ++ bytesLE 8 off ++ bytesLE 8 size ++ bytesLE 8 0
  bytesLE 4 0x314F5158 ++ bytesLE 2 1 ++ bytesLE 2 0 ++ bytesLE 4 3 ++ bytesLE 4 0 ++ seg 4 128 4 ++ seg 1 192 64 ++ seg 5 256 2828 ++ List.replicate 2972 0
theorem witness_native : (parseObject aNative).any (fun o => o.native.isSome) = true ∧ aNative.length = 3084 := by decide +kernel
/-- An object in the function's memory is read as it is. -/
def objectState : State := base.putBytes (keyW 0 (2 ^ 16)) (anObject 6)
theorem objectState_reads : objectState.cached 0 0 (2 ^ 30 + 2 ^ 16) = some (castLeaf, 3) ∧ objectState.walked 0 0 (2 ^ 30 + 2 ^ 16) = .leaf castLeaf 3 ∧
    (∀ k ∈ leafKeys 256, k < 2 ^ 42) ∧ hostLines (leafKeys 256) = [] ∧ (leafKeys 256).map objectState.byte = anObject 6 ∧ objectState.poison = [] := by decide +kernel
theorem witness_objectRead : objectState.readVA 0 (2 ^ 30 + 2 ^ 16) 256 = (.ok (anObject 6), objectState) := by
  obtain ⟨h1, h2, h3, h4, h5, h6⟩ := objectState_reads
  exact reads_leaf _ 256 _ (by decide) h1 h2 h3 h4 h5 h6

/-! Registers, pages, resets. -/

theorem witness_ekcmd : ∀ op ∈ [1, 2], let s := fun b => base.modFab (fun f => { f with
      fns := [(0, { ekcmd := dw (2 ^ 63 + op * 2 ^ 16 + 1) })], colls := if b then [(3, aColl)] else [] })
    EkFields ((s true).fnFab 0).ekcmd true false op 1 ∧ (s true).reducing 0 1 = true ∧ (s false).reducing 0 1 = false ∧
    (base.fnFab 0).ekcmd.getLsbD 63 = false := by unfold EkFields; decide +kernel
/-- A key that is replaced or removed while an operation of its function is in flight (R303). -/
theorem witness_pastKey : let s := (opState (anOp .kjoin .working)).modFab (fun f => { f with fns := [(0, { keys := [(1, aKey)] })] })
    s.anyOp 0 = true ∧ Table.get? (s.fnFab 0).keys 1 = some aKey := by decide +kernel
theorem witness_trace_owner : (base.core (base.fnHost 0).trsel).trace.owner = 0 ∧ (base.core 255).trace.owner ≠ 64 := by decide +kernel
theorem witness_epochs : let x := (sealing.modPort 0 (fun y => { y with keys := Table.set y.keys 255 { key := 3, salt := 0 } })).port 0
    (∀ e ∈ [0, 255], (Table.get? x.keys e).isSome = true) ∧ x.epoch = 0 ∧ x.asked = none ∧ Table.get? x.keys 7 = none ∧ Table.wf (sealing.port 0).keys = true := by decide +kernel
/-- DOMTAB words: this module's, one with a route, one without. -/
theorem witness_domtab : (Table.getD linked.fab.routes 1 0).extractLsb' 24 5 = 1 ∧ (Table.getD linked.fab.routes 1 0).extractLsb' 0 24 = 1 ∧
    Table.getD linked.fab.routes 2 0 = 0 ∧ linked.fab.modid = 0 := by decide +kernel
theorem witness_registers : (base.pump 95).prog = none ∧ (base.pump 95).queue = [] ∧ ((pumpState [] (running false)).pump 0).prog.isSome = true ∧
    base.host.recover = false := by decide +kernel
theorem witness_rcvctl : let s := base.modHost (fun h => { h with recover := true, rcvctl := true })
    s.host.recover = true ∧ s.host.rcvctl = true ∧ base.host.rcvctl = false := by decide +kernel
theorem witness_pages : ∀ x ∈ [PageState.pri false, .pri true, .ats, .again true, .held true false none, .held true false (some false), .held true false (some true), .refused 16], let s := base.modFnHost 0 (fun h => { h with pages := [(5, x)], reads := [(64, none)] })
    PageIs s 0 5 x ∧ (s.fnHost 0).atsOn = true ∧ (s.fnHost 0).bme = true ∧ LineAsked s 0 64 ∧ ¬LineAsked s 0 128 ∧ Table.get? (base.fnHost 0).pages 5 = none ∧
    ((base.modFnHost 0 (fun h => { h with bme := false })).fnHost 0).bme = false := by unfold PageIs LineAsked; decide +kernel
theorem witness_dies : let s := (base.modHost (fun h => { h with fwok := true })).modDie 2 (fun d => { d with state := .vector })
    Waits s 1 ∧ Waits s 3 ∧ ¬Waits s 0 ∧ ¬Waits s 2 ∧ s.codes = [(1, code0)] ∧ code0.st = .loaded ∧ Table.get? code0.pages 1 = none ∧ s.serving.find? (s.goodCopy code0) = some 0 ∧
    (s.freeText 1 (ceilDiv code0.nb 4096)).isSome = true ∧ base.host.fwok = false ∧ (s.die 2).state = .vector ∧ Table.wf s.disp.tasks = true ∧ s.disp.jobs = [] := by unfold Waits; decide +kernel

/-! Steps, checks, appends, trace. -/

/-- base with an empty bundle, a PHASE, and a bundle of two syllables at its PC. -/
theorem witness_step : ∀ i ∈ [Instr.emptyBundle true, .phase (fieldsOf 31 U U U 0)], let s := baseText i
    ((s.core 0).todo = [] ∧ (s.core 0).issue.cur = 0 ∧ (s.core 0).issue.handOver = false ∧ (∀ j < 4, j ≠ 0 → (s.strand 0 j).live = false) ∧
     (s.strand 0 0).atBundle = true) ∧
    (Table.get? s.codes (s.strand 0 0).place.code = some code0 ∧ (s.strand 0 0).ctx.pc < code0.nb ∧ s.poison = [] ∧
     (s.strand 0 0).regions = [] ∧ (Table.get? code0.pages 0).isSome = true ∧ (s.die 0).badText.contains (code0.textPage 0 1) = false ∧
     encode i = wordsOfNat (ofBytes (s.bytes (keyW 0 (code0.textW 0 1)) 64))) ∧
    decode (encode i) = some i ∧ (match (atCycle 0 s).verdict 0 0 with | .ok => true | _ => false) = true := by decide +kernel
/-- MOVQ and FADD in one bundle, with its YIELD bit. -/
def twoWords : List Word :=
  let w := fun (i : Instr) => match i.opcode, i.fields with | some (_, op), some f => [f.toNat op % 2 ^ 32, f.toNat op / 2 ^ 32] | _, _ => []
  words16 ([0x109] ++ w (.movq (fieldsOf 2 (q 0) U U 0)) ++ w (.fadd .f32 (vv (q 1) (src 1 1 0) U 0)))
theorem witness_bundle : let s := base.putBytes (keyW 0 (textPageW 0) + 64) (twoWords.flatMap (fun w => bytesLE 4 w.toNat))
    twoWords = wordsOfNat (ofBytes (s.bytes (keyW 0 (code0.textW 0 1)) 64)) ∧
    (match decodeBundle twoWords with | .ok b => b.single.isNone && b.yield && b.syls.length == 2 | .error _ => false) = true ∧
    (match (atCycle 0 s).verdict 0 0 with | .ok => true | _ => false) = true := by decide +kernel

/-- A syllable that a check refuses (ERET at level 0), one that is held (a read of an empty queue), one that is neither. -/
theorem witness_checks : (match verdictAlone (.eret (fieldsOf 31 U U U 0)) base with | some (.fault x) => x.cause == 0x1A | _ => false) = true ∧
    verdictAlone (.movq (fieldsOf 2 (q 2) U U 0)) base = some (.held (some 2)) ∧
    (match Instr.opcode (.movq (fieldsOf 2 (q 2) U U 0)) with
     | some (sl, op) => (base.earlyFault 0 0 (soloBundle (.movq (fieldsOf 2 (q 2) U U 0)) sl op (fieldsOf 2 (q 2) U U 0))
        (usesAlone (.movq (fieldsOf 2 (q 2) U U 0)))).isNone && blockAlone (.movq (fieldsOf 2 (q 2) U U 0)) base == some 2
     | none => false) = true ∧
    Undefined .s 0x3FF ∧ (Instr.eret (fieldsOf 31 U U U 0)).wf = true ∧ base.me.ctx.seq = none ∧ base.me.ctx.tl = 0 ∧
    (base.core 0).cond1 0 (usesAlone (.nop (fieldsOf 31 U U U 0))) = none ∧ (base.core 0).cond2 0 (usesAlone (.nop (fieldsOf 31 U U U 0))) = none ∧
    base.cond34 0 0 (usesAlone (.nop (fieldsOf 31 U U U 0))) = none := by unfold Undefined; decide +kernel

theorem witness_append : (base.queue 0 0 0).gsrc = false ∧ ((baseStrand (fun t => { t with queues := [(0, { en := true, gsrc := true })] })).queue 0 0 0).gsrc = true := by
  decide +kernel
/-- The entries of R328's example: a word that arms class 0, strand 0 with ANY, and one that does not fire. -/
theorem witness_fires : let w := dw (2 ^ 48 + 2 ^ 40 + 2 ^ 36 + 2 ^ 35)
    fires w 0 0 7 = true ∧ fires w 1 0 7 = false ∧ (w.extractLsb' 48 16).toNat = 1 := by decide +kernel
/-- Exact values that a format holds, and one that it does not; a tie of FP16 between 1 and its successor, the last value that rounds to a
finite one and the first that does not, a quotient and a root that are no values of it. -/
theorem witness_rounding : ((FFmt.ieee .f16).value 0x3C00).isNan = false ∧ (0x3C00 : Nat) < 2 ^ fw .f16 ∧
    (FFmt.ieee .f16).round .rdn (.fin false 1 (-30)) ≠ (FFmt.ieee .f16).round .rup (.fin false 1 (-30)) ∧
    [RM.rne, .rdn, .rup].map (fun m => (FFmt.ieee .f16).round m (.fin false 2049 (-11))) = [0x3C00, 0x3C00, 0x3C01] ∧
    [65519, 65520].map (fun n => (FFmt.ieee .f16).round .rne (.fin false n 0)) = [0x7BFF, 0x7C00] ∧
    [RM.rdn, .rup].map (fun m => divX fp32 m (.fin false 1 0) (.fin false 3 0)) = [0x3EAAAAAA, 0x3EAAAAAB] ∧
    [RM.rdn, .rup].map (fun m => sqrtX fp32 m (.fin false 2 0)) = [0x3FB504F3, 0x3FB504F4] := by decide +kernel
/-! ### Worked examples of the spec and of the standards it names -/

/-- CRC-32C of the digits 1 to 9 (RFC 3720's check value). -/
theorem test_crc : crc32c [0x31, 0x32, 0x33, 0x34, 0x35, 0x36, 0x37, 0x38, 0x39] = 0xE3069283 := by decide +kernel
/-- AES-256-GCM of sixteen zero bytes under a zero key and a zero IV (test case 14 of the GCM specification). -/
theorem test_gcm : let z := List.replicate 32 0
    ofNats (gcmCrypt z (z.take 12) (z.take 16)) = 0x189DF3BAD3C54E076E6B604D3D40A7CE ∧
    ofNats (gcmTag z (z.take 12) [] (gcmCrypt z (z.take 12) (z.take 16))) = 0x19B98AD4B5985B26F06B9999A7C8D1D0 := by decide +kernel
/-- The word of R294's example: custom-0, the slot of E, SKQRY; and words of the base that SPC covers and does not. -/
theorem test_spc : decodeSpc 0x22B5228B = some (.ext (.native .e 0x11) 5 10 11) ∧ (decodeSpc 0x00A50513).isSome = true ∧
    (decodeSpc 0x0000100F).isSome = false := by decide +kernel

/-- R294's example on the strand: one SKQRY syllable with the operands x10 and x11 and produced knot 3, whose scalar result goes to x5. -/
theorem test_spc_example : (match decodeSpc 0x22B5228B with
    | some i => (match SpcRun.exec { qx := 2, qv := 3, qa := 9, pa := 0, fd := 15 } 0 0 i { t := { xs := [(10, 0x2000), (11, 77)], swmod := 3 } } base with
      | .next r s => r.due == [.x 5] && s.ops.map (fun (o : Nat × EngOp) => (o.2.knot, o.2.kind)) == [(3, .skqry 0x2000 [77] false)]
      | _ => false)
    | none => false) = true := by decide +kernel
/-- The example after R47: 300.0 and 500.0 under the reset descriptor, and 300.0 with SCALE 2. -/
theorem test_cvtn : let d := NarrowFmt.ofImage 0x00077430
    d.cvtn .rne (fp32.value 0x43960000) = 0x79 ∧ d.cvtn .rne (fp32.value 0x43FA0000) = 0x7E ∧
    { d with scale := 2 }.cvtn .rne (fp32.value 0x43960000) = 0x69 := by decide +kernel
/-- The example after R57: three ranks reduce a block. -/
theorem test_reduce : (reduceBlock fp32 fp32 3 [(0, [0x3F800000, 0, 0x3F800000]), (1, [0x33800000, 0x26000000, 0x7FC00000]),
      (2, [0x33800000, 0, 0x7FC00000])]).take 3 = [0x3F800001, 0, 0x7FC00001] := by decide +kernel
/-- The examples after R227 and R231: buckets and signs of index 0, and what a factor makes of a counter. -/
theorem test_hash : let k := { aSkein with logw := 10 }
    [k.bucket 0 0, k.bucket 1 0, k.bucket 2 0] = [356, 188, 790] ∧ [hashSign 0 0, hashSign 1 0, hashSign 2 0] = [1, -1, 1] := by decide +kernel
theorem test_scale : rneShift (448 * 0x73333333) 31 = 403 ∧ rneShift (3 * 0x40000000) 31 = 2 ∧ rneShift (5 * 0x40000000) 31 = 2 ∧
    rneShift (-5 * 0x40000000) 31 = -2 := by decide +kernel
/-- The examples after R16, R18 and R35: seven hops; module 5's offset; ten cycles over two hops. -/
theorem test_hops : hopsTo 129 0x3A001000 = 7 := by decide +kernel
theorem test_window : ({ linked with fab := { linked.fab with dom := [(5, dw (2 ^ 63 + 1))] } }).domain 0x0114004000000000 = .remote 1 0x4000000000 := by decide +kernel
theorem test_graftTime : graftTime 9 11 = 10 ∧ graftTime 9 9 = 2 := by decide +kernel
/-- The example after R328: the trap entry fires; sixteen entries later the buffer is frozen, seventeen slots on. -/
theorem test_trigger : let t : Trace := { classes := 0x10, armed := some 0x001010F800000000 }
    let u := recorded 4 3 (List.replicate 15 (0, 0)) (t.record 4 2 0 0)
    u.frozen = false ∧ (u.record 4 1 0 0).frozen = true ∧ (u.record 4 1 0 0).wptr = 17 ∧ (u.record 4 1 0 0).armed = none := by decide +kernel

/-- The state of the example after R372: bundle 20, q1 with INT32 -7, q5 with the FP32 lanes 300.0, a quiet NaN, -∞, -128.5. -/
def bundle20 : State :=
  let t : Strand := { demoStrand with ctx := { demoStrand.ctx with pc := 20 }, queues := [(1, qOf false 0x100000 1 3), (2, qOf false 0x104000 0 0), (5, qOf true 0x102000 1 0x0B), (6, qOf true 0x106000 0 0)] }
  let s := { base with codes := [(1, { code0 with nb := 32 })], cores := [(0, { strands := [(0, t)] })] }
  let ws := words16 [0x9, 0xF200881A, 0x3E01, 0xF2029900, 0x02003E01]
  ((s.putBytes (keyW 0 (textPageW 0) + 64 * 20) (ws.flatMap (fun w => bytesLE 4 w.toNat))).putBytes (keyP 0 0x100000) (bytesLE 8 (2 ^ 64 - 7))).putBytes (keyP 0 0x102000)
    ([0x43960000, 0x7FC00000, 0xFF800000, 0xC3008000].flatMap (bytesLE 4))
def after (f : State → Bool) (s : State) : Bool := match step s with | .next t => f t | _ => false
theorem test_bundle20 : after (fun t =>
    let x := t.strand 0 0
    let b := x.ctx.bank 1
    b.cause == 0x109 && b.ret == 0x15 && b.addr == 0x14 && b.aux == 0x81A && x.ctx.tl == 1 && x.ctx.pc == 5 && (t.queue 0 0 1).occ == 0 && (t.queue 0 0 5).occ == 0) bundle20 = true := by
  decide +kernel
theorem test_bundle20_results : after (fun t =>
    (t.core 0).flight.pends.map (fun (p : Nat × Pend) => (p.2.q, p.2.tag, p.2.val.toNat)) == [(2, 3, 2 ^ 64 - 1), (6, 1, 0x8080007F)]) bundle20 = true := by
  decide +kernel
/-- The example after R143: in the tree of R54, 1 + 2^-24 ties to 1 and 2^-23 is added at the next level. -/
theorem test_vrsum : after (fun t =>
    (t.core 0).flight.pends.map (fun (p : Nat × Pend) => (p.2.q, p.2.tag, p.2.val.toNat)) == [(6, 0x0B, 0x3F800001)])
    (((baseText (.vrsum (fieldsOf 6 (q 1) U U 0))).putBytes (keyP 0 0x102000) ([0x3F800000, 0x33800000, 0x33800000, 0x33800000].flatMap (bytesLE 4)))) = true := by
  decide +kernel
/-- VSCAN of FP32 lanes, a signalling NaN of negative sign first: every lane is the canonical NaN (R41, R55). -/
theorem test_vscan : after (fun t =>
    (t.core 0).flight.pends.map (fun (p : Nat × Pend) => (p.2.q, p.2.val.toNat % 2 ^ 64)) == [(3, 0x7FC000007FC00000)])
    (((baseText (.vscan (vv (q 1) U U 0))).putBytes (keyP 0 0x102000) ([0xFF800001, 0x3F800000].flatMap (bytesLE 4)))) = true := by decide +kernel
/-- VINS of a MASK64 slot as C is refused with 0x05, whatever the tag of A (R371). -/
theorem test_vins : ∀ t ∈ [0, 0x0B], (match verdictAlone (.vins (vv (q 1) one (q 8) 0)) (baseStrand (fun x => { x with queues := Table.set x.queues 1 (qOf true 0x102000 8 t) })) with
    | some (.fault x) => x.cause == 5
    | _ => false) = true := by decide +kernel
/-- ADD.I64 of q0.0 and q0.1 to q2 (R90): 2^63 - 1 + 1 wraps, and with SAT stays. -/
theorem test_add : ∀ x ∈ [(0, 2 ^ 63), (4, 2 ^ 63 - 1)], after (fun t =>
    (t.core 0).flight.pends.map (fun (p : Nat × Pend) => (p.2.q, p.2.tag, p.2.val.toNat)) == [(2, 4, x.2)] && (t.queue 0 0 0).head == 1 && (t.strand 0 0).ctx.pc == 2)
    ((baseText (.add true (sAB x.1))).putBytes (keyP 0 0x100000) (bytesLE 8 (2 ^ 63 - 1) ++ bytesLE 8 1)) = true := by decide +kernel
/-- STW of -1 tagged INT64 to W 0 (R118, R123): nothing is written at issue. -/
theorem test_stw : after (fun t => t.byte (keyW 0 0) == 0 && (t.core 0).flight.stores.any (fun (p : Nat × PStore) =>
    p.2.cells == (List.range 8).map (fun i => (keyW 0 i, (0xFF : Byte)))))
    ((baseText (.stw (fieldsOf 31 Z Z (src 0 0 0) 0))).putBytes (keyP 0 0x100000) (bytesLE 8 (2 ^ 64 - 1))) = true := by decide +kernel

end Sys2Proof.Tests
end

section
/-! What a matrix operation whose turn it is leaves (R53, R151, R152): lists indexed by rows and columns, the elements of a tile from its
data, the rows of A and the columns of B, and the state after the effect. -/

namespace Sys2Proof.MatrixEffects
open Sys2Proof Sys2Proof.Machine Sys2Proof.Claims

/-! ### Lists given by an index -/

/-- Rows of n entries, one after the other, are one list: entry k lies in row k / n, column k % n. -/
theorem flatMap_range_map {α : Type} {n : Nat} (hn : 0 < n) (g : Nat → Nat → α) (m : Nat) :
    (List.range m).flatMap (fun i => (List.range n).map (g i)) = (List.range (m * n)).map (fun k => g (k / n) (k % n)) := by
  induction m with
  | zero => simp
  | succ m ih =>
    have hrow : ∀ j ∈ List.range n, g m j = g ((m * n + j) / n) ((m * n + j) % n) := by
      intro j hj
      have hj := List.mem_range.mp hj
      rw [Nat.mul_comm m n, Nat.mul_add_div hn, Nat.mul_add_mod, Nat.div_eq_of_lt hj, Nat.mod_eq_of_lt hj, Nat.add_zero]
    simp [List.range_succ, ih, Nat.succ_mul, List.range_add, List.map_congr_left hrow, Function.comp_def]

/-- Cutting a list into rows of n entries undoes that. -/
theorem chunksOf_range_map {α : Type} (n : Nat) (h : Nat → α) (m : Nat) :
    chunksOf n m ((List.range (m * n)).map h) = (List.range m).map (fun i => (List.range n).map (fun e => h (i * n + e))) := by
  induction m generalizing h with
  | zero => rfl
  | succ m ih =>
    rw [Nat.succ_mul, Nat.add_comm (m * n), List.range_add, List.map_append, chunksOf, List.take_left' (by simp), List.drop_left' (by simp),
      List.map_map, ih, List.range_succ_eq_map]
    simp [Function.comp_def, Nat.succ_mul, Nat.add_comm, Nat.add_left_comm]

theorem zip_eq_range_map {α β : Type} {n : Nat} (xs : List α) (ys : List β) (hx : xs.length = n) (hy : ys.length = n) (a : α) (b : β) :
    xs.zip ys = (List.range n).map (fun i => (xs.getD i a, ys.getD i b)) := by
  subst hx
  apply List.ext_getElem <;> simp_all

theorem numbered_range_map {α : Type} (g : Nat → α) (n k : Nat) :
    numbered k ((List.range n).map g) = (List.range n).map (fun i => (k + i, g i)) := by
  induction n generalizing g k with
  | zero => rfl
  | succ n ih => simp [List.range_succ_eq_map, numbered, ih, Function.comp_def, Nat.add_comm, Nat.add_left_comm]

/-! ### The elements of a tile -/

theorem risingFrom_numbered {α : Type} (xs : List α) (n : Nat) : Table.risingFrom n (numbered n xs) = true := by
  induction xs generalizing n with
  | nil => rfl
  | cons x xs ih => simp [numbered, Table.risingFrom, ih]

/-- Leaving out the entries +0 does not change what is read: an unlisted element is +0. -/
theorem getD_filter_numbered (xs : List Nat) (n k : Nat) :
    Table.getD ((numbered n xs).filter (fun e => e.2 != 0)) (n + k) 0 = xs.getD k 0 := by
  induction xs generalizing n k with
  | nil => rfl
  | cons x xs ih =>
    have hrest := Table.rising_filter _ (fun e => e.2 != 0) _ (risingFrom_numbered xs (n + 1))
    cases k with
    | zero =>
      by_cases hx : x = 0
      · simp [numbered, hx, Table.getD, Table.get?_below _ (Nat.lt_succ_self n) hrest]
      · simp [numbered, hx, Table.getD, Table.get?]
    | succ k =>
      have ih := ih (n + 1) k
      rw [Nat.add_right_comm, Nat.add_assoc] at ih
      by_cases hx : x = 0
      · simpa [numbered, hx] using ih
      · simpa [numbered, hx, Table.getD, Table.get?] using ih

/-- Element j of row i of a tile whose 2,048 elements are given in row order. -/
theorem elem_tileData (t : Tile) (g : Nat → Nat) (ht : t.data = tileData ((List.range 2048).map g)) {i j : Nat} (hi : i < 32) (hj : j < 64) :
    t.elem i j = g (64 * i + j) := by
  have hn : 64 * i + j < 2048 := by omega
  have h := getD_filter_numbered ((List.range 2048).map g) 0 (64 * i + j)
  rw [Tile.elem, ht, tileData, Nat.mul_comm i, ← Nat.zero_add (64 * i + j), h]
  simp [hn]

/-- The same, with the elements given by row and column. -/
theorem elem_tileData_rows (t : Tile) (g : Nat → Nat → Nat)
    (ht : t.data = tileData ((List.range 32).flatMap (fun i => (List.range 64).map (g i)))) {i j : Nat} (hi : i < 32) (hj : j < 64) :
    t.elem i j = g i j := by
  rw [flatMap_range_map (by decide)] at ht
  rw [elem_tileData t _ ht hi hj, Nat.mul_add_div (by decide), Nat.mul_add_mod, Nat.div_eq_of_lt hj, Nat.mod_eq_of_lt hj, Nat.add_zero]

/-! ### The operands of MMA (R147, R148) -/

theorem mfLanes_pos (t : MFmt) : 0 < 2048 / mfBits t := by cases t <;> decide

/-- The slots of a run hold exactly 32 rows of k elements. -/
theorem mfNa_mul_lanes (t : MFmt) : mfNa t * (2048 / mfBits t) = 32 * mfK t := by cases t <;> rfl

theorem rowsOfA_eq (t : MFmt) {run : List SlotBits} {fds : List Nat} (hr : run.length = mfNa t) (hf : fds.length = mfNa t) :
    rowsOfA t run fds = (List.range 32).map (fun i => (List.range (mfK t)).map (elemA t run fds i)) := by
  simp only [rowsOfA, zip_eq_range_map run fds hr hf 0 0, List.flatMap_map, lanes, upto, List.map_map]
  rw [flatMap_range_map (mfLanes_pos t), mfNa_mul_lanes, chunksOf_range_map]
  rfl

theorem colOfB_eq (t : MFmt) (fd eb stride : Nat) (bytes : Mem) (j : Nat) :
    colOfB t fd eb stride (mfSlice t) bytes j = (List.range (mfK t)).map (fun e => elemB t fd eb stride bytes e j) := rfl

/-- Row i of A against column j of B: element by element. -/
theorem mmaElem_range_map (f : IEEE) (rm : RM) (acc k : Nat) (a b : Nat → XVal) :
    mmaElem f rm acc ((List.range k).map a) ((List.range k).map b) =
      f.round rm (sumX rm (f.value acc :: (List.range k).map (fun e => mulX (a e) (b e)))) := by
  simp [mmaElem, List.zip_map', Function.comp_def]

/-! ### What each kind of operation leaves in its tile -/

theorem apply_zero_elem (d : Bool) (bytes : Mem) (t : Tile) (i j : Nat) : ((MatKind.zero d).apply bytes t).elem i j = 0 := rfl

theorem apply_maccl_elem (d : Bool) (e : Nat) (bytes : Mem) (t : Tile) {i j : Nat} (hi : i < 32) (hj : j < 64) :
    ((MatKind.maccl d e).apply bytes t).elem i j =
      Memory.readNat bytes (e + (if d then 8 else 4) * (64 * i + j)) (if d then 8 else 4) :=
  elem_tileData _ (fun n => Memory.readNat bytes (e + (if d then 8 else 4) * n) (if d then 8 else 4))
    (by simp only [MatKind.apply, upto]) hi hj

/-- The accumulator format of R53. -/
def accFmt (fmt : MFmt) : IEEE := if fmt = .f64 then fp64 else fp32

/-- The element of R53: the old element and the k exact products, summed exactly and rounded once. -/
def specifiedSum (fmt : MFmt) (rm acc : Nat) (a b : Nat → XVal) : Nat :=
  (accFmt fmt).round (RM.ofMod rm)
    (sumX (RM.ofMod rm) ((accFmt fmt).value acc :: (List.range (mfK fmt)).map (fun e => mulX (a e) (b e))))

theorem apply_mma_elem (fresh : Bool) (fmt : MFmt) (rm : Nat) {run : List SlotBits} {fds : List Nat} (bfd eb st : Nat) (bytes : Mem)
    (t : Tile) (hr : run.length = mfNa fmt) (hf : fds.length = mfNa fmt) {i j : Nat} (hi : i < 32) (hj : j < 64) :
    ((MatKind.mma fresh fmt rm run fds bfd eb st (mfSlice fmt)).apply bytes t).elem i j =
      specifiedSum fmt rm (if fresh then 0 else t.elem i j) (elemA fmt run fds i) (fun e => elemB fmt bfd eb st bytes e j) := by
  have hold : (if fresh then ({} : Tile) else t).elem i j = if fresh then 0 else t.elem i j := by cases fresh <;> rfl
  have hdata : ((MatKind.mma fresh fmt rm run fds bfd eb st (mfSlice fmt)).apply bytes t).data =
      tileData ((List.range 32).flatMap (fun i => (List.range 64).map (fun j =>
        specifiedSum fmt rm ((if fresh then ({} : Tile) else t).elem i j) (elemA fmt run fds i)
          (fun e => elemB fmt bfd eb st bytes e j)))) := by
    simp [MatKind.apply, rowsOfA_eq fmt hr hf, colOfB_eq, upto, numbered_range_map, List.flatMap_map, mmaElem_range_map, specifiedSum,
      accFmt, Function.comp_def]
  rw [elem_tileData_rows _ _ hdata hi hj, hold]

/-! ### The state after the effect (R154, R155) -/

theorem unit_modUnit (s : State) (c u : Nat) (f : MatUnit → MatUnit) :
    ((s.modUnit c u f).core c).unit u = f ((s.core c).unit u) := by
  simp [State.modUnit, State.core_modCore, Core.unit]

/-- A ready operation leaves flight, and its tile is what its kind makes of the tile. -/
theorem unit_writeTile {s : State} {c u id : Nat} {o : MatOp} (h : o.bad = none) :
    ((s.writeTile c u id o).core c).unit u =
      { (s.core c).unit u with
        ops := Table.erase ((s.core c).unit u).ops id
        tiles := Table.set ((s.core c).unit u).tiles o.tile (o.kind.apply o.bytes (((s.core c).unit u).tile o.tile)) } := by
  simp only [State.writeTile, h, unit_modUnit]
  rfl

theorem mem_writeTile (s : State) (c u id : Nat) (o : MatOp) : (s.writeTile c u id o).mem = s.mem :=
  congrArg Prod.fst (State.frame_writeTile s c u id o)

theorem exec_tileWrite_of_ready {s : State} {c id u : Nat} {o : MatOp} (h : ReadyMat s c id u o) :
    exec (.tileWrite c id false) s = .next (s.writeTile c u id o) := by
  obtain ⟨hop, hwait, -⟩ := h
  change execTileWrite c id false s = _
  simp [execTileWrite, hop, hwait]

theorem exec_macclComplete_of_ready {s : State} {c id u : Nat} {o : MatOp} (h : ReadyMat s c id u o) :
    exec (.macclComplete c id) s = .next (s.writeTile c u id o) := by
  obtain ⟨hop, hwait, -⟩ := h
  change execMacclComplete c id s = _
  simp [execMacclComplete, hop, hwait]

/-- Settles O19: a ready operation writes its tile and nothing else (`unit_writeTile`), and what it writes is, for each kind, the element
that R53 or R152 gives. -/
theorem tileEffectsAreTheSpecifiedSums : Obligations.TileEffectsAreTheSpecifiedSums := by
  intro s c id u o h old
  have ⟨_, _, hgood⟩ := h
  have hunit := unit_writeTile (s := s) (c := c) (u := u) (id := id) hgood
  have htile : (((s.writeTile c u id o).core c).unit u).tile o.tile = o.kind.apply o.bytes old := by
    rw [hunit]; exact Table.getD_set_self _ _ _ _
  refine ⟨s.writeTile c u id o, exec_tileWrite_of_ready h, exec_macclComplete_of_ready h, mem_writeTile s c u id o, ?_, ?_, ?_, ?_, ?_⟩
  · rw [hunit]
  · intro x hx
    rw [hunit]
    exact Table.getD_set_ne _ _ _ hx
  · intro d hk i j
    rw [htile, hk, apply_zero_elem]
  · intro d e hk i j hi hj z
    rw [htile, hk, apply_maccl_elem d e _ _ hi hj]
  · intro fresh fmt rm run fds bfd eb st hk hr hf i j hi hj g
    rw [htile, hk, apply_mma_elem fresh fmt rm bfd eb st _ _ hr hf hi hj]
    rfl

end Sys2Proof.MatrixEffects
end

section
/-! What the S-slot arithmetic, logic, move and compare syllables do when they issue (R89-R94): from the meaning of a syllable to its
effect, the model's numbers as bit vectors, and the results themselves. -/

namespace Sys2Proof.ScalarEffects
open Sys2Proof Sys2Proof.Machine Sys2Proof.Claims

/-! ### From issue to effect -/

/-- A syllable alone in its bundle that may issue: its effect stands between what the issue does before and after it (R27, R95). -/
theorem issueOne_of_verdictAlone {i : Instr} {s : State} (eff : State → State) (ha : s.bundle.admitted = false)
    (hv : verdictAlone i s = some .ok) :
    issueOne i eff s = .next ((eff (s.begin s.bundle.core s.bundle.strand (usesAlone i))).retireBundle
      s.bundle.core s.bundle.strand (usesAlone i)) := by
  unfold verdictAlone at hv
  split at hv
  · next sl op f ho hf =>
    have hu : usesAlone i = Bundle.uses (soloBundle i sl op f) := by simp [usesAlone, ho, hf]
    rw [hu]
    exact issueOne_ok i eff s sl op f ha ho hf (Option.some.inj hv)
  · cases hv

/-- A syllable whose meaning is the issue of an effect does what the effect does, whatever the state. -/
theorem does_of_issueOne {i : Instr} {eff : State → State} {P : State → State → Prop} (hi : ∀ s, exec i s = issueOne i eff s)
    (h : ∀ s, P s (eff s)) : Does i P := by
  intro s hs
  refine ⟨eff (opened i s), ?_, h _⟩
  rw [hi]
  cases ha : s.bundle.admitted with
  | true => simp [issueOne_admitted, opened, closed, ha]
  | false =>
    have hv : verdictAlone i s = some .ok := hs.resolve_left (by simp [ha])
    simp [issueOne_of_verdictAlone eff ha hv, opened, closed, ha]

/-! ### The model's numbers as bit vectors -/

/-- Bits n-1:0 read as two's complement are what the bit vector of the same bits stands for. -/
theorem sval_eq_toInt (n v : Nat) : sval n v = (BitVec.ofNat n v).toInt := by
  have hhalf : v % 2 ^ n < 2 ^ (n - 1) ↔ 2 * (v % 2 ^ n) < 2 ^ n := by
    cases n with
    | zero => simp [Nat.mod_one]
    | succ n => rw [Nat.add_sub_cancel, Nat.pow_succ]; omega
  simp only [sval, BitVec.toInt_eq_toNat_cond, BitVec.toNat_ofNat, hhalf]

theorem ofNat_wrap {m n : Nat} (h : m ≤ n) (x : Int) : BitVec.ofNat m (wrap n x) = BitVec.ofInt m x := by
  have hpos : ((2 ^ n : Nat) : Int) ≠ 0 := by positivity
  rw [← BitVec.ofInt_natCast, wrap, Int.toNat_of_nonneg (Int.emod_nonneg x hpos)]
  apply BitVec.eq_of_toNat_eq
  rw [BitVec.toNat_ofInt, BitVec.toNat_ofInt, Int.emod_emod_of_dvd x (Int.natCast_dvd_natCast.mpr (Nat.pow_dvd_pow 2 h))]

theorem ofNat_sx (n v : Nat) : BitVec.ofNat 64 (sx n v) = (BitVec.ofNat n v).signExtend 64 := by
  rw [sx, ofNat_wrap (Nat.le_refl 64), sval_eq_toInt]; rfl

theorem ofNat_zx (n v : Nat) : BitVec.ofNat 64 (zx n v) = (BitVec.ofNat n v).setWidth 64 := by
  rw [zx, ← BitVec.toNat_ofNat, BitVec.ofNat_toNat]

theorem zx_eq_toNat (n v : Nat) : zx n v = (BitVec.ofNat n v).toNat := rfl

/-- A one-bit field of mod. -/
theorem m_one_eq_getLsbD (f : Fields) (i : Nat) : (f.m i 1 == 1) = f.mod.getLsbD i := by
  simp [Fields.m, fld, BitVec.getLsbD, Nat.testBit_eq_decide_div_mod_eq, beq_eq_decide]

theorem satInt_eq_max_min {lo hi : Int} (h : lo ≤ hi) (x : Int) : satInt x lo hi = max lo (min hi x) := by
  unfold satInt
  split
  · omega
  · split <;> omega

theorem ofNat_mul_two_pow {n : Nat} (x : BitVec n) (k : Nat) : BitVec.ofNat n (x.toNat * 2 ^ k) = x <<< k := by
  apply BitVec.eq_of_toNat_eq
  rw [BitVec.toNat_ofNat, BitVec.toNat_shiftLeft, Nat.shiftLeft_eq]

theorem ofNat_div_two_pow {n : Nat} (x : BitVec n) (k : Nat) : BitVec.ofNat n (x.toNat / 2 ^ k) = x >>> k := by
  rw [← Nat.shiftRight_eq_div_pow, ← BitVec.toNat_ushiftRight, BitVec.ofNat_toNat, BitVec.setWidth_eq]

theorem ofInt_div_two_pow {n : Nat} (x : BitVec n) (m k : Nat) :
    BitVec.ofInt m (x.toInt / ((2 ^ k : Nat) : Int)) = (x.sshiftRight k).signExtend m := by
  rw [BitVec.signExtend, BitVec.toInt_sshiftRight, Int.shiftRight_eq_div_pow]

/-! ### Arithmetic (R90) -/

/-- A scalar is appended with its 64 bits in the slot's low bits (R51). -/
theorem appendScalar_eq (s : State) (f : Fields) (r : SRes) (lat : Nat) :
    s.appendScalar f r lat = s.appendTo f.dst.toNat r.1 ((BitVec.ofNat 64 r.2).setWidth 2048) lat := by
  rw [State.appendScalar, ← BitVec.toNat_ofNat, BitVec.ofNat_toNat]

/-- The effect of a syllable that computes one scalar from A and B appends that scalar. -/
theorem appends64_of_scalarEff {i : Instr} {f : Fields} {lat : Nat} {g : Opd → Opd → SRes} {tag : State → Nat} {v : State → BitVec 64}
    (hi : ∀ s, exec i s = issueOne i (scalarEff f lat g) s) (ht : ∀ s, (g (s.opd f.a) (s.opd f.b)).1 = tag s)
    (hv : ∀ s, BitVec.ofNat 64 (g (s.opd f.a) (s.opd f.b)).2 = v s) : Appends64 i f lat tag v := by
  refine does_of_issueOne hi (fun s => ?_)
  rw [scalarEff, appendScalar_eq, ht, hv]

theorem opBits_eq_width (w64 : Bool) : opBits w64 = width w64 := rfl

theorem width_le (w64 : Bool) : width w64 ≤ 64 := by cases w64 <;> decide

/-- An exact result brought into n bits, as R90 says. -/
theorem ofNat_narrowTo (w64 : Bool) (f : Fields) (x : Int) :
    BitVec.ofNat 64 (narrowTo (opBits w64) (f.m 2 1 == 1) x) = narrowed (width w64) f x := by
  rw [m_one_eq_getLsbD, narrowTo, narrowed]
  split
  · rw [ofNat_wrap (Nat.le_refl 64), satInt_eq_max_min (by cases w64 <;> decide)]
    cases w64 <;> rfl
  · rw [ofNat_sx, opBits_eq_width, ofNat_wrap (width_le w64)]

theorem ofNat_narrowTo_wrapped (w64 : Bool) (x : Int) :
    BitVec.ofNat 64 (narrowTo (opBits w64) false x) = (BitVec.ofInt (width w64) x).signExtend 64 := by
  rw [narrowTo, if_neg Bool.false_ne_true, ofNat_sx, opBits_eq_width, ofNat_wrap (width_le w64)]

/-- ADD, SUB and MUL: an exact operation on signed numbers, brought into n bits. -/
theorem appends64_signedOp {i : Instr} {w64 : Bool} {f : Fields} {lat : Nat} (g : Int → Int → Int)
    (hi : ∀ s, exec i s = issueOne i (scalarEff f lat (signedOp w64 (f.m 2 1 == 1) g)) s) :
    Appends64 i f lat (tagS w64) (fun s => narrowed (width w64) f (g (An (width w64) f s).toInt (Bn (width w64) f s).toInt)) := by
  refine appends64_of_scalarEff hi (fun _ => rfl) (fun s => ?_)
  rw [signedOp, ofNat_narrowTo, sval_eq_toInt, sval_eq_toInt]
  rfl

theorem ofNat_mulhsRes (w64 : Bool) (a b : Opd) : BitVec.ofNat 64 (mulhsRes w64 a b).2 =
    (BitVec.ofInt (width w64) ((BitVec.ofNat (width w64) a.val).toInt * (BitVec.ofNat (width w64) b.val).toInt /
      2 ^ width w64)).signExtend 64 := by
  rw [mulhsRes, signedOp, ofNat_narrowTo_wrapped, sval_eq_toInt, sval_eq_toInt]
  norm_cast

theorem ofNat_mulhuRes (w64 : Bool) (a b : Opd) : BitVec.ofNat 64 (mulhuRes w64 a b).2 =
    (BitVec.ofNat (width w64) ((BitVec.ofNat (width w64) a.val).toNat * (BitVec.ofNat (width w64) b.val).toNat /
      2 ^ width w64)).setWidth 64 := by
  rw [mulhuRes, ofNat_zx]; rfl

theorem ofNat_shlRes (w64 : Bool) (a b : Opd) : BitVec.ofNat 64 (shlRes w64 a b).2 =
    (BitVec.ofNat (width w64) a.val <<< ((BitVec.ofNat (width w64) b.val).toNat % width w64)).signExtend 64 := by
  rw [shlRes, ofNat_sx, zx_eq_toNat, ofNat_mul_two_pow]; rfl

theorem ofNat_shrRes (w64 : Bool) (a b : Opd) : BitVec.ofNat 64 (shrRes w64 a b).2 =
    (BitVec.ofNat (width w64) a.val >>> ((BitVec.ofNat (width w64) b.val).toNat % width w64)).setWidth 64 := by
  rw [shrRes, ofNat_zx, zx_eq_toNat, ofNat_div_two_pow]; rfl

theorem ofNat_sarRes (w64 : Bool) (a b : Opd) : BitVec.ofNat 64 (sarRes w64 a b).2 =
    ((BitVec.ofNat (width w64) a.val).sshiftRight ((BitVec.ofNat (width w64) b.val).toNat % width w64)).signExtend 64 := by
  rw [sarRes, ofNat_wrap (Nat.le_refl 64), sval_eq_toInt, ofInt_div_two_pow]; rfl

/-- Settles O1: each syllable appends one scalar (`appends64_of_scalarEff`), whose bits are those of R90 (`ofNat_narrowTo` for ADD, SUB and
MUL, one lemma each for the high products and the shifts). -/
theorem integerArithmeticAppendsItsResult : Obligations.IntegerArithmeticAppendsItsResult := by
  intro w64 f
  refine ⟨?add, ?sub, ?mul, ?mulhs, ?mulhu, ?shl, ?shr, ?sar⟩
  case add => exact appends64_signedOp (· + ·) (fun _ => rfl)
  case sub => exact appends64_signedOp (· - ·) (fun _ => rfl)
  case mul => exact appends64_signedOp (· * ·) (fun _ => rfl)
  case mulhs => exact appends64_of_scalarEff (fun _ => rfl) (fun _ => rfl) (fun _ => ofNat_mulhsRes w64 _ _)
  case mulhu => exact appends64_of_scalarEff (fun _ => rfl) (fun _ => rfl) (fun _ => ofNat_mulhuRes w64 _ _)
  case shl => exact appends64_of_scalarEff (fun _ => rfl) (fun _ => rfl) (fun _ => ofNat_shlRes w64 _ _)
  case shr => exact appends64_of_scalarEff (fun _ => rfl) (fun _ => rfl) (fun _ => ofNat_shrRes w64 _ _)
  case sar => exact appends64_of_scalarEff (fun _ => rfl) (fun _ => rfl) (fun _ => ofNat_sarRes w64 _ _)

/-! ### Logic, moves and compares (R92-R94) -/

theorem toNat_A64 (f : Fields) (s : State) : (A64 f s).toNat = (s.opd f.a).u := rfl

theorem toNat_B64 (f : Fields) (s : State) : (B64 f s).toNat = (s.opd f.b).u := rfl

theorem ofNat_u (a : Opd) : BitVec.ofNat 64 a.u = BitVec.ofNat 64 a.val := BitVec.eq_of_toNat_eq (by simp [Opd.u])

theorem s_eq_toInt (a : Opd) : a.s = (BitVec.ofNat 64 a.val).toInt := sval_eq_toInt 64 a.val

theorem logicTag_eq_sharedOrRaw (a b : Opd) : logicTag a b = sharedOrRaw a b := by
  simp only [logicTag, sharedOrRaw, beq_iff_eq]

theorem appends64_logicRes {i : Instr} {f : Fields} (g : Dword → Dword → Dword)
    (hi : ∀ s, exec i s = issueOne i (scalarEff f 1 (logicRes g)) s) :
    Appends64 i f 1 (fun s => sharedOrRaw (s.opd f.a) (s.opd f.b)) (fun s => g (A64 f s) (B64 f s)) :=
  appends64_of_scalarEff hi (fun _ => logicTag_eq_sharedOrRaw _ _)
    (fun _ => by rw [logicRes, BitVec.ofNat_toNat, BitVec.setWidth_eq]; rfl)

/-- MIN, MAX, MINU and MAXU: one of the two slots, by a comparison of them as 64-bit words. -/
theorem appends64_pickRes {i : Instr} {f : Fields} {t : Nat} {c : Opd → Opd → Bool} (v : BitVec 64 → BitVec 64 → BitVec 64)
    (hi : ∀ s, exec i s = issueOne i (scalarEff f 1 (pickRes t c)) s)
    (hc : ∀ a b, (if c a b then BitVec.ofNat 64 a.val else BitVec.ofNat 64 b.val) = v (BitVec.ofNat 64 a.val) (BitVec.ofNat 64 b.val)) :
    Appends64 i f 1 (fun _ => t) (fun s => v (A64 f s) (B64 f s)) :=
  appends64_of_scalarEff hi (fun _ => rfl)
    (fun _ => by rw [pickRes, apply_ite (BitVec.ofNat 64), ofNat_u, ofNat_u]; exact hc _ _)

theorem beq_toNat {w : Nat} (x y : BitVec w) : (x.toNat == y.toNat) = (x == y) := by simp [beq_eq_decide, BitVec.toNat_inj]

theorem ble_toNat (x y : BitVec 64) : Nat.ble x.toNat y.toNat = x.ule y := by
  rw [Bool.eq_iff_iff, Nat.ble_eq, BitVec.ule_eq_decide, decide_eq_true_iff]

theorem blt_toNat (x y : BitVec 64) : Nat.blt x.toNat y.toNat = x.ult y := by
  rw [Bool.eq_iff_iff, Nat.blt_eq, BitVec.ult_eq_decide, decide_eq_true_iff]

/-- The larger of two signed words does not depend on which of the two comparisons picks it. -/
theorem ite_sle_swap (x y : BitVec 64) : (if y.sle x then x else y) = if x.sle y then y else x := by
  simp only [BitVec.sle_eq_decide, decide_eq_true_eq]
  split <;> split
  · exact BitVec.eq_of_toInt_eq (by omega)
  · rfl
  · rfl
  · omega

theorem ite_ule_swap (x y : BitVec 64) : (if y.ule x then x else y) = if x.ule y then y else x := by
  simp only [BitVec.ule_eq_decide, decide_eq_true_eq]
  split <;> split
  · exact BitVec.eq_of_toNat_eq (by omega)
  · rfl
  · rfl
  · omega

/-- The leading zeros of a word: all 64 of zero, else those above its highest set bit. -/
theorem toNat_clz (x : BitVec 64) : x.clz.toNat = 64 - bitLen x.toNat := by
  by_cases hx : x = 0
  · subst hx; decide
  · have hn : x.toNat ≠ 0 := fun h => hx (BitVec.eq_of_toNat_eq h)
    have hlo : 2 ^ (63 - x.clz.toNat) ≤ x.toNat := BitVec.two_pow_sub_clz_le_toNat_of_ne_zero (by decide) hx
    have hhi : x.toNat < 2 ^ (64 - x.clz.toNat) := BitVec.toNat_lt_two_pow_sub_clz
    have hc : x.clz.toNat < 64 := BitVec.clz_lt_iff_ne_zero.mpr hx
    have hlog : Nat.log2 x.toNat = 63 - x.clz.toNat :=
      (Nat.log2_eq_iff hn).mpr ⟨hlo, by rwa [show 63 - x.clz.toNat + 1 = 64 - x.clz.toNat by omega]⟩
    rw [bitLen, if_neg (by simpa using hn), hlog]
    omega

/-- The set bits of n + 1 bits, counted from the highest. -/
theorem popcount_succ_eq_add_testBit (n v : Nat) : popcount (n + 1) v = popcount n v + (v.testBit n).toNat := by
  induction n generalizing v with
  | zero => rcases Nat.mod_two_eq_zero_or_one v with h | h <;> simp [popcount, h]
  | succ n ih =>
    rw [popcount, ih, popcount, Nat.testBit_succ, Nat.add_assoc]

theorem cpopNatRec_eq_popcount {w : Nat} (x : BitVec w) (n acc : Nat) : x.cpopNatRec n acc = acc + popcount n x.toNat := by
  induction n generalizing acc with
  | zero => simp [popcount]
  | succ n ih => rw [BitVec.cpopNatRec_succ, ih, popcount_succ_eq_add_testBit, BitVec.getLsbD]; omega

theorem ofNat_popcount (x : BitVec 64) : BitVec.ofNat 64 (popcount 64 x.toNat) = x.cpop := by
  rw [BitVec.cpop, cpopNatRec_eq_popcount, Nat.zero_add]

theorem repeat_apply {α : Type} (g : α → α) (n : Nat) (a : α) : Nat.repeat g n (g a) = g (Nat.repeat g n a) := by
  induction n with
  | zero => rfl
  | succ n ih => exact congrArg g ih

/-- DUP's copies, as the same append made again and again. -/
theorem appendCopies_eq_repeat (s : State) (f : Fields) (r : SRes) (n : Nat) :
    s.appendCopies f r n = Nat.repeat (fun t : State => t.appendScalar f r 1) n s := by
  induction n generalizing s with
  | zero => rfl
  | succ n ih => rw [State.appendCopies, ih]; exact repeat_apply _ n s

/-- The compare codes of R70. -/
theorem holds_eq_compares (cc : Cc) (x y : BitVec 64) : Cc.holds cc x.toNat y.toNat = compares cc x y := by
  have hs : ∀ z : BitVec 64, sval 64 z.toNat = z.toInt := fun z => by rw [sval_eq_toInt, BitVec.ofNat_toNat, BitVec.setWidth_eq]
  cases cc with
  | eq => exact beq_toNat x y
  | ne => exact congrArg not (beq_toNat x y)
  | lt | ge | gt | le => simp only [Cc.holds, compares, hs, BitVec.slt_eq_decide, BitVec.sle_eq_decide]
  | ltu | gtu => exact blt_toNat _ _
  | geu | leu => exact ble_toNat _ _

theorem dupEff_eq (f : Fields) (s : State) : dupEff f s =
    Nat.repeat (fun (t : State) => t.appendTo f.dst.toNat (tagOf (s.opd f.a)) ((A64 f s).setWidth 2048) 1) (f.m 3 5 + 1) s := by
  simp only [dupEff, appendCopies_eq_repeat, appendScalar_eq, moveRes, ofNat_u]
  rfl

theorem cmpEff_eq (cc : Cc) (f : Fields) (s : State) : cmpEff cc f s =
    s.modCtx s.bundle.core s.bundle.strand (fun x => x.setCond (CB f) (compares cc (A64 f s) (B64 f s))) := by
  rw [cmpEff, ← toNat_A64, ← toNat_B64, holds_eq_compares]
  rfl

/-- Settles O3: all but DUP, CMP, NOP and DROP append one scalar, whose bits are those of the rule (`appends64_logicRes`,
`appends64_pickRes`, and the lemma on the word that each of the others computes). -/
theorem logicMovesAndComparesDoAsTheirRules : Obligations.LogicMovesAndComparesDoAsTheirRules := by
  intro f
  refine ⟨?and, ?or, ?xor, ?andn, ?min, ?max, ?minu, ?maxu, ?clz, ?popc, ?sext, ?zext, ?li, ?movq, ?dup, ?qlen, ?sel, ?cmp, ?nop, ?drop⟩
  case and => exact appends64_logicRes (· &&& ·) (fun _ => rfl)
  case or => exact appends64_logicRes (· ||| ·) (fun _ => rfl)
  case xor => exact appends64_logicRes (· ^^^ ·) (fun _ => rfl)
  case andn => exact appends64_logicRes (fun x y => x &&& ~~~y) (fun _ => rfl)
  case min =>
    refine appends64_pickRes (fun x y => if x.sle y then x else y) (fun _ => rfl) (fun a b => ?_)
    rw [s_eq_toInt, s_eq_toInt, ← BitVec.sle_eq_decide]
  case max =>
    refine appends64_pickRes (fun x y => if x.sle y then y else x) (fun _ => rfl) (fun a b => ?_)
    rw [s_eq_toInt, s_eq_toInt, ← BitVec.sle_eq_decide, ite_sle_swap]
  case minu =>
    refine appends64_pickRes (fun x y => if x.ule y then x else y) (fun _ => rfl) (fun a b => ?_)
    rw [← ble_toNat]; rfl
  case maxu =>
    refine appends64_pickRes (fun x y => if x.ule y then y else x) (fun _ => rfl) (fun a b => ?_)
    rw [← ite_ule_swap, ← ble_toNat]; rfl
  case clz =>
    exact appends64_of_scalarEff (fun _ => rfl) (fun _ => rfl) (fun s => by
      rw [clzRes, ← toNat_A64, ← toNat_clz, BitVec.ofNat_toNat, BitVec.setWidth_eq])
  case popc => exact appends64_of_scalarEff (fun _ => rfl) (fun _ => rfl) (fun s => ofNat_popcount (A64 f s))
  case sext => exact appends64_of_scalarEff (fun _ => rfl) (fun _ => rfl) (fun _ => ofNat_sx _ _)
  case zext => exact appends64_of_scalarEff (fun _ => rfl) (fun _ => rfl) (fun _ => ofNat_zx _ _)
  case li => exact appends64_of_scalarEff (fun _ => rfl) (fun _ => rfl) (fun _ => ofNat_u _)
  case movq => exact appends64_of_scalarEff (fun _ => rfl) (fun _ => rfl) (fun _ => ofNat_u _)
  case dup => exact does_of_issueOne (fun _ => rfl) (dupEff_eq f)
  case qlen =>
    refine does_of_issueOne (eff := qlenEff f) (fun _ => rfl) (fun s => ?_)
    simp only [qlenEff, appendScalar_eq, Bool.and_eq_true, decide_eq_true_eq]
    rfl
  case sel =>
    refine does_of_issueOne (eff := selEff f) (fun _ => rfl) (fun s => ?_)
    simp only [selEff, appendScalar_eq, ofNat_u]
    by_cases h : s.me.ctx.cond (f.m 5 3) = true
    · simp only [CB, h]; rfl
    · simp only [CB, h]; rfl
  case cmp => exact fun cc => does_of_issueOne (fun _ => rfl) (cmpEff_eq cc f)
  case nop => exact does_of_issueOne (eff := id) (fun _ => rfl) (fun _ => rfl)
  case drop => exact does_of_issueOne (eff := id) (fun _ => rfl) (fun _ => rfl)

end Sys2Proof.ScalarEffects
end

section
/-! What the transfers, votes, waits, phases, triggers and ends of a strand do when they issue (R95-R97, R102-R106, R112-R114): two updates of
one strand as one, what the trace and the withdrawal of a pre-emption request leave, and the effects themselves. -/

namespace Sys2Proof.ControlEffects
open Sys2Proof Sys2Proof.Machine Sys2Proof.Claims Sys2Proof.ScalarEffects

/-! ### Two updates of one strand -/

theorem table_set_set {α : Type} (t : Table α) (k : Nat) (a b : α) : Table.set (Table.set t k a) k b = Table.set t k b := by
  induction t with
  | nil => simp [Table.set]
  | cons x t ih =>
    by_cases he : x.1 = k
    · simp [Table.set, he]
    · by_cases hl : k < x.1
      · simp [Table.set, he, hl]
      · simp [Table.set, he, hl, ih]

theorem setStrand_setStrand (s : State) (c k : Nat) (t u : Strand) : (s.setStrand c k t).setStrand c k u = s.setStrand c k u := by
  rw [State.setStrand, State.core_setStrand, if_pos rfl]
  simp [State.setStrand, State.setCore, Core.setStrand, table_set_set]

theorem modFlow_modFlow (s : State) (c k : Nat) (f g : Flow → Flow) :
    (s.modFlow c k f).modFlow c k g = s.modFlow c k (fun x => g (f x)) := by
  rw [State.modFlow, State.modStrand, State.strand_modFlow, if_pos ⟨rfl, rfl⟩]
  exact setStrand_setStrand s c k _ _

/-! ### The strand of the bundle, and what lies outside its core -/

@[simp] theorem me_modFlow (s : State) (g : Flow → Flow) :
    (s.modFlow s.bundle.core s.bundle.strand g).me = { s.me with flow := g s.me.flow } := by
  rw [State.me, State.modFlow_bundle, State.strand_modFlow, if_pos ⟨rfl, rfl⟩]; rfl

@[simp] theorem me_modCtx (s : State) (g : Ctx → Ctx) :
    (s.modCtx s.bundle.core s.bundle.strand g).me = { s.me with ctx := g s.me.ctx } := by
  rw [State.me, State.modCtx_bundle, State.strand_modCtx, if_pos ⟨rfl, rfl⟩]; rfl

@[simp] theorem me_modMyFlow (s : State) (g : Flow → Flow) : (s.modMyFlow g).me = { s.me with flow := g s.me.flow } := me_modFlow s g

@[simp] theorem me_setTarget (s : State) (g : Option Nat) : (s.modBundle (fun b => { b with target := g })).me = s.me := rfl

theorem sameOutsideCore_refl (s : State) : SameOutsideCore s s :=
  ⟨rfl, rfl, rfl, rfl, rfl, rfl, rfl, rfl, rfl, rfl, rfl, fun _ _ => rfl⟩

theorem sameOutsideCore_setCore {s u : State} (h : SameOutsideCore s u) (x : Core) : SameOutsideCore s (u.setCore s.bundle.core x) := by
  obtain ⟨hmem, hpoison, hdies, hpumps, hops, hdisp, hcodes, hgens, hfab, hhost, henv, hcores⟩ := h
  refine ⟨hmem, hpoison, hdies, hpumps, hops, hdisp, hcodes, hgens, hfab, hhost, henv, fun c hc => ?_⟩
  rw [State.core_setCore, if_neg hc, hcores c hc]

theorem sameOutsideCore_modBundle {s u : State} (h : SameOutsideCore s u) (g : BundleCtx → BundleCtx) :
    SameOutsideCore s (u.modBundle g) := h

/-! ### The trace (R326) -/

@[simp] theorem strand_trace (s : State) (c k cls p c' k' : Nat) : (s.trace c k cls p).strand c' k' = s.strand c' k' := by
  unfold State.trace
  dsimp only
  split
  · exact State.strand_modCore_of s c c' k' (fun x => { x with trace := _ }) (fun _ => rfl)
  · rfl

@[simp] theorem bundle_trace (s : State) (c k cls p : Nat) : (s.trace c k cls p).bundle = s.bundle := by
  unfold State.trace
  dsimp only
  split <;> rfl

@[simp] theorem me_trace (s : State) (c k cls p : Nat) : (s.trace c k cls p).me = s.me := by simp [State.me]

theorem sameOutsideCore_trace {s u : State} (h : SameOutsideCore s u) (k cls p : Nat) :
    SameOutsideCore s (u.trace s.bundle.core k cls p) := by
  unfold State.trace
  dsimp only
  split
  · exact sameOutsideCore_setCore h _
  · exact h

/-! ### Transfers (R95-R97) -/

theorem continuesAt_continueAt (g : Nat) (s : State) : ContinuesAt g s (s.continueAt g) := by
  refine ⟨rfl, ?_, ?_, sameOutsideCore_modBundle (sameOutsideCore_setCore (sameOutsideCore_refl s) _) _, fun k hk => ?_⟩
  · simp [State.continueAt]
  · simp [State.continueAt]
  · simp [State.continueAt, State.modMyFlow, State.strand_modFlow, hk]

theorem continuesAt_transfer (g : Nat) (s : State) : ContinuesAt g s (s.transfer g) := by
  obtain ⟨htarget, hctx, hqueues, houtside, hstrands⟩ := continuesAt_continueAt g s
  refine ⟨?_, ?_, ?_, sameOutsideCore_trace houtside _ _ _, fun k hk => ?_⟩
  · rw [State.transfer, bundle_trace, htarget]
  · rw [State.transfer, me_trace, hctx]
  · rw [State.transfer, me_trace, hqueues]
  · rw [State.transfer, strand_trace, hstrands k hk]

theorem keepIndex_eq_keptIndex (x : Int) : keepIndex x = keptIndex x := by
  unfold keepIndex keptIndex
  simp only [Bool.or_eq_true, decide_eq_true_eq]
  split <;> split <;> omega

/-- PTG keeps its target, relative or absolute, as R96 says. -/
theorem ptgEff_eq (f : Fields) (s : State) :
    let v := keptIndex (if f.mod.getLsbD 3 then s.me.ctx.pc + (A64 f s).toInt else (A64 f s).toNat)
    ptgEff f s = s.modCtx s.bundle.core s.bundle.strand (fun x => { x with bt := Table.set x.bt (BT f) v }) := by
  rw [ptgEff, m_one_eq_getLsbD, keepIndex_eq_keptIndex, keepIndex_eq_keptIndex, ← apply_ite keptIndex, s_eq_toInt, ← toNat_A64]
  rfl

/-- BRC transfers where its condition bit has the sense of mod[4], else it falls through. -/
theorem continuesAt_brcEff (f : Fields) (s : State) :
    ContinuesAt (if s.me.ctx.cond (CB f) = f.mod.getLsbD 4 then s.me.bt (BT f) else (s.me.ctx.pc + 3) % 2 ^ 30) s (brcEff f s) := by
  have hcb : f.m 5 3 = CB f := rfl
  rw [brcEff, m_one_eq_getLsbD, hcb]
  by_cases h : s.me.ctx.cond (CB f) = f.mod.getLsbD 4
  · rw [if_pos h, if_pos (beq_iff_eq.mpr h)]
    exact continuesAt_transfer _ s
  · rw [if_neg h, if_neg (mt beq_iff_eq.mp h)]
    exact continuesAt_continueAt _ s

/-- Settles O4: BR, BRC, CALL and RET leave their continuation and nothing else but the trace (`continuesAt_transfer`,
`continuesAt_continueAt`); CALL does so after it has appended its return index. -/
theorem transfersSetTheContinuation : Obligations.TransfersSetTheContinuation := by
  intro f
  refine ⟨?ptg, ?br, ?brc, ?call, ?ret⟩
  case ptg => exact does_of_issueOne (fun _ => rfl) (ptgEff_eq f)
  case br => exact does_of_issueOne (eff := brEff f) (fun _ => rfl) (fun s => continuesAt_transfer _ s)
  case brc => exact does_of_issueOne (fun _ => rfl) (continuesAt_brcEff f)
  case call => exact does_of_issueOne (eff := callEff f) (fun _ => rfl) (fun s => continuesAt_transfer _ _)
  case ret =>
    refine does_of_issueOne (eff := retEff f) (fun _ => rfl) (fun s => ?_)
    rw [retEff, keepIndex_eq_keptIndex, ← toNat_A64]
    exact continuesAt_transfer _ s

/-! ### Votes (R102) -/

theorem anyLane_toNat (l : Nat) (x : BitVec 64) : anyLane l x.toNat = (x.setWidth l != 0) := by
  rw [anyLane, bne, bne, ← beq_toNat, BitVec.toNat_setWidth]; rfl

theorem allLanes_toNat (l : Nat) (x : BitVec 64) : allLanes l x.toNat = (x.setWidth l == BitVec.allOnes l) := by
  rw [allLanes, ← beq_toNat, BitVec.toNat_setWidth, BitVec.toNat_allOnes]

theorem votes_voteEff {f : Fields} {g : Nat → Nat → Bool} {v : State → Bool} (hv : ∀ s, g (voteWidth f) (A64 f s).toNat = v s) (s : State) :
    Votes f v s (voteEff f g s) := by
  have hctx : (s.setCond (f.m 5 3) (g (voteLanes f) (s.opd f.a).u)).me = { s.me with ctx := s.me.ctx.setCond (CB f) (v s) } := by
    rw [← hv]; exact me_modCtx s _
  refine ⟨?_, ?_, sameOutsideCore_trace (sameOutsideCore_setCore (sameOutsideCore_refl s) _) _ _ _⟩
  · rw [voteEff, me_trace, hctx]
  · rw [voteEff, me_trace, hctx]

/-! ### Waits, phases, triggers (R105, R106, R112, R113) -/

theorem flowOnly_phaseEff (s : State) :
    FlowOnly (fun x => { x with phases := x.phases ++ [x.bno], wait := .phase, waited := 0 }) s (phaseEff s) := by
  simp only [FlowOnly, phaseEff, State.startWait, State.modMyFlow, State.modFlow_bundle, modFlow_modFlow]

theorem flowOnly_trigEff (s : State) : FlowOnly (fun x => { x with trig := some (x.trig.getD x.bno) }) s (trigEff s) := by
  rw [FlowOnly, trigEff]
  refine congrArg (s.modFlow s.bundle.core s.bundle.strand) (funext fun x => ?_)
  cases x.trig <;> rfl

/-! ### The end of a strand (R114, R349) -/

/-- Withdrawing a request leaves a strand that does not hold for it, and the bundle, as they were. -/
theorem withdraw_keeps {s : State} {c k : Nat} (h : (s.strand c k).flow.life ≠ .holding) (key : Nat) :
    (s.withdraw key).strand c k = s.strand c k ∧ (s.withdraw key).bundle = s.bundle := by
  unfold State.withdraw
  split
  · split
    · rw [State.setTask_strand, State.setTask_bundle]
      refine List.foldlRecOn (motive := fun u : State => u.strand c k = s.strand c k ∧ u.bundle = s.bundle) _ _ ⟨rfl, rfl⟩ ?_
      rintro u ⟨hstrand, hbundle⟩ p -
      split
      · refine ⟨?_, hbundle⟩
        rw [State.strand_modFlow]
        split
        · next e =>
          obtain ⟨rfl, rfl⟩ := e
          rw [hstrand]
          generalize s.strand p.1 p.2.1 = t at h
          obtain ⟨_, _, ⟨life⟩⟩ := t
          cases life with
          | holding => exact absurd rfl h
          | idle | running | ending => rfl
        · exact hstrand
      · exact ⟨hstrand, hbundle⟩
    · exact ⟨rfl, rfl⟩
  · exact ⟨rfl, rfl⟩

/-- After a withdrawal the task, where it exists, has no request. -/
theorem request_of_withdraw {s : State} {key : Nat} {g : Machine.Task} (h : (s.withdraw key).task? key = some g) : g.request = none := by
  unfold State.withdraw at h
  split at h
  · next t ht =>
    split at h
    · rw [State.task_setTask, if_pos rfl] at h
      cases h; rfl
    · next hr =>
      rw [ht] at h; cases h
      simpa using hr
  · next ht => rw [ht] at h; cases h

theorem me_withdraw {s : State} (h : s.me.flow.life ≠ .holding) (key : Nat) : (s.withdraw key).me = s.me := by
  obtain ⟨hstrand, hbundle⟩ := withdraw_keeps h key
  rw [State.me, hbundle, hstrand, State.me]

/-- END stops the strand and leaves the rest of it as it was. -/
theorem me_endEff (s : State) : (endEff s).me = { s.me with flow := { s.me.flow with life := .ending } } := by
  rw [endEff, me_withdraw (by simp), me_modMyFlow]

/-- Settles O6: the votes set their condition bit (`votes_voteEff`), KWAIT, QWAIT, PHASE and TRIG change the flow of their strand alone,
END stops its strand (`me_endEff`) and leaves no request (`request_of_withdraw`). -/
theorem votesWaitsPhasesAndEnds : Obligations.VotesWaitsPhasesAndEnds := by
  intro f
  refine ⟨?vany, ?vall, ?ktest, ?kwait, ?qwait, ?phase, ?trig, ?ending⟩
  case vany => exact does_of_issueOne (fun _ => rfl) (votes_voteEff (fun s => anyLane_toNat _ (A64 f s)))
  case vall => exact does_of_issueOne (fun _ => rfl) (votes_voteEff (fun s => allLanes_toNat _ (A64 f s)))
  case ktest => exact does_of_issueOne (eff := ktestEff f) (fun _ => rfl) (fun _ => rfl)
  case kwait => exact does_of_issueOne (eff := kwaitEff f) (fun _ => rfl) (fun _ => rfl)
  case qwait => exact does_of_issueOne (eff := qwaitEff f) (fun _ => rfl) (fun _ => rfl)
  case phase => exact does_of_issueOne (fun _ => rfl) flowOnly_phaseEff
  case trig => exact does_of_issueOne (fun _ => rfl) flowOnly_trigEff
  case ending =>
    refine does_of_issueOne (eff := endEff) (fun _ => rfl) (fun s => ?_)
    refine ⟨?_, ?_, ?_, State.mem_of_frame (State.frame_endEff s), fun g hg => request_of_withdraw hg⟩
    · rw [me_endEff]
    · rw [me_endEff]
    · rw [me_endEff]

end Sys2Proof.ControlEffects
end

section
/-! What the minima, maxima, sign operations, compares, classes and masks of the V slot append (R129-R133): a slot from its lanes and the
lanes of a source, the lanes and the mask of an effect, the mask of a compare, and the sign bit of a lane. -/

namespace Sys2Proof.VectorEffects
open Sys2Proof Sys2Proof.Machine Sys2Proof.Claims Sys2Proof.ScalarEffects

/-! ### A slot from its lanes, the lanes of a source (R51, R63) -/

/-- Field j of w bits of a slot is the lane it was made of. -/
theorem ofLanes_div_mod (w : Nat) (xs : List Nat) (j : Nat) : ofLanes w xs / 2 ^ (w * j) % 2 ^ w = xs.getD j 0 % 2 ^ w := by
  induction xs generalizing j with
  | nil => simp [ofLanes]
  | cons x xs ih =>
    cases j with
    | zero => simp [ofLanes]
    | succ j =>
      have hrest : ofLanes w (x :: xs) / 2 ^ w = ofLanes w xs := by
        rw [ofLanes, Nat.add_mul_div_left _ _ (Nat.two_pow_pos w), Nat.div_eq_of_lt (Nat.mod_lt _ (Nat.two_pow_pos w)), Nat.zero_add]
      rw [Nat.mul_succ, Nat.add_comm, Nat.pow_add, ← Nat.div_div_eq_div_mul, hrest, ih, List.getD_cons_succ]

/-- A lane that lies whole within the 2,048 bits of a slot. -/
theorem laneAt_ofNat {w j : Nat} (h : j < 2048 / w) (n : Nat) : laneAt w (BitVec.ofNat 2048 n) j = BitVec.ofNat w (n / 2 ^ (w * j)) := by
  have hin : w * j + w ≤ 2048 := by
    rw [← Nat.mul_succ, Nat.mul_comm]
    exact Nat.mul_le_of_le_div _ _ _ h
  apply BitVec.eq_of_getLsbD_eq
  intro i hi
  rw [laneAt, BitVec.getLsbD_extractLsb', BitVec.getLsbD_ofNat, BitVec.getLsbD_ofNat, Nat.testBit_div_two_pow,
    decide_eq_true (show w * j + i < 2048 by omega), Bool.true_and, Nat.add_comm]

theorem laneAt_ofLanes_range {w j : Nat} (h : j < 2048 / w) (g : Nat → Nat) :
    laneAt w (BitVec.ofNat 2048 (ofLanes w ((List.range (2048 / w)).map g))) j = BitVec.ofNat w (g j) := by
  apply BitVec.eq_of_toNat_eq
  rw [laneAt_ofNat h, BitVec.toNat_ofNat, BitVec.toNat_ofNat, ofLanes_div_mod]
  simp [h]

theorem lanes_eq_srcLane (o : Opd) (w : Nat) : o.lanes w = (List.range (2048 / w)).map (fun j => (srcLane w o j).toNat) := by
  unfold Opd.lanes srcLane
  cases o.lit with
  | true => simp
  | false => rfl

theorem zip3_lanes (g : Nat → Nat → Nat → Nat) (w : Nat) (a b c : Opd) : zip3 g (a.lanes w) (b.lanes w) (c.lanes w) =
    (List.range (2048 / w)).map (fun j => g (srcLane w a j).toNat (srcLane w b j).toNat (srcLane w c j).toNat) := by
  simp only [zip3, lanes_eq_srcLane, List.zip_map', List.map_map, Function.comp_def]

/-! ### Lanes and masks that are appended -/

/-- The effect of a syllable that computes a slot lane by lane appends these lanes. -/
theorem appendsLanes_of_vectorEff {i : Instr} {f : Fields} {lat w : Nat} {r : Strand → Opd → Opd → Opd → VRes} {tag : State → Nat}
    {g : State → Nat → Nat} {v : State → Nat → BitVec w} (hi : ∀ s, exec i s = issueOne i (vectorEff f lat r) s)
    (hr : ∀ s, r s.me (s.opd f.a) (s.opd f.b) (s.opd f.c) = (tag s, ofLanes w ((List.range (2048 / w)).map (g s))))
    (hv : ∀ s j, BitVec.ofNat w (g s j) = v s j) : AppendsLanes i f lat tag (fun _ => w) (fun _ => 2048 / w) v := by
  refine does_of_issueOne hi (fun s => ⟨_, ?_, fun j hj => (laneAt_ofLanes_range hj (g s)).trans (hv s j)⟩)
  rw [vectorEff, hr, State.appendVector]

/-- FMIN, FMAX, FABS and FNEG: a function of the bits of the lanes of A and B (R129). -/
theorem appendsLanes_fpBits {i : Instr} {t : FFmt} {f : Fields} {lat : Nat} {g : IEEE → Nat → Nat → Nat} {v : State → Nat → BitVec (fw t)}
    (hi : ∀ s, exec i s = issueOne i (vectorEff f lat (fpBits t g)) s)
    (hv : ∀ s j, BitVec.ofNat (fw t) (g (FFmt.ieee t) (La (fw t) f s j).toNat (Lb (fw t) f s j).toNat) = v s j) :
    AppendsLanes i f lat (fun _ => fmtTag t) (fun _ => fw t) (fun _ => 2048 / fw t) v := by
  refine appendsLanes_of_vectorEff hi (fun s => ?_) hv
  rw [fpBits, fpMap, zip3_lanes]
  rfl

/-- The effect of a syllable that computes a mask appends its 64 bits (R51). -/
theorem appendsMask_of_vectorEff {i : Instr} {f : Fields} {r : Strand → Opd → Opd → Opd → VRes} {m : State → Nat} {b : State → Nat → Bool}
    (hi : ∀ s, exec i s = issueOne i (vectorEff f 2 r) s) (hr : ∀ s, r s.me (s.opd f.a) (s.opd f.b) (s.opd f.c) = maskRes (m s))
    (hb : ∀ s j, j < 64 → (m s).testBit j = b s j) : AppendsMask i f b := by
  refine does_of_issueOne hi (fun s => ⟨BitVec.ofNat 64 (m s), ?_, fun j hj => ?_⟩)
  · rw [vectorEff, hr, State.appendVector, maskRes, ← BitVec.toNat_ofNat, BitVec.ofNat_toNat]
  · rw [BitVec.getLsbD_ofNat, hb s j hj, decide_eq_true hj, Bool.true_and]

/-- The effect of a V syllable that computes one number of 64 bits appends it. -/
theorem appends64_of_vectorEff {i : Instr} {f : Fields} {lat : Nat} {r : Strand → Opd → Opd → Opd → VRes} {tag : State → Nat}
    {v : State → BitVec 64} (hi : ∀ s, exec i s = issueOne i (vectorEff f lat r) s)
    (hr : ∀ s, r s.me (s.opd f.a) (s.opd f.b) (s.opd f.c) = (tag s, (v s).toNat)) : Appends64 i f lat tag v := by
  refine does_of_issueOne hi (fun s => ?_)
  rw [vectorEff, hr, State.appendVector, BitVec.ofNat_toNat]

/-! ### The mask of a compare (R130) -/

/-- A word made of the bits below n that satisfy p: it is below 2^n, so that bit n is still clear when its turn comes. -/
theorem ofBits_filter_range (p : Nat → Bool) (n : Nat) :
    ofBits ((List.range n).filter p) < 2 ^ n ∧ ∀ j, (ofBits ((List.range n).filter p)).testBit j = (decide (j < n) && p j) := by
  induction n with
  | zero => simp [ofBits]
  | succ n ih =>
    obtain ⟨hlt, hbits⟩ := ih
    have hclear : bit (ofBits ((List.range n).filter p)) n = false := by simp [bit, Nat.div_eq_of_lt hlt]
    have hword : ofBits ((List.range (n + 1)).filter p) = ofBits ((List.range n).filter p) ||| (if p n then 2 ^ n else 0) := by
      rw [List.range_succ, List.filter_append, ofBits, List.foldl_append, ← ofBits]
      by_cases hp : p n <;> simp [hp, hclear, Nat.or_two_pow_eq_add_of_lt hlt]
    have hnew : ∀ j, (if p n then 2 ^ n else 0 : Nat).testBit j = (decide (n = j) && p n) := fun j => by
      by_cases hp : p n <;> simp [hp, Nat.testBit_two_pow]
    refine ⟨?_, fun j => ?_⟩
    · rw [hword]
      exact Nat.or_lt_two_pow (by omega) (by split <;> omega)
    · rw [hword, Nat.testBit_or, hbits, hnew]
      obtain rfl | hj := eq_or_ne n j
      · simp
      · simp [hj, show j < n + 1 ↔ j < n by omega]

theorem testBit_ofBits_filter_upto (p : Nat → Bool) (n j : Nat) : (ofBits ((upto n).filter p)).testBit j = (decide (j < n) && p j) :=
  (ofBits_filter_range p n).2 j

/-- The mask of the outcomes of n lanes. -/
theorem testBit_compareMask (n : Nat) (h : Nat → Bool) {j : Nat} (hj : j < 64) :
    (compareMask ((List.range n).map h)).testBit j = maskBit n h j := by
  rw [compareMask, testBit_ofBits_filter_upto, List.length_map, List.length_range, maskBit]
  by_cases hn : n ≤ 64
  · simp only [if_pos hn]
    by_cases hlane : j < n <;> simp [hlane]
  · simp only [if_neg hn, decide_eq_true hj, Bool.true_and]
    rw [upto, Bool.eq_iff_iff, List.all_eq_true, List.all_eq_true]
    refine forall₂_congr (fun d hd => ?_)
    have hlane : j * (n / 64) + d < n := by
      have hrow : (j + 1) * (n / 64) ≤ 64 * (n / 64) := Nat.mul_le_mul_right _ hj
      have hd := List.mem_range.mp hd
      rw [Nat.succ_mul] at hrow
      omega
    simp [hlane]

/-- FCMP and ICMP: the mask of a relation between the lanes of A and B. -/
theorem testBit_compareMask_lanes (w : Nat) (a b : Opd) (h : Nat → Nat → Bool) {j : Nat} (hj : j < 64) :
    (compareMask (((a.lanes w).zip (b.lanes w)).map (fun p => h p.1 p.2))).testBit j =
      maskBit (2048 / w) (fun j => h (srcLane w a j).toNat (srcLane w b j).toNat) j := by
  rw [lanes_eq_srcLane, lanes_eq_srcLane, List.zip_map', List.map_map]
  exact testBit_compareMask _ _ hj

theorem iRead_toNat (t : ITy) (x : BitVec (iw t)) : iRead t x.toNat = asInt t x := by
  have hw : BitVec.ofNat (ityBits t) x.toNat = x := by rw [BitVec.ofNat_toNat]; exact BitVec.setWidth_eq x
  have hn : x.toNat % 2 ^ ityBits t = x.toNat := Nat.mod_eq_of_lt x.isLt
  rw [iRead, sval_eq_toInt, hw, hn]
  rfl

/-! ### The sign bit (R41, R129) -/

/-- The sign bit lies above the exponent and the mantissa. -/
theorem width_eq_succ (g : IEEE) : g.width = g.eb + g.mb + 1 := by rw [IEEE.width]; omega

theorem getLsbD_intMin_width (g : IEEE) (i : Nat) : (BitVec.intMin g.width).getLsbD i = decide (i = g.eb + g.mb) := by
  rw [BitVec.getLsbD_intMin, width_eq_succ, decide_eq_decide]; omega

/-- Adding 2^n inverts bit n and leaves the bits below it. -/
theorem testBit_two_pow_add {n i : Nat} (hi : i ≤ n) (x : Nat) : (2 ^ n + x).testBit i = (x.testBit i ^^ decide (i = n)) := by
  obtain rfl | hlt := Nat.eq_or_lt_of_le hi
  · simp [Nat.testBit_two_pow_add_eq]
  · simp [Nat.testBit_two_pow_add_gt hlt, Nat.ne_of_lt hlt]

theorem testBit_flipSign (g : IEEE) (x y : Nat) {i : Nat} (hi : i ≤ g.eb + g.mb) :
    (flipSign g x y).testBit i = (x.testBit i ^^ decide (i = g.eb + g.mb)) := by
  unfold flipSign
  split
  · next hsign =>
    have hle : 2 ^ (g.eb + g.mb) ≤ x :=
      Nat.ge_two_pow_of_testBit (by simpa [bit, Nat.testBit_eq_decide_div_mod_eq] using hsign)
    obtain ⟨r, rfl⟩ := Nat.exists_eq_add_of_le hle
    simp [testBit_two_pow_add hi]
  · rw [Nat.add_comm, testBit_two_pow_add hi]

theorem ofNat_clearSign (g : IEEE) (x : BitVec g.width) (y : Nat) :
    BitVec.ofNat g.width (clearSign g x.toNat y) = x &&& ~~~(BitVec.intMin g.width) := by
  apply BitVec.eq_of_getLsbD_eq
  intro i hi
  have hbit : decide (i < g.eb + g.mb) = !decide (i = g.eb + g.mb) := by
    rw [width_eq_succ] at hi
    rw [← decide_not, decide_eq_decide]; omega
  rw [BitVec.getLsbD_ofNat, clearSign, Nat.testBit_mod_two_pow, BitVec.getLsbD_and, BitVec.getLsbD_not, getLsbD_intMin_width,
    ← BitVec.getLsbD, hbit, decide_eq_true hi, Bool.true_and, Bool.true_and, Bool.and_comm]

theorem ofNat_flipSign (g : IEEE) (x : BitVec g.width) (y : Nat) :
    BitVec.ofNat g.width (flipSign g x.toNat y) = x ^^^ BitVec.intMin g.width := by
  apply BitVec.eq_of_getLsbD_eq
  intro i hi
  have hle : i ≤ g.eb + g.mb := by rw [width_eq_succ] at hi; omega
  rw [BitVec.getLsbD_ofNat, testBit_flipSign g _ _ hle, BitVec.getLsbD_xor, getLsbD_intMin_width, decide_eq_true hi, Bool.true_and,
    BitVec.getLsbD]

/-! ### Class words and counts (R132, R133) -/

theorem ofNat_two_pow (w n : Nat) : BitVec.ofNat w (2 ^ n) = BitVec.twoPow w n :=
  BitVec.eq_of_toNat_eq (by rw [BitVec.toNat_ofNat, BitVec.toNat_twoPow])

theorem fclassRes_eq (t : FFmt) (x : Strand) (a b c : Opd) : fclassRes t x a b c =
    (if t = .f64 then 8 else if t = .f32 then 7 else 6,
      ofLanes (fw t) ((List.range (2048 / fw t)).map (fun j => 2 ^ classBit (FFmt.ieee t) (srcLane (fw t) a j).toNat))) := by
  simp only [fclassRes, lanes_eq_srcLane, List.map_map]
  cases t <;> rfl

theorem popcount_toNat (x : BitVec 64) : popcount 64 x.toNat = x.cpop.toNat := by
  rw [BitVec.toNat_cpop, cpopNatRec_eq_popcount, Nat.zero_add]

/-- Settles O14: the lanes of FMIN, FMAX, FABS and FNEG are functions of the bits of A and B (`appendsLanes_fpBits`, with
`ofNat_clearSign` and `ofNat_flipSign` for the sign bit), those of FCLASS the class words (`fclassRes_eq`); FCMP and ICMP append the mask
of their relation (`testBit_compareMask_lanes`), MAND, MOR and MNOT the mask of their bits, MPOPC its count (`popcount_toNat`). -/
theorem signsComparesClassesAndMasks : Obligations.SignsComparesClassesAndMasks := by
  refine ⟨fun t f => ⟨?fmin, ?fmax, ?fabs, ?fneg, ?fcmp, ?fclass⟩, fun t f => ?icmp, fun f => ⟨?mand, ?mor, ?mnot, ?mpopc⟩⟩
  case fmin => exact appendsLanes_fpBits (fun _ => rfl) (fun _ _ => rfl)
  case fmax => exact appendsLanes_fpBits (fun _ => rfl) (fun _ _ => rfl)
  case fabs => exact appendsLanes_fpBits (fun _ => rfl) (fun _ _ => ofNat_clearSign (FFmt.ieee t) _ _)
  case fneg => exact appendsLanes_fpBits (fun _ => rfl) (fun _ _ => ofNat_flipSign (FFmt.ieee t) _ _)
  case fcmp =>
    exact appendsMask_of_vectorEff (fun _ => rfl) (fun _ => rfl) (fun s _ hj => testBit_compareMask_lanes (fw t) (s.opd f.a) (s.opd f.b)
      (fun x y => fcmpHolds (f.m 3 4) ((FFmt.ieee t).value x) ((FFmt.ieee t).value y)) hj)
  case fclass => exact appendsLanes_of_vectorEff (fun _ => rfl) (fun _ => fclassRes_eq t _ _ _ _) (fun _ _ => ofNat_two_pow _ _)
  case icmp =>
    refine appendsMask_of_vectorEff (fun _ => rfl) (fun _ => rfl) (fun s _ hj => ?_)
    simp only [← iRead_toNat]
    exact testBit_compareMask_lanes (iw t) (s.opd f.a) (s.opd f.b) (fun x y => icmpHolds (f.m 3 4) (iRead t x) (iRead t y)) hj
  case mand =>
    exact appendsMask_of_vectorEff (m := fun s => (A64 f s &&& B64 f s).toNat) (fun _ => rfl) (fun _ => rfl) (fun _ _ _ => BitVec.getLsbD_and)
  case mor =>
    exact appendsMask_of_vectorEff (m := fun s => (A64 f s ||| B64 f s).toNat) (fun _ => rfl) (fun _ => rfl) (fun _ _ _ => BitVec.getLsbD_or)
  case mnot =>
    refine appendsMask_of_vectorEff (m := fun s => (~~~(A64 f s)).toNat) (fun _ => rfl) (fun _ => rfl) (fun s j hj => ?_)
    rw [BitVec.testBit_toNat, BitVec.getLsbD_not, decide_eq_true hj, Bool.true_and]
  case mpopc =>
    exact appends64_of_vectorEff (tag := fun _ => 8) (v := fun s => (A64 f s).cpop) (fun _ => rfl)
      (fun s => congrArg (Prod.mk 8) (popcount_toNat (A64 f s)))

end Sys2Proof.VectorEffects
end
